-- ==== Sys2Proof/Word.lean ====
section
/-!
DEFINITION. Word.lean: the words of the JT4 and the small index types every other file uses.
Widths follow 00_scope.md (R6, R7) and 08_grepen_core.md (R221); a die has four polders, a polder four berths
and four clerk harts (01_polders.md, R17), two sluices (R and C) and two HBM stacks.
-/
namespace Sys2Proof

/-- One byte of any memory of the die. -/
abbrev Byte := BitVec 8

/-- One register of the register window (R66). -/
abbrev Word := BitVec 32

/-- One cell of a berth's stacks (R221), and one register pair (R67). -/
abbrev Cell := BitVec 64

/-- An index among four like things: a polder of the die, a berth or a hart of a polder, a regulator. -/
inductive Ix4 where
  | i0 | i1 | i2 | i3
deriving DecidableEq, Repr

/-- The index as the spec numbers it. -/
def Ix4.toNat : Ix4 → Nat
  | .i0 => 0 | .i1 => 1 | .i2 => 2 | .i3 => 3

/-- The index with number `n`, taken modulo 4. -/
def Ix4.of (n : Nat) : Ix4 :=
  match n % 4 with
  | 0 => .i0 | 1 => .i1 | 2 => .i2 | _ => .i3

/-- The four indices in ascending order. -/
def Ix4.all : List Ix4 := [.i0, .i1, .i2, .i3]

/-- Four like things by index. -/
structure Quad (α : Type) where
  a0 : α
  a1 : α
  a2 : α
  a3 : α
deriving DecidableEq, Repr

def Quad.get {α : Type} (q : Quad α) : Ix4 → α
  | .i0 => q.a0 | .i1 => q.a1 | .i2 => q.a2 | .i3 => q.a3

def Quad.set {α : Type} (q : Quad α) (i : Ix4) (x : α) : Quad α :=
  match i with
  | .i0 => { q with a0 := x } | .i1 => { q with a1 := x }
  | .i2 => { q with a2 := x } | .i3 => { q with a3 := x }

def Quad.const {α : Type} (x : α) : Quad α := ⟨x, x, x, x⟩

def Quad.map {α β : Type} (f : α → β) (q : Quad α) : Quad β := ⟨f q.a0, f q.a1, f q.a2, f q.a3⟩

def Quad.toList {α : Type} (q : Quad α) : List α := [q.a0, q.a1, q.a2, q.a3]

/-- A sluice of a polder: R on the row basin, C on the column basin. -/
inductive Side where
  | r | c
deriving DecidableEq, Repr

def Side.other : Side → Side
  | .r => .c | .c => .r

/-- An HBM stack of a polder, or a mailbox of a Watchhouse (the first is BAR4, the second the inner one). -/
inductive Ix2 where
  | z | o
deriving DecidableEq, Repr

def Ix2.toNat : Ix2 → Nat
  | .z => 0 | .o => 1

/-- Two like things, by sluice or by stack. -/
structure Duo (α : Type) where
  fst : α
  snd : α
deriving DecidableEq, Repr

def Duo.get {α : Type} (d : Duo α) : Side → α
  | .r => d.fst | .c => d.snd

def Duo.set {α : Type} (d : Duo α) (i : Side) (x : α) : Duo α :=
  match i with
  | .r => { d with fst := x } | .c => { d with snd := x }

def Duo.at {α : Type} (d : Duo α) : Ix2 → α
  | .z => d.fst | .o => d.snd

def Duo.put {α : Type} (d : Duo α) (i : Ix2) (x : α) : Duo α :=
  match i with
  | .z => { d with fst := x } | .o => { d with snd := x }

def Duo.const {α : Type} (x : α) : Duo α := ⟨x, x⟩

/-- The truth value as a bit's number. -/
def bit (b : Bool) : Nat := if b then 1 else 0

/-- The quotient rounded up; the divisor is positive wherever the spec uses it. -/
def ceilDiv (n d : Nat) : Nat := (n + d - 1) / d

end Sys2Proof
end

