-- ==== Sys2Proof/Syntax/Operand.lean ====
section
/-!
DEFINITION. Syntax/Operand.lean: what a command carries.
The table of commands (spec/opcode_table.json) gives no operand bits, so the operands are the values the spec's text
says come with each step: bytes a flash delivers, a frame a sluice hears, a host request, a mailbox request, samples.
-/
namespace Sys2Proof

/-- A rail of R563. -/
inductive Rail where
  | aon | io | core | hbm | opt
deriving DecidableEq, Repr

/-- A master whose register accesses are checked (R76, R77, R89): a berth through an engine, a clerk hart, the host PF,
the Watchhouse bus master. -/
inductive Master where
  | berth (i : Ix4) | hart (i : Ix4) | host | watchhouse
deriving DecidableEq, Repr

/-- What the flash answers to step 1 of R38 and how it is wired: SFDP signature valid, density in bytes, the LANES codes
the BFPT describes, the Octal DDR table, 50 MHz allowed, CHn_DQS connected (R576). -/
structure Sfdp where
  valid : Bool
  density : Nat
  lanes : List Nat
  octal : Bool
  sck50 : Bool
  dqs : Bool
deriving DecidableEq, Repr

/-- What the flash answers to steps 3 and 4 of R38: whether mode entry and readback succeeded, and the bytes. -/
structure BodyRead where
  ok : Bool
  bytes : List Byte
deriving DecidableEq, Repr

/-- One slot of the Warden flash as the Warden reads it: header bytes, mode entry, the rest of the image. -/
structure SlotRead where
  header : List Byte
  body : BodyRead
deriving DecidableEq, Repr

/-- What the Warden SPI port reads (R54). -/
structure WardenFlash where
  sfdp : Sfdp
  slotA : SlotRead
  slotB : SlotRead
deriving DecidableEq, Repr

/-- What the Warden samples in step 1 of an epoch (R153): the monitor of each polder, none where invalid (R176), and the
eight temperature sensors in 1/16 °C, none where a reading is not valid. -/
structure Sample where
  imon : Quad (Option Nat)
  temps : List (Option Int)
deriving DecidableEq, Repr

/-- What falls in the same cycle as a register write: bits that hardware sets (R72), an increment of the counter (R92), and
whether the cycle is the boundary cycle (R58). -/
structure Coincide where
  setBits : BitVec 64
  inc : Nat
  boundary : Bool
deriving DecidableEq, Repr

/-- A register access of a master: window offset, width in bytes, data (R66). -/
structure RegAccess where
  master : Master
  offset : Nat
  size : Nat
  data : BitVec 64
deriving DecidableEq, Repr

/-- A host memory request at offset `addr` of BAR2, or of BAR0 where `bar0` says so (R71, R509, R510, R520): double words, byte
enables, payload, and what R522 and R529 refuse. -/
structure HostReq where
  bar0 : Bool
  addr : Nat
  write : Bool
  dw : Nat
  firstBE : BitVec 4
  lastBE : BitVec 4
  data : List Byte
  poisoned : Bool
  atomic : Bool
  tlpPfx : Bool
deriving DecidableEq, Repr

/-- What a configuration write of the host leaves set in a PF (R521, R525), with the codes of Max_Payload_Size and
Max_Read_Request_Size (R507): 128 bytes times two to the code. -/
structure ConfigBits where
  mse : Bool
  bme : Bool
  msixEnable : Bool
  functionMask : Bool
  payload : BitVec 3
  readSize : BitVec 3
deriving DecidableEq, Repr

/-- The fields of a wide body beside its class (R257). -/
structure WideBody where
  func : Byte
  flags : Byte
  msel : Byte
  d : BitVec 72
  a : BitVec 72
  b : BitVec 72
  tally : Byte
deriving DecidableEq, Repr

/-- A frame of R424 and R426 before its tag. -/
structure Frame where
  typ : BitVec 4
  version : BitVec 4
  part : Bool
  relayed : Bool
  multicast : Bool
  xmit : BitVec 12
  src : BitVec 12
  dst : BitVec 12
  sgrid : BitVec 6
  dgrid : BitVec 6
  tide : Word
  seq : Word
  opinfo : Word
  slot : BitVec 6
  wave : BitVec 4
  sf : BitVec 16
  payload : List Byte
deriving DecidableEq, Repr

/-- A frame as a sluice hears it (R429): FEC outcome and corrected symbols, the tag, the cell and superframe in which it was heard, and the
generation of its signal (R419). -/
structure Heard where
  clean : Bool
  corrected : Nat
  frame : Frame
  tag : BitVec 64
  slot : BitVec 6
  wave : BitVec 4
  sf : Nat
  b2 : Bool
deriving DecidableEq, Repr

/-- The echo of the oldest frame sent: whether it equals what was sent, whether it was lost, so that nothing was heard in the cell (R454),
and the measured RTT in ns (R425, R430). -/
structure EchoOf where
  equal : Bool
  lost : Bool
  rtt : Nat
deriving DecidableEq, Repr

/-- A mailbox request (R535): the mailbox (first BAR4, second inner), the doorbell's sequence number, the header and the data
area's bytes. -/
structure MbReq where
  box : Ix2
  seq : BitVec 16
  sub : Byte
  space : Byte
  unit : Byte
  len : Nat
  addr : Nat
  args : BitVec 128
  data : List Byte
deriving DecidableEq, Repr

/-- The operation of an AMO. -/
inductive AmoOp where
  | swap | add | xor | and | or | min | max | minu | maxu
deriving DecidableEq, Repr

/-- What a hart access does (R496): a load into `rd`, a store, an AMO, a load-reserved, a store-conditional, or a fetch. -/
inductive HartKind where
  | load (rd : BitVec 5) (signed : Bool) (fp : Bool)
  | store
  | amo (op : AmoOp) (rd : BitVec 5)
  | lr (rd : BitVec 5)
  | sc (rd : BitVec 5)
  | fetch
deriving DecidableEq, Repr

/-- A hart's access: kind, virtual address, width in bytes, the value stored. -/
structure HartOp where
  kind : HartKind
  va : BitVec 64
  size : Nat
  value : BitVec 64
deriving DecidableEq, Repr

/-- How far a long operation gets (R240, R253): to its end; up to the chunk that was being read when an interrupt that can be taken became
pending; or so many chunks before a drop or a timeout finds it in progress. -/
inductive LongStop where
  | whole | interrupted (chunk : Nat) | cut (chunks : Nat)
deriving DecidableEq, Repr

/-- A berth at the end of a stall, with the mill cycles that it has stood in it (R229, R277): 0 where it stood in none. -/
structure Stood where
  berth : Ix4
  stall : Nat
deriving DecidableEq, Repr

/-- A background request of an HBM controller that is forced (R335): a patrol read, with the wrong bits of the unit read, or a telemetry read,
with the temperature answered. -/
inductive Background where
  | patrol (flips : Nat) | telemetry (temp : Nat)
deriving DecidableEq, Repr

end Sys2Proof
end

