-- ==== Sys2Proof/Syntax.lean ====
section
/-!
DEFINITION. Syntax.lean: the commands of the JT4, one constructor for each row of spec/opcode_table.json, in its order.
`p` is the polder, `b` a berth, `h` a clerk hart, `sd` a sluice, `m` the master of a register access; the other operands
are the data the step comes with (Syntax/Operand.lean). `dt` is the die time in ns that has passed before the command,
`dmc` the mill cycles a waiting berth was stalled, `n` which of the waiting things the command is about, oldest first.
-/
namespace Sys2Proof

/-- A command: one step of the table of operations and events. -/
inductive Instr where
  /-- POWER_ON (R95). VDD_AON enters its range: the Warden and the four Watchhouses start and the die timebase starts at 0. -/
  | powerOn
  /-- WARDEN_CHARTER_LOAD (R54). The Warden reads its charter from the Warden SPI port by the slot rules of R38, R40 and R46, then applies it. -/
  | wardenCharterLoad (f : WardenFlash)
  /-- PERST_ASSERT (R109). PERST# asserts: polder cold reset of every present polder and reset of the host port. -/
  | perstAssert
  /-- PERST_DEASSERT (R96). PERST# deasserts, which fulfils one condition for releasing the polders from POWERED. -/
  | perstDeassert
  /-- POLDER_RELEASE (R96). All rails have been in range for 1 ms and PERST# is deasserted: every present polder leaves POWERED, and a fused-off polder enters ABSENT. -/
  | polderRelease
  /-- RAILFAULT (R119). A rail stays out of range for more than 2 us: cold reset of every polder and a hold in POWERED. -/
  | railfault (rail : Rail)
  /-- RAW_WINDOW_END (R113). 10 ms after VDD_CORE enters range, the Warden stops dividing from raw sensor readings alone. -/
  | rawWindowEnd
  /-- THERMTRIP (R159). A sensor reaches T_TRIP: THERMTRIP# asserts, the polder clocks stop and grants are withdrawn. -/
  | thermtrip
  /-- FLR (R84). FLR of PFn performs a polder warm reset: it releases impounds and reboots polder n from its Charter. -/
  | flr (p : Ix4)
  /-- PF4_FLR (R32). FLR of PF4 reinitialises only PF4's PCIe function state and releases a WARDEN_IMP impound. -/
  | pf4Flr
  /-- WH_RESET (R555). A write of 0x5752 to WH_RESET resets the Watchhouse: commands abort, halts and TIDE_FREEZE end, and the level returns to L0. -/
  | whReset (p : Ix4) (box : Ix2) (v : Word)
  /-- CHARTER_ZERO_FILL_DONE (R98). The Granary and Counter zero fill on entry into CHARTER completes, and Charter step 1 begins. -/
  | charterZeroFillDone (p : Ix4)
  /-- CHARTER_SFDP_READ (R38). After the 30 us wait that follows 0xAB, the Charter port reads the SFDP header and the BFPT. -/
  | charterSfdpRead (p : Ix4) (f : Sfdp)
  /-- CHARTER_HEADER_READ (R45). The image header has been read: the header checks run, and a failing slot fails without its body being read. -/
  | charterHeaderRead (p : Ix4) (bytes : List Byte)
  /-- CHARTER_BODY_READ (R38). The rest of the image has been read: signature, key and rollback checks, then the framing scan, then application of the records. -/
  | charterBodyRead (p : Ix4) (rd : BodyRead)
  /-- HBM_TRAINING_DONE (R101). Training completes on the enabled stacks, and the HBM zero fill starts. -/
  | hbmTrainingDone (p : Ix4)
  /-- HBM_TRAINING_TIMEOUT (R100). A stack has not trained within 150 ms, or 600 ms for EXTENDED training: cause 0x0B, and the polder strands. -/
  | hbmTrainingTimeout (p : Ix4)
  /-- HBM_ZERO_FILL_DONE (R38). The HBM zero fill ends: deferred BLOCK records apply, the staging bins are zeroed, the flash is put in deep power-down, CHARTER_LOCK is set and BASINJOIN is entered. -/
  | hbmZeroFillDone (p : Ix4)
  /-- JOIN_DELAY_EXPIRY (R104). The seeded join delay after the first valid beacon ends, and the sluice sends its first REQUEST in contention slot seed[11:10]. -/
  | joinDelayExpiry (p : Ix4) (sd : Side)
  /-- JOIN_SLOW (R106). 100 ms in BASINJOIN pass without both sluices joined: JOIN_SLOW is set, and BASINJOIN ends if one sluice has joined. -/
  | joinSlow (p : Ix4)
  /-- RELOCK_REQUEST (R130). A relock is requested: SAFE is set and every output joins the SAFE clock at the next REFCLKn edge. -/
  | relockRequest (p : Ix4)
  /-- LOCK_DECLARED (R130). The phase error stays within the lock window for one REFCLKn cycle, and the lock counter starts. -/
  | lockDeclared (p : Ix4)
  /-- DIVIDER_RELEASE (R130). The lock counter reaches 2048: the dividers are reset and released, LOCKED is set and SAFE is cleared. -/
  | dividerRelease (p : Ix4)
  /-- LOCK_RETRY (R136). A boot lock has not released within 1 ms and starts again at step 3, and LOCK_RETRY_COUNT increments. -/
  | lockRetry (p : Ix4)
  /-- REF_LOST (R137). No REFCLKn edge within REF_LOSS_PERIODS periods: REF_LOST and COASTING are set and the PLL coasts. -/
  | refLost (p : Ix4)
  /-- COAST_LONG (R138). A coast passes 10 ms and COAST_LONG is set. -/
  | coastLong (p : Ix4)
  /-- REF_REACQUIRED (R139). The reference has been present for 1024 periods: in-place re-acquisition with realignment, or a relock. -/
  | refReacquired (p : Ix4) (inRange : Bool)
  /-- MILL_DIV_WRITE (R126). A write to MILL_DIV schedules a divider step at the first qualifying coincidence point. -/
  | millDivWrite (p : Ix4) (m : Master) (v : Word)
  /-- DIVIDER_STEP (R127). At the coincidence point the mill clock changes divider without a short pulse, and a new skip window starts. -/
  | dividerStep (p : Ix4)
  /-- CLK_TEST_WRITE (R135). An L2 Watchhouse write to CLK_TEST starts a relock to N = 24 or back to N = 48; any other master commits a LOCK violation. -/
  | clkTestWrite (p : Ix4) (m : Master) (v : Word)
  /-- HBM_PLL_UNLOCK (R350). An HBM PHY PLL loses lock: the flag is set and the stack is held and retrained. -/
  | hbmPllUnlock (p : Ix4) (st : Ix2)
  /-- SLUICE_PLL_UNLOCK (R454). A sluice PLL loses lock: the flag is set and the sluice is SILENT until the PLL relocks. -/
  | sluicePllUnlock (p : Ix4) (sd : Side)
  /-- WARDEN_EPOCH (R153). Every 1 us the Warden samples REQ, IMON, LIVE and temperature, derates and divides the pool, and delivers grants and skip levels. -/
  | wardenEpoch (x : Sample)
  /-- OVERBUDGET (R177). The corrected IMON sum exceeds B for 8 consecutive epochs: OVERBUDGET is set and over-drawing governors add 4 to s. -/
  | overbudget
  /-- VR_HOT (R164). VR_HOT# asserts: every skip level is forced to 48 within 1 us, and VR_HOT_COUNT increments. -/
  | vrHot
  /-- VR_HOT_RELEASE (R164). VR_HOT# has stayed deasserted for 10 epochs: the force ends and the governors resume from 48. -/
  | vrHotRelease
  /-- VR_ALERT (R165). VR_ALERT# is asserted, and the Warden reads STATUS_WORD from each configured regulator. -/
  | vrAlert
  /-- STATUS_WORD (R165). A regulator's STATUS_WORD arrives: rail fault, pool halving, or CLEAR_FAULTS with VR_ALERT_SEEN. -/
  | statusWord (n : Ix4) (ans : Option (BitVec 16))
  /-- READ_IOUT (R166). The 1 ms READ_IOUT poll corrects every IMON by a common scale factor. -/
  | readIout (ans : Quad (Option (BitVec 16)))
  /-- READ_TEMPERATURE_1 (R166). The 10 ms poll reads the regulator temperatures. -/
  | readTemperature1 (ans : Quad (Option (BitVec 16)))
  /-- CAL_LOST (R148). PE_REFCLK is lost: the oscillator holds its trim, CLK_CAL clears and CAL_LOST is set. -/
  | calLost
  /-- WARDEN_WRITE (R178). A host write to a PF4 register: after WARDEN_LOCK, a write to an RW field is a LOCK violation that impounds PF4. -/
  | wardenWrite (off : Nat) (size : Nat) (v : BitVec 64) (co : Coincide)
  /-- DOZE (R548). At an epoch start with no grant or a long idle Wharf, admission stops, DOZE is logged and mills and berths are gated. -/
  | doze (p : Ix4)
  /-- WAKE (R548). Work arrives or a grant returns: the gating is released, WAKE and SYNC are logged and admission resumes. -/
  | wake (p : Ix4)
  /-- TIDE_BOUNDARY (R204). Basin time reaches a tide boundary: late waybills are dropped, TS writes take effect, records are written, MTAIL is read and admission resumes. -/
  | tideBoundary (p : Ix4) (dt : Nat)
  /-- SLACK (R206). Basin time reaches SLACK_US before a boundary, and the slack interrupt fires. -/
  | slack (p : Ix4) (dt : Nat)
  /-- DOORBELL (R187). A write of n to DOORBELL makes the Wharf read ring n's MTAIL within 16 fabric cycles. -/
  | doorbell (p : Ix4) (m : Master) (v : Word)
  /-- WAYBILL_READ (R183). The Wharf reads a waybill, checks it and pools it, or completes it MALFORMED or UNFIT. -/
  | waybillRead (p : Ix4)
  /-- ADMISSION (R191). The Wharf admits an admissible candidate, or backfills one, to a berth and a mill group. -/
  | admission (p : Ix4)
  /-- PRELOAD (R196). The Wharf preloads a blocked candidate's code, seed and context into an inactive code half. -/
  | preload (p : Ix4)
  /-- CODE_LOAD_DONE (R197). The code load of an admitted waybill completes, and execution begins 32 mc later. -/
  | codeLoadDone (p : Ix4) (b : Ix4)
  /-- TIMEOUT (R207). A waybill's delivered-cycle count reaches WATCH_LIMIT: it is aborted with status TIMEOUT. -/
  | timeout (p : Ix4) (b : Ix4)
  /-- NOP (R229). Does nothing for 1 mc. -/
  | nop (p : Ix4) (b : Ix4)
  /-- DUP (R229). Duplicates the top cell. -/
  | dup (p : Ix4) (b : Ix4)
  /-- DROP (R229). Drops the top cell. -/
  | drop (p : Ix4) (b : Ix4)
  /-- SWAP (R229). Swaps the top two cells. -/
  | swap (p : Ix4) (b : Ix4)
  /-- OVER (R229). Copies the second cell to the top. -/
  | over (p : Ix4) (b : Ix4)
  /-- ROT (R229). Rotates the third cell to the top. -/
  | rot (p : Ix4) (b : Ix4)
  /-- NIP (R229). Drops the second cell. -/
  | nip (p : Ix4) (b : Ix4)
  /-- TUCK (R229). Copies the top cell below the second. -/
  | tuck (p : Ix4) (b : Ix4)
  /-- PICK (R231). Copies cell n to the top, trapping with PICKRANGE above 30. -/
  | pick (p : Ix4) (b : Ix4)
  /-- ROLL (R231). Moves cell n to the top, trapping with PICKRANGE above 30. -/
  | roll (p : Ix4) (b : Ix4)
  /-- TWO_DUP (R229). 2DUP duplicates the top pair. -/
  | twoDup (p : Ix4) (b : Ix4)
  /-- TWO_DROP (R229). 2DROP drops the top pair. -/
  | twoDrop (p : Ix4) (b : Ix4)
  /-- TWO_SWAP (R229). 2SWAP swaps the top two pairs. -/
  | twoSwap (p : Ix4) (b : Ix4)
  /-- DEPTH (R229). Pushes the operand depth. -/
  | depth (p : Ix4) (b : Ix4)
  /-- DROPN (R231). Drops k cells and the count. -/
  | dropn (p : Ix4) (b : Ix4)
  /-- CLEAR (R231). Empties the operand stack. -/
  | clear (p : Ix4) (b : Ix4)
  /-- ADD (R229). Adds modulo 2^64. -/
  | add (p : Ix4) (b : Ix4)
  /-- SUB (R229). Subtracts modulo 2^64. -/
  | sub (p : Ix4) (b : Ix4)
  /-- MUL (R229). Low 64 bits of the product. -/
  | mul (p : Ix4) (b : Ix4)
  /-- MULHU (R229). High 64 bits of the unsigned product. -/
  | mulhu (p : Ix4) (b : Ix4)
  /-- MULHS (R229). High 64 bits of the signed product. -/
  | mulhs (p : Ix4) (b : Ix4)
  /-- DIVU (R230). Unsigned division, with the divide-by-zero result defined. -/
  | divu (p : Ix4) (b : Ix4)
  /-- DIVS (R230). Signed division, with the special cases defined. -/
  | divs (p : Ix4) (b : Ix4)
  /-- REMU (R230). Unsigned remainder. -/
  | remu (p : Ix4) (b : Ix4)
  /-- REMS (R230). Signed remainder, with the sign of a. -/
  | rems (p : Ix4) (b : Ix4)
  /-- NEG (R229). Negates the top cell. -/
  | neg (p : Ix4) (b : Ix4)
  /-- ABS (R229). Absolute value of the top cell. -/
  | abs (p : Ix4) (b : Ix4)
  /-- MINS (R229). Signed minimum. -/
  | mins (p : Ix4) (b : Ix4)
  /-- MAXS (R229). Signed maximum. -/
  | maxs (p : Ix4) (b : Ix4)
  /-- MINU (R229). Unsigned minimum. -/
  | minu (p : Ix4) (b : Ix4)
  /-- MAXU (R229). Unsigned maximum. -/
  | maxu (p : Ix4) (b : Ix4)
  /-- ADDI8 (R229). Adds a sign-extended 8-bit immediate. -/
  | addi8 (p : Ix4) (b : Ix4) (imm : BitVec 8)
  /-- AND (R229). Bitwise AND. -/
  | andOp (p : Ix4) (b : Ix4)
  /-- OR (R229). Bitwise OR. -/
  | orOp (p : Ix4) (b : Ix4)
  /-- XOR (R229). Bitwise XOR. -/
  | xorOp (p : Ix4) (b : Ix4)
  /-- NOT (R229). Bitwise complement. -/
  | notOp (p : Ix4) (b : Ix4)
  /-- SHL (R229). Shifts left by n modulo 64. -/
  | shl (p : Ix4) (b : Ix4)
  /-- SHRU (R229). Logical right shift. -/
  | shru (p : Ix4) (b : Ix4)
  /-- SHRS (R229). Arithmetic right shift. -/
  | shrs (p : Ix4) (b : Ix4)
  /-- ROTL (R229). Rotates left. -/
  | rotl (p : Ix4) (b : Ix4)
  /-- CLZ (R229). Counts leading zeros. -/
  | clz (p : Ix4) (b : Ix4)
  /-- CTZ (R229). Counts trailing zeros. -/
  | ctz (p : Ix4) (b : Ix4)
  /-- POPC (R229). Population count. -/
  | popc (p : Ix4) (b : Ix4)
  /-- SEXT (R229). Sign-extends from bit n − 1. -/
  | sext (p : Ix4) (b : Ix4)
  /-- ZEXT (R229). Zero-extends from bit n − 1. -/
  | zext (p : Ix4) (b : Ix4)
  /-- BEXT (R230). Extracts a bit field. -/
  | bext (p : Ix4) (b : Ix4)
  /-- BINS (R230). Inserts a bit field. -/
  | bins (p : Ix4) (b : Ix4)
  /-- ALIGNUP (R229). Rounds up to a multiple of 2^k. -/
  | alignup (p : Ix4) (b : Ix4)
  /-- EQ (R229). Pushes 1 if equal. -/
  | eq (p : Ix4) (b : Ix4)
  /-- NE (R229). Pushes 1 if not equal. -/
  | ne (p : Ix4) (b : Ix4)
  /-- LTS (R229). Signed less-than. -/
  | lts (p : Ix4) (b : Ix4)
  /-- LTU (R229). Unsigned less-than. -/
  | ltu (p : Ix4) (b : Ix4)
  /-- LES (R229). Signed less-or-equal. -/
  | les (p : Ix4) (b : Ix4)
  /-- LEU (R229). Unsigned less-or-equal. -/
  | leu (p : Ix4) (b : Ix4)
  /-- EQZ (R229). Pushes 1 if zero. -/
  | eqz (p : Ix4) (b : Ix4)
  /-- SELECT (R229). Selects a or b by a flag. -/
  | select (p : Ix4) (b : Ix4)
  /-- BR (R229). Unconditional relative branch with a 16-bit offset. -/
  | br (p : Ix4) (b : Ix4) (imm : BitVec 16)
  /-- BZ (R229). Branches if the flag is zero. -/
  | bz (p : Ix4) (b : Ix4) (imm : BitVec 16)
  /-- BNZ (R229). Branches if the flag is non-zero. -/
  | bnz (p : Ix4) (b : Ix4) (imm : BitVec 16)
  /-- BR8 (R229). Unconditional branch with an 8-bit offset. -/
  | br8 (p : Ix4) (b : Ix4) (imm : BitVec 8)
  /-- BZ8 (R229). Branch if zero, with an 8-bit offset. -/
  | bz8 (p : Ix4) (b : Ix4) (imm : BitVec 8)
  /-- BNZ8 (R229). Branch if non-zero, with an 8-bit offset. -/
  | bnz8 (p : Ix4) (b : Ix4) (imm : BitVec 8)
  /-- DJNZ (R229). Decrements and branches if non-zero. -/
  | djnz (p : Ix4) (b : Ix4) (imm : BitVec 16)
  /-- JMP (R229). Jumps to a[16:0]. -/
  | jmp (p : Ix4) (b : Ix4)
  /-- LD64 (R226). 64-bit load that pushes a pending cell landing L mc later. -/
  | ld64 (p : Ix4) (b : Ix4)
  /-- LD32U (R226). 32-bit zero-extending load. -/
  | ld32u (p : Ix4) (b : Ix4)
  /-- LD32S (R226). 32-bit sign-extending load. -/
  | ld32s (p : Ix4) (b : Ix4)
  /-- LD16U (R226). 16-bit zero-extending load. -/
  | ld16u (p : Ix4) (b : Ix4)
  /-- LD16S (R226). 16-bit sign-extending load. -/
  | ld16s (p : Ix4) (b : Ix4)
  /-- LD8U (R226). 8-bit zero-extending load. -/
  | ld8u (p : Ix4) (b : Ix4)
  /-- LD8S (R226). 8-bit sign-extending load. -/
  | ld8s (p : Ix4) (b : Ix4)
  /-- ST64 (R227). 64-bit store landing L mc after issue. -/
  | st64 (p : Ix4) (b : Ix4)
  /-- ST32 (R227). Stores the low 32 bits. -/
  | st32 (p : Ix4) (b : Ix4)
  /-- ST16 (R227). Stores the low 16 bits. -/
  | st16 (p : Ix4) (b : Ix4)
  /-- ST8 (R227). Stores the low byte. -/
  | st8 (p : Ix4) (b : Ix4)
  /-- LDP64 (R229). 64-bit load with post-increment of the address. -/
  | ldp64 (p : Ix4) (b : Ix4)
  /-- STP64 (R229). 64-bit store with post-increment of the address. -/
  | stp64 (p : Ix4) (b : Ix4)
  /-- FENCEST (R229). Waits until every short store of the berth has landed. -/
  | fencest (p : Ix4) (b : Ix4)
  /-- CADD (R229). Atomic 64-bit add on a Counter cell. -/
  | cadd (p : Ix4) (b : Ix4)
  /-- CSWAP (R229). Atomic compare-and-swap on a Counter cell. -/
  | cswap (p : Ix4) (b : Ix4)
  /-- LIT8 (R229). Pushes a sign-extended 8-bit literal. -/
  | lit8 (p : Ix4) (b : Ix4) (imm : BitVec 8)
  /-- LIT16 (R229). Pushes a sign-extended 16-bit literal. -/
  | lit16 (p : Ix4) (b : Ix4) (imm : BitVec 16)
  /-- LIT32 (R229). Pushes a sign-extended 32-bit literal. -/
  | lit32 (p : Ix4) (b : Ix4) (imm : BitVec 32)
  /-- LIT64 (R229). Pushes a 64-bit literal. -/
  | lit64 (p : Ix4) (b : Ix4) (imm : BitVec 64)
  /-- LIT8U (R229). Pushes a zero-extended 8-bit literal. -/
  | lit8u (p : Ix4) (b : Ix4) (imm : BitVec 8)
  /-- LIT16U (R229). Pushes a zero-extended 16-bit literal. -/
  | lit16u (p : Ix4) (b : Ix4) (imm : BitVec 16)
  /-- LIT32U (R229). Pushes a zero-extended 32-bit literal. -/
  | lit32u (p : Ix4) (b : Ix4) (imm : BitVec 32)
  /-- ZERO (R229). Pushes 0. -/
  | zero (p : Ix4) (b : Ix4)
  /-- ONE (R229). Pushes 1. -/
  | one (p : Ix4) (b : Ix4)
  /-- MINUS1 (R229). Pushes −1. -/
  | minus1 (p : Ix4) (b : Ix4)
  /-- LITPC (R229). Pushes the offset of the next instruction. -/
  | litpc (p : Ix4) (b : Ix4)
  /-- CALL (R232). Relative call that pushes a return cell. -/
  | call (p : Ix4) (b : Ix4) (imm : BitVec 16)
  /-- CALLL (R232). Relative call with a 24-bit offset. -/
  | calll (p : Ix4) (b : Ix4) (imm : BitVec 24)
  /-- CALLI (R232). Indirect call to a[16:0]. -/
  | calli (p : Ix4) (b : Ix4)
  /-- RET (R232). Pops a return cell, trapping with RETMIX on an interrupt cell. -/
  | ret (p : Ix4) (b : Ix4)
  /-- TO_R (R229). >R moves a cell to the return stack. -/
  | toR (p : Ix4) (b : Ix4)
  /-- R_FROM (R229). R> moves a cell from the return stack. -/
  | rFrom (p : Ix4) (b : Ix4)
  /-- R_FETCH (R229). R@ copies the top of the return stack. -/
  | rFetch (p : Ix4) (b : Ix4)
  /-- RDEPTH (R229). Pushes the return depth. -/
  | rdepth (p : Ix4) (b : Ix4)
  /-- JMPL (R229). Relative jump with a 24-bit offset. -/
  | jmpl (p : Ix4) (b : Ix4) (imm : BitVec 24)
  /-- TREAD (R229). Reads tally t. -/
  | tread (p : Ix4) (b : Ix4)
  /-- TWRITE (R250). Sets tally t; it wins over a simultaneous increment. -/
  | twrite (p : Ix4) (b : Ix4) (co : Bool)
  /-- TADD (R250). Adds to tally t. -/
  | tadd (p : Ix4) (b : Ix4)
  /-- WAITT (R236). Stalls until tally t has reached v. -/
  | waitt (p : Ix4) (b : Ix4)
  /-- WAITT8 (R236). WAITT with t and v in an 8-bit immediate. -/
  | waitt8 (p : Ix4) (b : Ix4) (imm : BitVec 8)
  /-- IDLE8 (R229). Idles for imm + 1 mc. -/
  | idle8 (p : Ix4) (b : Ix4) (imm : BitVec 8)
  /-- IDLE16 (R229). Idles for imm + 1 mc, with a 16-bit immediate. -/
  | idle16 (p : Ix4) (b : Ix4) (imm : BitVec 16)
  /-- IDLE (R229). Idles for max(1, n) mc. -/
  | idle (p : Ix4) (b : Ix4)
  /-- TARM (R241). Arms the TALLY interrupt for tally t at v. -/
  | tarm (p : Ix4) (b : Ix4)
  /-- SHLD (R234). Loads shape entry i from memory, taking effect L + 4 mc later. -/
  | shld (p : Ix4) (b : Ix4)
  /-- SHST (R234). Stores shape entry i to memory. -/
  | shst (p : Ix4) (b : Ix4)
  /-- SHGET (R233). Reads a shape-entry field. -/
  | shget (p : Ix4) (b : Ix4)
  /-- SHSET (R233). Writes a shape-entry field, truncated to its width. -/
  | shset (p : Ix4) (b : Ix4)
  /-- SHBASE (R234). Sets BASE of entry i. -/
  | shbase (p : Ix4) (b : Ix4)
  /-- SHADDB (R234). Adds to BASE of entry i. -/
  | shaddb (p : Ix4) (b : Ix4)
  /-- SHCLR (R234). Clears entry i. -/
  | shclr (p : Ix4) (b : Ix4)
  /-- SHCOPY (R234). Copies one shape entry to another. -/
  | shcopy (p : Ix4) (b : Ix4)
  /-- END (R244). Stalls until all operations report; the waybill then completes OK and its group is freed. -/
  | endOp (p : Ix4) (b : Ix4) (drain : Nat)
  /-- YIELD (R246). Suspends issue until admission resumes after the next boundary. -/
  | yieldOp (p : Ix4) (b : Ix4)
  /-- EI (R242). Sets IE. -/
  | ei (p : Ix4) (b : Ix4)
  /-- DI (R242). Clears IE. -/
  | di (p : Ix4) (b : Ix4)
  /-- SETIV (R229). Sets IVBASE. -/
  | setiv (p : Ix4) (b : Ix4)
  /-- RETI (R242). Returns from an interrupt and restores IE. -/
  | reti (p : Ix4) (b : Ix4)
  /-- IMASK (R229). Sets the interrupt mask. -/
  | imask (p : Ix4) (b : Ix4)
  /-- IPEND (R229). Pushes the pending bits. -/
  | ipend (p : Ix4) (b : Ix4)
  /-- TRAP (R245). Ends the waybill TRAPPED with a code. -/
  | trap (p : Ix4) (b : Ix4) (imm : BitVec 8)
  /-- TIDE (R229). Pushes the tide number. -/
  | tide (p : Ix4) (b : Ix4)
  /-- BERTH (R229). Pushes the berth number and its mill group. -/
  | berth (p : Ix4) (b : Ix4)
  /-- MC (R229). Pushes the mill cycles delivered since the first instruction. -/
  | mc (p : Ix4) (b : Ix4)
  /-- SIGNAL (R256). Sets BERTH_SIGNAL VALUE and VALID and raises the berth-signal source. -/
  | signal (p : Ix4) (b : Ix4)
  /-- BMOVE (R238). Copies n bytes in committed chunks and can be interrupted. -/
  | bmove (p : Ix4) (b : Ix4) (stop : LongStop)
  /-- BFILL (R238). Fills n bytes with a 64-bit pattern. -/
  | bfill (p : Ix4) (b : Ix4) (stop : LongStop)
  /-- CRC32C (R238). Folds n bytes into a CRC-32C. -/
  | crc32c (p : Ix4) (b : Ix4) (stop : LongStop)
  /-- RESERVED_OPCODE (R247). A reserved opcode gives an undefined result without a trap. -/
  | reservedOpcode (p : Ix4) (b : Ix4) (op : Byte)
  /-- INTERRUPT_ENTRY (R242). A pending enabled source with IE set is taken: a return cell is pushed and execution jumps to the vector. -/
  | interruptEntry (p : Ix4) (b : Stood)
  /-- BERTH_POKE (R241). A write of 1 to BERTH_POKE makes POKE pending while a waybill runs. -/
  | berthPoke (p : Ix4) (b : Ix4) (m : Master) (v : Word)
  /-- BERTH_SIGNAL_READ (R256). A read of BERTH_SIGNAL returns VALUE and clears VALID. -/
  | berthSignalRead (p : Ix4) (b : Ix4) (m : Master) (co : Option Byte)
  /-- MM (R291). Weight-stationary matrix multiply streamed through the selected mills. -/
  | mm (p : Ix4) (b : Ix4) (w : WideBody)
  /-- MMO (R292). Output-stationary multiply that drains 32 result rows. -/
  | mmo (p : Ix4) (b : Ix4) (w : WideBody)
  /-- LDW (R289). Loads 32 weight vectors into a plane. -/
  | ldw (p : Ix4) (b : Ix4) (w : WideBody)
  /-- LDWT (R290). Loads a plane through the transposed path. -/
  | ldwt (p : Ix4) (b : Ix4) (w : WideBody)
  /-- POST (R301). Streams vectors through the post-unit to D. -/
  | post (p : Ix4) (b : Ix4) (w : WideBody)
  /-- RED_SUM (R305). Reduces vectors across the selected mills by sum. -/
  | redSum (p : Ix4) (b : Ix4) (w : WideBody)
  /-- RED_MAX (R305). Reduces vectors across the selected mills by max. -/
  | redMax (p : Ix4) (b : Ix4) (w : WideBody)
  /-- RED_MIN (R305). Reduces vectors across the selected mills by min. -/
  | redMin (p : Ix4) (b : Ix4) (w : WideBody)
  /-- MOV (R280). Queues a copy-unit copy of A to D. -/
  | mov (p : Ix4) (b : Ix4) (w : WideBody)
  /-- TURN (R328). Queues a tile-transposing copy. -/
  | turn (p : Ix4) (b : Ix4) (w : WideBody)
  /-- COPY_REPORT (R278). A MOV or TURN has landed and adds its increment to its tally. -/
  | copyReport (p : Ix4) (b : Ix4) (n : Nat) (dmc : Nat)
  /-- PUT (R462). Queues a unicast transfer. -/
  | put (p : Ix4) (b : Ix4) (w : WideBody)
  /-- MPUT (R471). Queues a multicast transfer to a group. -/
  | mput (p : Ix4) (b : Ix4) (w : WideBody)
  /-- RPUT (R472). Queues a reduce contribution. -/
  | rput (p : Ix4) (b : Ix4) (w : WideBody)
  /-- XFER_START (R463). The XFER unit reads the control block and starts forming frames. -/
  | xferStart (p : Ix4) (b : Ix4)
  /-- XFER_REPORT (R464). A transfer is fully acknowledged or fails: RESULT is written and the tally increments. -/
  | xferReport (p : Ix4) (b : Ix4) (n : Nat) (dmc : Nat)
  /-- GLEAN_SUM (R361). Pools bags by sum. -/
  | gleanSum (p : Ix4) (b : Ix4) (w : WideBody)
  /-- GLEAN_MEAN (R361). Pools bags by mean. -/
  | gleanMean (p : Ix4) (b : Ix4) (w : WideBody)
  /-- GLEAN_MAX (R361). Pools bags by max. -/
  | gleanMax (p : Ix4) (b : Ix4) (w : WideBody)
  /-- WSUM (R361). Pools bags by weighted sum. -/
  | wsum (p : Ix4) (b : Ix4) (w : WideBody)
  /-- GATHER (R361). Writes one dequantised row per entry. -/
  | gather (p : Ix4) (b : Ix4) (w : WideBody)
  /-- WARM (R367). Fetches rows into the hot-row cache. -/
  | warm (p : Ix4) (b : Ix4) (w : WideBody)
  /-- ASSIGN (R370). Writes raw rows and scales at their owners. -/
  | assign (p : Ix4) (b : Ix4) (w : WideBody)
  /-- GLEAN_ADD (R370). Adds fp32 deltas to rows at their owners. -/
  | gleanAdd (p : Ix4) (b : Ix4) (w : WideBody)
  /-- AXPY (R370). Adds α × x to rows at their owners. -/
  | axpy (p : Ix4) (b : Ix4) (w : WideBody)
  /-- GLEAN_REPORT (R368). A GLEAN operation completes, with every owner acknowledging for updates, and its tally increments. -/
  | gleanReport (p : Ix4) (b : Ix4) (n : Nat) (dmc : Nat)
  /-- COMMITTING_DONE (R373). Copy-back of the published slots completes, and COMMITTING clears. -/
  | committingDone (p : Ix4)
  /-- APPEND (R394). Appends keys and values to a sequence. -/
  | append (p : Ix4) (b : Ix4) (w : WideBody)
  /-- ATTEND (R397). Runs attention with an online softmax over the visible keys. -/
  | attend (p : Ix4) (b : Ix4) (w : WideBody)
  /-- BACKWARD (R399). Runs the recompute-based backward pass. -/
  | backward (p : Ix4) (b : Ix4) (w : WideBody)
  /-- LEDG_OPEN (R393). Makes a FREE sequence RESIDENT. -/
  | ledgOpen (p : Ix4) (b : Ix4) (w : WideBody)
  /-- LEDG_CLOSE (R393). Frees a sequence and its pages. -/
  | ledgClose (p : Ix4) (b : Ix4) (w : WideBody)
  /-- LEDG_FETCH (R393). Brings a SWAPPED sequence back. -/
  | ledgFetch (p : Ix4) (b : Ix4) (w : WideBody)
  /-- LEDG_REPORT (R278). A Ledger operation completes and adds to its tally. -/
  | ledgReport (p : Ix4) (b : Ix4) (n : Nat) (dmc : Nat)
  /-- PAGEWAIT (R400). Enough pages become free and the oldest waiter takes all that it needs. -/
  | pagewait (p : Ix4)
  /-- SWAPOUT_PAGE (R402). The host port reports a swap-out page delivered: its entry is rewritten and the page freed, ending in SWAPPED. -/
  | swapoutPage (p : Ix4) (q : Nat) (ok : Bool)
  /-- SWAPIN_PAGE (R403). A swapped-in page returns and its entry is rewritten; the sequence becomes RESIDENT. -/
  | swapinPage (p : Ix4) (q : Nat) (ok : Bool)
  /-- MAINTENANCE_ACCESS (R320). In crossbar phase 64 each bin serves one maintenance access: Watchhouse, host, then scrub. -/
  | maintenanceAccess (p : Ix4) (bin : Nat) (wh : Bool) (host : Bool) (flips : Nat)
  /-- GRAN_SCRUB_TAKEOVER (R320). Scrub denied for 63 consecutive frames takes the phase. -/
  | granScrubTakeover (p : Ix4) (bin : Nat) (flips : Nat)
  /-- PATROL_READ (R336). A stack's patrol interval expires, and it reads one 256-byte unit. -/
  | patrolRead (p : Ix4) (st : Ix2) (flips : Nat)
  /-- SCRUB_FORCED (R335). A background request deferred 4096 times takes the next access ahead of foreground. -/
  | scrubForced (p : Ix4) (st : Ix2) (req : Background)
  /-- HBM_TELEMETRY_READ (R337). Every 1 ms each stack's temperature is read; refresh doubles or HBM_HOT is set. -/
  | hbmTelemetryRead (p : Ix4) (temps : Duo Nat)
  /-- HBM_PARITY (R350). A command-parity error is retried once; 16 consecutive errors trigger a retrain. -/
  | hbmParity (p : Ix4) (st : Ix2) (run : Nat)
  /-- FRAME_RECEIVE (R429). A sluice classifies a heard frame as noise, neighbour, stranger, trespasser or accepted. -/
  | frameReceive (p : Ix4) (sd : Side) (h : Heard)
  /-- BEACON (R440). A valid beacon sets medium and basin time, the map, joins and time source. -/
  | beacon (p : Ix4) (sd : Side)
  /-- SLEW_END (R441). A slew absorbs its δ or reaches 5 ms and ends. -/
  | slewEnd (p : Ix4)
  /-- REQUEST (R433). The master accepts a REQUEST: it enters, updates or removes the port. -/
  | request (p : Ix4) (sd : Side)
  /-- ECHO (R430). A sluice compares its frame's echo with what it sent; a mismatch is a collision with backoff draws, and the first echo sets RTT. -/
  | echo (p : Ix4) (sd : Side) (e : EchoOf)
  /-- BACKOFF_EXPIRY (R430). The backoff superframes pass and the frame is sent again. -/
  | backoffExpiry (p : Ix4) (sd : Side)
  /-- BEACON_SEND (R435). The master computes the map and sends the beacon in slot 4 on λ0 and λ8. -/
  | beaconSend (p : Ix4) (sd : Side) (sf : Nat)
  /-- CANDIDATE (R437). 3 superframes without an accepted beacon make the sluice a candidate. -/
  | candidate (p : Ix4) (sd : Side)
  /-- CANDIDATE_BEACON (R437). A candidate sends its first beacon in superframe k + 4 + p. -/
  | candidateBeacon (p : Ix4) (sd : Side) (sf : Nat)
  /-- MASTER_ECHO_FAIL (R438). A master's beacon echo fails on both wavelengths for 3 superframes, and it becomes a candidate. -/
  | masterEchoFail (p : Ix4) (sd : Side)
  /-- PORT_REMOVE (R433). The master removes a port silent in its cells for 8 superframes. -/
  | portRemove (p : Ix4) (sd : Side) (addr : BitVec 12)
  /-- SILENT (R454). Echoes lost on every wavelength for 3 superframes make the sluice SILENT. -/
  | silent (p : Ix4) (sd : Side)
  /-- CELL_SEND (R477). In each own cell the sluice sends ACK, relayed and RSUM, retransmitted, new or IDLE frames. -/
  | cellSend (p : Ix4) (sd : Side) (wave : BitVec 4)
  /-- CAL_DUE (R444). A ring falls due and calibrates with a CAL frame in an unassigned cell. -/
  | calDue (p : Ix4) (sd : Side) (ring : BitVec 4) (slot : Nat)
  /-- CAL_FORCED (R444). A ring due for 1 ms takes one of its own assigned cells. -/
  | calForced (p : Ix4) (sd : Side) (ring : BitVec 4) (slot : Nat)
  /-- SL_DEMAND_WRITE (R432). A change of SL_DEMAND sends a new REQUEST. -/
  | slDemandWrite (p : Ix4) (sd : Side) (m : Master) (v : Word)
  /-- DATA (R458). An accepted DATA frame is delivered, relayed, aggregated or ignored. -/
  | data (p : Ix4) (sd : Side)
  /-- URGENT (R480). An accepted URGENT frame is handled as a DATA frame. -/
  | urgent (p : Ix4) (sd : Side)
  /-- ACK (R470). An accepted ACK frees acknowledged frames, or fails the operation on REJECT. -/
  | ack (p : Ix4) (sd : Side)
  /-- RETRANSMIT (R468). An unacknowledged frame's retransmit interval expires, and it is sent again or fails UNREACH. -/
  | retransmit (p : Ix4) (sd : Side) (n : Nat)
  /-- REDUCE_DROP (R473). A reduce set incomplete for REDUCE_HOLD superframes is discarded. -/
  | reduceDrop (p : Ix4) (n : Nat)
  /-- GLREQ (R364). An owner serves a remote row request with raw rows and scales. -/
  | glreq (p : Ix4) (sd : Side)
  /-- GLROW (R363). The requester receives remote rows and pools them. -/
  | glrow (p : Ix4) (sd : Side)
  /-- GLUPD (R368). An owner applies remote updates in pending slots and acknowledges. -/
  | glupd (p : Ix4) (sd : Side)
  /-- HARB_DOORBELL (R479). A write makes the Lock read RXTAIL and deliver harbour frames. -/
  | harbDoorbell (p : Ix4) (m : Master) (v : Word)
  /-- HARB_RETX (R479). A harbour frame unacknowledged for HARB_RETX is sent again. -/
  | harbRetx (p : Ix4) (n : Nat)
  /-- CBO_CLEAN (R493). cbo.clean writes a dirty line back. -/
  | cboClean (p : Ix4) (h : Ix4) (va : BitVec 64)
  /-- CBO_FLUSH (R493). cbo.flush writes back and invalidates a line. -/
  | cboFlush (p : Ix4) (h : Ix4) (va : BitVec 64)
  /-- CBO_INVAL (R493). cbo.inval invalidates a line. -/
  | cboInval (p : Ix4) (h : Ix4) (va : BitVec 64)
  /-- FENCE (R494). A clerk FENCE orders cache-block operations and I/O accesses. -/
  | fence (p : Ix4) (h : Ix4) (pred : BitVec 4) (succ : BitVec 4)
  /-- TIDE_CSR (R490). Reading CSR 0xCC0 returns the tide number. -/
  | tideCsr (p : Ix4) (h : Ix4) (rd : BitVec 5)
  /-- BASINNS (R490). Reading CSR 0xCC1 returns basin time or the die timebase. -/
  | basinns (p : Ix4) (h : Ix4) (rd : BitVec 5)
  /-- CLERK_START (R491). A write starts harts 1 to 3 at HART_ENTRYn. -/
  | clerkStart (p : Ix4) (m : Master) (v : Word)
  /-- PLIC_CLAIM (R498). Reading the claim register claims the highest pending source. -/
  | plicClaim (p : Ix4) (m : Master) (ctx : Nat)
  /-- PLIC_COMPLETE (R502). Writing the claim register completes a claim and releases a held edge event. -/
  | plicComplete (p : Ix4) (m : Master) (ctx : Nat) (v : Word)
  /-- MTIMECMP (R500). mtime reaches MTIMECMPn and raises the machine timer interrupt. -/
  | mtimecmp (p : Ix4) (h : Ix4) (ticks : Nat)
  /-- MSIP (R500). A write to MSIPn raises or clears the machine software interrupt. -/
  | msip (p : Ix4) (h : Ix4) (m : Master) (v : Word)
  /-- BAR2_ACCESS (R510). A host memory request to BAR2 reaches the Granary, the Counter or HBM by its path. -/
  | bar2Access (p : Ix4) (q : HostReq)
  /-- LINK_DOWN (R527). Link down or Hot Reset resets PCIe function state in PF0 to PF4 only. -/
  | linkDown
  /-- MSIX_PENDING_SEND (R525). A held vector becomes sendable, and one message is sent for its PBA bit. -/
  | msixPendingSend (pf : Option Ix4) (v : Nat)
  /-- REGISTER_WRITE (R10). A write to a register without a row of its own, checked under the access classes, locks and fences. -/
  | registerWrite (p : Ix4) (a : RegAccess) (co : Coincide)
  /-- AUTH_CHALLENGE (R533). Returns a fresh 32-byte nonce. -/
  | authChallenge (p : Ix4) (r : MbReq) (nonce : List Byte)
  /-- AUTH_RESPONSE (R533). Checks the HMAC and sets the mailbox level, or returns AUTHFAIL. -/
  | authResponse (p : Ix4) (r : MbReq)
  /-- NONCE_EXPIRY (R534). A nonce expires 10 s after issue. -/
  | nonceExpiry (p : Ix4) (box : Ix2)
  /-- LOCKOUT_END (R534). The 10 s lockout ends. -/
  | lockoutEnd (p : Ix4) (box : Ix2)
  /-- STATUS (R536). Returns the Watchhouse, boot, berth and clerk state. -/
  | status (p : Ix4) (r : MbReq)
  /-- READ (R538). Reads LEN bytes from a space into the data area. -/
  | read (p : Ix4) (r : MbReq)
  /-- WRITE (R538). Writes LEN bytes from the data area to a space. -/
  | write (p : Ix4) (r : MbReq)
  /-- HALT_BERTH (R539). Requests a halt of a berth, or arms an idle one. -/
  | haltBerth (p : Ix4) (r : MbReq)
  /-- BERTH_HALTED (R539). The berth reaches an interruptible point and halts. -/
  | berthHalted (p : Ix4) (b : Stood)
  /-- HALT_STALLED (R539). A halt not reached within 1 ms returns STALLED. -/
  | haltStalled (p : Ix4) (b : Ix4)
  /-- HALT_HART (R503). Halts a clerk hart at its next instruction boundary. -/
  | haltHart (p : Ix4) (r : MbReq)
  /-- TIDE_FREEZE (R542). Holds the tide number; boundaries are no longer processed. -/
  | tideFreeze (p : Ix4) (r : MbReq)
  /-- RESUME_BERTH (R539). Resumes a halted berth or clears an armed halt. -/
  | resumeBerth (p : Ix4) (r : MbReq)
  /-- RESUME_HART (R503). Resumes a halted hart. -/
  | resumeHart (p : Ix4) (r : MbReq)
  /-- TIDE_FREEZE_END (R543). Ends the freeze and processes one boundary into the current tide if needed. -/
  | tideFreezeEnd (p : Ix4) (r : MbReq)
  /-- FEED (R540). Executes fed short instructions on a halted berth. -/
  | feed (p : Ix4) (r : MbReq)
  /-- STEP (R541). Executes one instruction of a halted unit. -/
  | step (p : Ix4) (r : MbReq)
  /-- RELEASE (R85). Frees one impounded master. -/
  | release (p : Ix4) (r : MbReq)
  /-- TRACE_CONFIG (R547). Writes LB_CFG and CLASS_MASK and logs SYNC. -/
  | traceConfig (p : Ix4) (r : MbReq)
  /-- TRACE_READ (R547). Copies whole Logbook records from LB_RD. -/
  | traceRead (p : Ix4) (r : MbReq)
  /-- TRACE_CLEAR (R547). Sets both Logbook pointers to 0. -/
  | traceClear (p : Ix4) (r : MbReq)
  /-- CHARTER_WRITE_BEGIN (R544). Takes the target flash for a rewrite. -/
  | charterWriteBegin (p : Ix4) (r : MbReq)
  /-- CHARTER_WRITE_VERIFY (R544). Hashes image bytes and keeps the header and signature block. -/
  | charterWriteVerify (p : Ix4) (r : MbReq)
  /-- CHARTER_WRITE_CHECK (R63). Checks the image under R45 with the target's fuses. -/
  | charterWriteCheck (p : Ix4) (r : MbReq)
  /-- CHARTER_WRITE_PROGRAM (R544). Erases and programs slot B. -/
  | charterWriteProgram (p : Ix4) (r : MbReq) (ok : Bool)
  /-- CHARTER_WRITE_FINISH (R544). Reads back slot B, copies it to slot A and returns the flash to deep power-down. -/
  | charterWriteFinish (p : Ix4) (r : MbReq) (okB : Bool) (okA : Option Bool)
  /-- MARK (R557). The committed write to MARK writes a MARK record. -/
  | mark (p : Ix4) (m : Master) (v : BitVec 64)
  /-- RAIL_IN_RANGE (R96). A rail enters its operating range, starting the 1 ms continuous-in-range count of R96 (and, for VDD_CORE at power-on, the raw-sensor window of R113). -/
  | railInRange (rail : Rail)
  /-- PCIE_REFCLK_RETURN (R148). PE_REFCLK returns, the Warden trims the always-on oscillator to it again and CLK_CAL is set. -/
  | pcieRefclkReturn
  /-- SLUICE_PLL_RELOCK (R454). A sluice PLL relocks, ending the SILENT period that its unlock caused. -/
  | sluicePllRelock (p : Ix4) (sd : Side)
  /-- HBM_RETRAIN_DONE (R350). An HBM stack retrain ends: held requests are released, or the failure counts toward the three failures in 1 s that make the stack DOWN. -/
  | hbmRetrainDone (p : Ix4) (st : Ix2) (ok : Bool)
  /-- LINK_UP (R507). The PCIe data link layer comes up, and HOST_STATUS reports its rate, width and LINK_UP. -/
  | linkUp (rate : BitVec 4) (width : BitVec 5) (flit : Bool)
  /-- CONFIG_WRITE (R521). A host configuration write sets or clears Memory Space Enable, Bus Master Enable or MSI-X enable of a PF. -/
  | configWrite (pf : Option Ix4) (k : ConfigBits)
  /-- HART_LOAD_STORE_AMO (R496). A clerk hart executes a load, store, AMO, fetch or page-table walk, checked by PMP and the attributes, then by the polder checks. -/
  | hartLoadStoreAmo (p : Ix4) (h : Ix4) (op : HartOp)
deriving DecidableEq, Repr

end Sys2Proof
end

