-- ==== Sys2Proof/Decode.lean ====
section
/-!
DEFINITION. Decode.lean: the commands that a word spells by the bits of spec/opcode_table.json.
The table gives no row any bits: commands come from outside as operations of a bus, of a pin or of an engine, and none is spelled by a word
(log entry 2).
-/
namespace Sys2Proof

/-- The command that a word of `nbits` bits spells: none. -/
def decodeTableWord (_nbits _w : Nat) : Option Instr := none

end Sys2Proof
end

