-- ==== Sys2Proof/Config.lean ====
section
/-!
DEFINITION. Config.lean: the values the spec leaves open.
Each is opaque: no proof and no evaluation can see what it is (00_scope.md, R12 and R14; log entries 7, 16, 18).
-/
namespace Sys2Proof.Config

/-- The `n`-th free 64-bit value of polder `p`: a result that the spec calls undefined (R12). Log entry 7. -/
opaque freeCell : (p : Nat) → (n : Nat) → BitVec 64

/-- The `i`-th free value of kind `k` that an undefined instruction leaves behind, as the `n`-th free draw of polder `p` (R12, R15). Log
entry 7. -/
opaque junk : (p n k i : Nat) → BitVec 64

/-- What the byte at address `a` reads as where its contents are unspecified (R14), in the region that was made
unspecified as the `stamp`-th one. Log entry 7. -/
opaque freeByte : (stamp : Nat) → (a : Nat) → BitVec 8

/-- EXP of R397 as the part computes it, of the value with this sign, an odd integer and a power of two. Log entry 18. -/
opaque expFn : (neg : Bool) → (m : Nat) → (e : Int) → BitVec 32

/-- GELU (tanh form) of R303 as the part computes it, on fp32. Log entry 18. -/
opaque geluFn : BitVec 32 → BitVec 32

/-- SiLU of R303 as the part computes it. Log entry 18. -/
opaque siluFn : BitVec 32 → BitVec 32

/-- The sigmoid of R303 as the part computes it. Log entry 18. -/
opaque sigmoidFn : BitVec 32 → BitVec 32

/-- tanh of R303 as the part computes it. Log entry 18. -/
opaque tanhFn : BitVec 32 → BitVec 32

/-- A post-unit result under a reserved ACT or BOP code (R316, R15): code, then value. Log entry 16. -/
opaque reservedPost : Nat → BitVec 32 → BitVec 32

/-- The entries of a ring whose LOG2SIZE is reserved, from that code (R15, R210). Log entry 120. -/
opaque ringEntries : Nat → Nat

/-- Whether a reduce frame carries int32, from its OPINFO and TAG: no field of R465 or R466 says so. Log entry 21. -/
opaque reduceInt : BitVec 32 → BitVec 32 → Bool

end Sys2Proof.Config
end

