-- ==== Sys2Proof/Machine/State.lean ====
section
/-!
DEFINITION. Machine/State.lean: everything the spec gives the die, as plain data, and the die right after power-on.
Each datum has one home. A register of the window whose value is a written value is held in `Polder.regs` by its offset; a
register that reports other state is a view of the field that holds it (Machine/Regs.lean). Cycle numbers inside a berth
count the mill cycles delivered to it since its waybill's first instruction (R229, MC).
-/
namespace Sys2Proof.Machine

/-- Why the machine stops with a fault: never. Every fault the spec describes (impound, trap, logged access, stranded
polder, architectural exception, mailbox status) is an effect on State. -/
inductive Fault
deriving DecidableEq, Repr

/-- Why a command is refused. -/
inductive Refusal where
  /-- The command has no meaning yet. Raised by exec's arms alone. Safe: the machine stops. -/
  | notModelled (mnemonic : String)
deriving DecidableEq, Repr

/-- Sorted pairs of a number and a value, each number at most once: the sparse form of every map of State. -/
abbrev Store (α : Type) := List (Nat × α)

/-- A part (R2). -/
inductive Sku where
  | jt4x192 | jt4x128 | jt4x144
deriving DecidableEq, Repr

/-- Boot states (R34, R97). -/
inductive BootState where
  | powered | charter | hbmtrain | basinjoin | opened | run | stranded | absent
deriving DecidableEq, Repr

/-- Reset causes (R122). -/
inductive ResetCause where
  | poweron | perst | flr | railfault | thermtrip
deriving DecidableEq, Repr

/-- Element formats (R233). -/
inductive Elem where
  | bf16 | fp16 | e4m3 | e5m2 | int8 | fp32 | int32
deriving DecidableEq, Repr

/-- Fuses of one polder (R34, R47, R308, R317, R533). `sites` has bit i set where mill site i is good; `repair` holds MILL_REPAIR's
rows and columns ([23:0]) of the logical mills in order. -/
structure Fuses where
  sku : Sku
  stepping : Byte
  serial : BitVec 64
  index : Ix4
  sites : BitVec 66
  repair : List (BitVec 24)
  keyHash : BitVec 384
  debugKey : BitVec 256
deriving DecidableEq, Repr

/-! ## Memory -/

/-- A range of memory whose unlisted bytes are zero, or have the unspecified contents made as the `stamp`-th (R14). -/
structure Fill where
  lo : Nat
  len : Nat
  stamp : Option Nat
deriving DecidableEq, Repr

/-- Bytes by address: the listed cells, and for the others the newest fill that covers them, zero under none. -/
structure Mem where
  cells : List Host.Cell
  fills : List Fill
deriving DecidableEq, Repr

/-- The HBM controllers, Granary scrub and ECC state (R320 to R351). `errs` gives the wrong bits present in the ECC unit at an
address; `back` lists lines or units read with a correctable error and not yet written back; `fails` are the die times of failed
retrains. -/
structure MemCtl where
  errs : Store Nat
  scrubLine : Store Nat
  denied : Store Nat
  back : List Nat
  patrolPos : Duo Nat
  up : Duo Bool
  down : Duo Bool
  temp : Duo Nat
  doubled : Duo Bool
  held : Duo Bool
  fails : Duo (List Nat)
  parity : Duo Nat
  single : Bool
  ceAddr : Nat
  ueAddr : Nat
  ueMem : Nat
  ueValid : Bool
  granCeAddr : Nat
deriving DecidableEq, Repr

/-! ## The Charter -/

/-- Where the Charter load stands (R38): zero fill, waiting for the flash, for the header, for the rest, training, HBM fill, over. -/
inductive CharterPhase where
  | idle | zeroFill | sfdp | header | body | training | hbmFill | over
deriving DecidableEq, Repr

/-- A BLOCK record that waits for HBM (R50). -/
structure Block where
  dest : Nat
  bytes : List Byte
deriving DecidableEq, Repr

/-- The Charter engine and port of a polder (R36 to R65, R584, R586, R587). -/
structure Charter where
  phase : CharterPhase
  slotB : Bool
  lock : Bool
  causeA : Byte
  causeB : Byte
  failOfs : Nat
  sfdp : Sfdp
  header : List Byte
  lanes : Nat
  sck50 : Bool
  addr4 : Bool
  dpd : Bool
  staged : Nat
  imageLen : Nat
  applied : Nat
  warn : Nat
  build : BitVec 64
  imageRollback : Nat
  rollbackFuse : Nat
  stackMask : Nat
  rate : Nat
  patrolEn : Bool
  extended : Bool
  patrolPass : Nat
  trainOfs : Nat
  deferred : List Block
  hasRoster : Bool
  flashA : Option (List Byte)
  flashB : Option (List Byte)
deriving DecidableEq, Repr

/-! ## Clocks -/

/-- Steps of a relock (R130): none in progress; requested, so that outputs join SAFE; tuning (step 3 or 4); lock declared. -/
inductive Relock where
  | none | requested | tuning | counting
deriving DecidableEq, Repr

/-- The windows of a governor (R160): the skip level in force, the one that the next window takes, the position of the next pulse in the
window, and the mill cycles delivered since the polder last entered RUN. -/
structure Window where
  level : Nat
  next : Nat
  pos : Nat
  mills : Nat
deriving DecidableEq, Repr

/-- The Root PLL and the divided clocks of a polder (R123 to R147). `refStop` says that the loss of the reference holds the outputs stopped
(R141), `tripped` that THERMTRIP# does (R159), `want` is a divider step scheduled. -/
structure Clocks where
  relock : Relock
  boot : Bool
  locked : Bool
  safe : Bool
  coasting : Bool
  coastLong : Bool
  refPresent : Bool
  refStop : Bool
  tripped : Bool
  testActive : Bool
  divCur : BitVec 2
  want : Option (BitVec 2)
  window : Window
deriving DecidableEq, Repr

/-! ## The Wharf and the berths -/

/-- A waybill as read (R182), with what the Wharf adds to it: ring, read order, tide of the read, deadline tide, aging, BACKFILLED. -/
structure Waybill where
  id : BitVec 64
  cls : BitVec 2
  prio : BitVec 2
  hold : Bool
  kind : BitVec 6
  pclass : BitVec 4
  size : BitVec 2
  rel : BitVec 4
  noDeadline : Bool
  energy : Word
  codeAddr : BitVec 64
  codeLen : Word
  entry : Word
  ctxAddr : BitVec 64
  ctxLen : Word
  seedCount : Nat
  seeds : List Cell
  format : Byte
  ring : Nat
  order : Nat
  readTide : Nat
  age : Nat
  aged : Bool
  backfilled : Bool
deriving DecidableEq, Repr

/-- A ring of the Wharf (R185, R188, R202, R218): MTAIL as last read, and whether it has been written since (R186); MHEAD and CTAIL lie in
the Counter. `held` are records that could not be written, oldest first, and `stalled` says that the manifest ring could not be read. -/
structure Ring where
  mtail : Nat
  moved : Bool
  phase : Bool
  reserved : Nat
  held : List (List Byte)
  stalled : Bool
deriving DecidableEq, Repr

/-- The Wharf (R181 to R218). `kinds` holds, by kind, the estimate n ÷ 8^k as (n, k) and the samples (R111). `bells` are rings whose doorbell came before OPEN (R115). -/
structure Wharf where
  tide : Nat
  admitting : Bool
  slackFired : Bool
  bells : List Nat
  frozen : Bool
  pool : List Waybill
  rings : Store Ring
  rr : Nat
  orders : Nat
  kinds : Store (Nat × Nat × Nat)
  grant : Nat
  idleNs : Nat
deriving DecidableEq, Repr

/-- A cell of the operand stack with the mill cycle at which its value lands (R226); 0 for a value that is there. -/
structure Slot where
  val : Cell
  lands : Nat
deriving DecidableEq, Repr

/-- What an access has to do with a weight plane, by the plane's number: a load's read feeds it, an MM's products take it. -/
inductive PlaneUse where
  | none | feeds (k : Nat) | takes (k : Nat)
deriving DecidableEq, Repr

/-- A write that lands, or a read that is made, in mill cycle `at_` (R227, R266, R267); `short` for a short store (FENCEST). `data` are
the bytes of a write that has not landed, and `id` is the issue cycle of the instruction. -/
structure Flight where
  addr : Nat
  len : Nat
  write : Bool
  short : Bool
  at_ : Nat
  data : List Byte
  id : Nat
  plane : PlaneUse
deriving DecidableEq, Repr

/-- What a berth is doing (R256). `waitt` holds the tally, the awaited value, and how many cells and code bytes completion consumes. -/
inductive BerthPhase where
  | idle | loading | running | waitt (t : BitVec 4) (v : Word) (pops : Nat) (len : Nat) | yielded | wideStall | draining
deriving DecidableEq, Repr

/-- A waybill on a berth: its mill group, the tide in which it started, and the energy measured, a fraction in µJ (R198). -/
structure Run where
  wb : Waybill
  base : Nat
  mills : Nat
  startTide : Nat
  started : Bool
  enNum : Nat
  enDen : Nat
deriving DecidableEq, Repr

/-- A berth (R219 to R256). `preCtx` is the context of the waybill preloaded in the inactive half (R196); `longRest` are the destinations
that interrupted long operations have not written yet (R240, R253). `flights` are the accesses of the instructions that still have one to
make, newest first, and `lastLand` is the cycle in which the last of all that has issued lands (R244). -/
structure Berth where
  phase : BerthPhase
  run : Option Run
  pre : Option Waybill
  preCtx : List Byte
  impounded : Bool
  halted : Bool
  armed : Bool
  haltReq : Bool
  longOp : Bool
  longRest : List (Nat × Nat)
  pc : Nat
  half : Bool
  code0 : List Byte
  code1 : List Byte
  codeLen : Nat
  stack : List Slot
  rstack : List Slot
  shapes : Store (BitVec 256)
  shapePend : List (Nat × BitVec 256 × Nat)
  tallies : List Word
  tarm : Store Word
  ie : Bool
  mask : BitVec 4
  pend : BitVec 4
  ivbase : Nat
  mc : Nat
  used : Nat
  flights : List Flight
  lastLand : Nat
  booked : Store Nat
  lastUse : Store Nat
  ready : Store Nat
  sigVal : Byte
  sigValid : Bool
deriving DecidableEq, Repr

/-- A weight plane of a mill (R289, R299): the format of its last load and its rows of weights, k ascending; no rows are all zeros. -/
structure Plane where
  elem : Elem
  rows : List (List (BitVec 16))
deriving DecidableEq, Repr

/-! ## Engines -/

/-- A MOV or TURN in the copy unit (R277 to R280): runs of A's and D's element addresses in index order (address, bytes), A's bytes as
they were at issue, and the bytes D will hold. `stale` says that a source has been written since (R279), here and in the operations
below. -/
structure CopyOp where
  berth : Ix4
  stale : Bool
  src : List (Nat × Nat)
  dst : List (Nat × Nat)
  snap : List Byte
  out : List Byte
  tally : BitVec 4
  inc : BitVec 4
deriving DecidableEq, Repr

/-- The control block of a transfer (R463). -/
structure XferCtl where
  dst : BitVec 16
  dgrid : Byte
  alt : Bool
  urgent : Bool
  nrow : Nat
  ncol : Nat
  raddr : Nat
  rnote : Word
deriving DecidableEq, Repr

/-- A PUT, MPUT or RPUT in the XFER unit (R462 to R464): A's bytes as they were at issue and the runs they lie in. `ctlAt` are the
runs of its control block, `ctl` what is read there at the start, `code` is its RESULT once it has failed, `formed` counts the bytes already in frames; `token` marks its frames. -/
structure XferOp where
  berth : Ix4
  stale : Bool
  func : Nat
  bytes : List Byte
  src : List (Nat × Nat)
  int32 : Bool
  ctlAt : List (Nat × Nat)
  ctl : Option XferCtl
  deadline : Option Nat
  formed : Nat
  code : Option Nat
  token : Nat
  tally : BitVec 4
  inc : BitVec 4
deriving DecidableEq, Repr

/-- Where a retained frame goes first: a cell of a sluice, the harbour ring, or inside the polder (R457, R472, R479). -/
inductive Via where
  | cell (sd : Side) | harbour | inside
deriving DecidableEq, Repr

/-- A frame retained until it is acknowledged (R468): its operation's token, how often it was sent, whether it waits to be sent now, and
the receivers that have not acknowledged it; `at_` is the die time of its last launch. -/
structure TxFrame where
  frame : Frame
  token : Nat
  sends : Nat
  queued : Bool
  via : Via
  waits : List (BitVec 12)
  at_ : Nat
deriving DecidableEq, Repr

/-- A transmit stream (R467): the next SEQ, whether SYNC is still set, and its unacknowledged frames. -/
structure TxStream where
  target : BitVec 12
  tgrid : BitVec 6
  kind : Nat
  next : Word
  sync : Bool
  frames : List TxFrame
deriving DecidableEq, Repr

/-- A receive stream (R468, R470). `due` is the superframe in which a frame last landed and no ACK has covered since; `reject` marks that
ACK, with the reason that it carries (log entry 123). -/
structure RxStream where
  origin : BitVec 12
  ogrid : BitVec 6
  target : BitVec 12
  kind : Nat
  base : Word
  bitmap : BitVec 64
  due : Option Nat
  reject : Option Nat
deriving DecidableEq, Repr

/-- One contribution to a reduce set: source, its stream's SEQ, data. A contribution from the polder itself was passed internally. -/
structure Contribution where
  src : BitVec 12
  seq : Word
  data : List Byte
deriving DecidableEq, Repr

/-- A reduce set (R472): at an aggregator (`final` false) or at the destination. `sent` is the SEQ of its RSUM once that is on its way;
`int32` is the format where a contribution of the polder's own gives it. -/
structure ReduceSet where
  final : Bool
  dst : BitVec 12
  tag : Word
  raddr : Nat
  rnote : Word
  nrow : Nat
  ncol : Nat
  int32 : Option Bool
  tide : Word
  opinfo : Word
  contribs : List Contribution
  sent : Option Word
  born : Nat
deriving DecidableEq, Repr

/-- The Lock and the XFER unit (R457 to R487). -/
structure Lock where
  xfer : List XferOp
  tokens : Nat
  rr : Nat
  tx : List TxStream
  rx : List RxStream
  relayQ : Duo (List Heard)
  sets : List ReduceSet
  harbStalled : Bool
  harbOut : List Frame
  roster : List (BitVec 18)
  groupOk : BitVec 64
deriving DecidableEq, Repr

/-- A request to a remote owner (R363): the entries it asks for, its frame's SEQ, and the pieces of the answer by offset. -/
structure GlWait where
  owner : BitVec 18
  seq : Word
  ents : List Nat
  got : Store (List Byte)
deriving DecidableEq, Repr

/-- A GLEAN operation of a berth (R358). `started` says that the Gleaner has taken it from the berth's queue (R364), `pay` are the payloads
of an update; `rows` are the raw rows and scales by entry, as they arrive; `waits` the requests not yet answered; `epoch` the table's epoch
at the first row read; `fail` the trap that ends it. -/
structure GlOp where
  berth : Ix4
  started : Bool
  func : Nat
  table : Nat
  entries : List (Word × Word)
  bags : List Nat
  pay : List Byte
  dst : List (Nat × Nat)
  dElem : Elem
  rows : Store (List Byte × Word)
  waits : List GlWait
  epoch : Nat
  fail : Option Nat
  span : Bool
  token : Nat
  tally : BitVec 4
  inc : BitVec 4
deriving DecidableEq, Repr

/-- An entry of the hot-row cache (R365), most recently used first in the list that holds it. -/
structure CacheRow where
  table : Nat
  g : Nat
  row : List Byte
  scale : Word
  remote : Bool
deriving DecidableEq, Repr

/-- A pending slot in use (R369): its row, its number, and whether it is published and being copied back (R373). Its contents lie at
PEND_BASE. -/
structure PendSlot where
  table : Nat
  ell : Nat
  g : Nat
  slot : Nat
  committing : Bool
deriving DecidableEq, Repr

/-- The Gleaner (R353 to R384). `rr` is the queue whose turn comes next, 0 the remote one and i + 1 berth i's (R364), `parts` are pieces of
updates that have not arrived whole. -/
structure Gleaner where
  rr : Nat
  parts : List (Side × Heard)
  ops : List GlOp
  cache : List CacheRow
  filter : Store (Nat × Nat)
  cold : Bool
  slots : List PendSlot
deriving DecidableEq, Repr

/-- The control block of a LEDG operation (R392). -/
structure LgCtl where
  seq : Nat
  layer : Nat
  cflags : Byte
  pos : Nat
  n : Nat
  prio : Nat
  ofmt : Nat
  window : Nat
  keyFrom : Nat
  stats : Nat
  oAddr : Nat
  doAddr : Nat
  grad : Nat
deriving DecidableEq, Repr

/-- Where a LEDG operation stands (R395, R400, R403): behind others or a swap, waiting for pages, waiting for its swap-in, or running. -/
inductive LgWait where
  | queued | pages (n : Nat) | swapin | running
deriving DecidableEq, Repr

/-- A LEDG operation (R391, R395), in arrival order in the list that holds it: A's runs, the bytes they held at issue, A's bytes in index
order (rows left unread are zeros), and E0 and the number of rows of A and of D. `oRuns` and `doRuns` are where O and dO lie (R399), `grad`
the gradient rows as the start finds them, `spill` the ranges that its discard leaves unspecified (R410). -/
structure LgOp where
  berth : Ix4
  stale : Bool
  func : Nat
  ctl : LgCtl
  src : List (Nat × Nat)
  snap : List Byte
  a : List Byte
  aElem : Elem
  aShape : Nat × Nat
  dst : List (Nat × Nat)
  dElem : Elem
  dShape : Nat × Nat
  oRuns : List (Nat × Nat)
  doRuns : List (Nat × Nat)
  grad : List Byte
  spill : List (Nat × Nat)
  wait : LgWait
  tally : BitVec 4
  inc : BitVec 4
deriving DecidableEq, Repr

/-- A page that a swap moves: its page-table index, its pool page, and its index in the host slot. -/
structure SwapPage where
  entry : Nat
  page : Nat
  slot : Nat
deriving DecidableEq, Repr

/-- A swap in progress (R402, R403): pages still to go and pages moved, oldest first. -/
structure Swap where
  seq : Nat
  out : Bool
  left : List SwapPage
  moved : List SwapPage
deriving DecidableEq, Repr

/-- The Ledger (R385 to R416); descriptors and page tables lie in HBM. `short` is what is left of the shortage of the last boundary, and
`victims` are the sequences that it may still pre-empt, in their order (R401, R415). -/
structure Ledger where
  built : Bool
  used : List Nat
  ops : List LgOp
  swaps : List Swap
  short : Int
  victims : List Nat
  trap : Word
deriving DecidableEq, Repr

/-! ## Basins -/

/-- States of a sluice (R585). -/
inductive SlState where
  | dark | listen | unranged | joined | candidate | silent
deriving DecidableEq, Repr

/-- The latest accepted REQUEST of a port (R432): demand, and whether it supports B1 and B2. -/
structure Ask where
  demand : Nat
  b1 : Bool
  b2 : Bool
deriving DecidableEq, Repr

/-- A map in force or to come: superframe it governs and, for each of the 944 cells of R435, the port index, 127 for none. -/
structure BasinMap where
  sf : Nat
  cells : List Nat
deriving DecidableEq, Repr

/-- A frame a sluice has sent and whose echo it awaits (R430); `cont` for a contention frame, `ring` for a CAL frame's ring; the superframe
of its cell, the generation it is sent in (R419), and the medium time of its launch (R425). -/
structure Sent where
  frame : Frame
  tag : BitVec 64
  cont : Bool
  ring : Option (BitVec 4)
  sf : Nat
  b2 : Bool
  launch : Int
deriving DecidableEq, Repr

/-- A cell: slot, wavelength and superframe (R420). -/
structure CellAt where
  slot : Nat
  wave : Nat
  sf : Nat
deriving DecidableEq, Repr

/-- What came back of a superframe in which a sluice sent (R438, R454): whether some echo was heard, whether it sent a beacon, and whether a
beacon's echo was clean. -/
structure EchoLog where
  sf : Nat
  heard : Bool
  beacon : Bool
  clean : Bool
deriving DecidableEq, Repr

/-- A sluice (R417 to R456). `back` is the state before CANDIDATE, `delay` the superframe of the first REQUEST while the seeded delay of R104
runs, `backoff` the superframe of the next try after a collision, `contSlot` and `contWave` the cell drawn for the next try, `medium` medium
time less the die timebase, `ports` the addresses of the port table by index, `asks` the requests heard by address, `alive` the superframe in
which a port was last heard in its own cells, `inherit` that the next beacon publishes the map taken over (R439), `missed` the superframe last
counted in MAP_MISS, `lastSf` k of R437, `contQ` the contention frames, the one in play first, `sent` the frames whose echo is awaited,
`echoes` the newest superframes in which it sent, `cleanSf` that of its last clean beacon echo, `slotKey` and `driven` the slot in which it
last sent and the modulators it drove there (R418), `due` the rings due for calibration, since when, and when each was last calibrated. -/
structure Sluice where
  state : SlState
  back : SlState
  master : Bool
  source : Bool
  index : Nat
  coll : Nat
  lfsr : Word
  seed : Word
  delay : Option Nat
  backoff : Option Nat
  contSlot : BitVec 2
  contWave : BitVec 4
  rtt : Option Nat
  medium : Int
  delta : Int
  hops : Nat
  root : BitVec 12
  masterAddr : BitVec 12
  gen : BitVec 16
  ports : Store (BitVec 12)
  asks : Store Ask
  alive : Store Nat
  inherit : Bool
  mapNow : Option BasinMap
  mapNext : Option BasinMap
  missed : Option Nat
  lastSf : Nat
  inbox : List Heard
  sent : List Sent
  contQ : List Frame
  echoes : List EchoLog
  cleanSf : Option Nat
  slotKey : Nat
  driven : List Nat
  due : BitVec 16
  dueAt : Store Nat
  calAt : Store Nat
  trespass : Word
  stranger : Word
  pllOk : Bool
deriving DecidableEq, Repr

/-- A polder's basin time (R441, R442). `slew` is what is left to absorb, `slewNs` how long the slew has run. -/
structure BasinTime where
  valid : Bool
  now : Nat
  slew : Nat
  slewNs : Nat
deriving DecidableEq, Repr

/-! ## Protection, host port, clerks, Watchhouse -/

/-- The impound records and the access log of a polder (R77 to R89). -/
structure Impound where
  host : Bool
  valid : Bool
  overrun : Bool
  cause : Nat
  write : Bool
  master : Nat
  engine : Nat
  addr : Nat
  data : BitVec 64
  tide : Nat
  logCause : Nat
  logMaster : Nat
  logAddr : Nat
deriving DecidableEq, Repr

/-- A read latch or a write holder of a master (R68, R69): the offset of the pair's low half and the word. -/
structure HalfWord where
  master : Master
  offset : Nat
  value : Word
deriving DecidableEq, Repr

/-- How a host request completes (R71, R81, R349, R521). -/
inductive Completion where
  | none | success (data : List Byte) | poisoned | unsupported
deriving DecidableEq, Repr

/-- A device-to-host request as the port issues it (R514, R515): direction, host address, length, Relaxed Ordering, No Snoop. -/
structure HostRequest where
  write : Bool
  addr : Nat
  len : Nat
  relaxed : Bool
  noSnoop : Bool
deriving DecidableEq, Repr

/-- PCIe function state of a PF (R507 to R530). `sent` lists MSI-X vectors sent, newest first; `payload` and `readSize` are the codes of
Max_Payload_Size and Max_Read_Request_Size; `reqs` are the requests of the latest device-to-host transfer, in order. -/
structure HostFn where
  rate : BitVec 4
  width : BitVec 5
  linkUp : Bool
  flit : Bool
  bme : Bool
  mse : Bool
  msixEn : Bool
  fmask : Bool
  table : Store Word
  pba : BitVec 64
  sent : List Nat
  cpl : Completion
  payload : BitVec 3
  readSize : BitVec 3
  reqs : List HostRequest
deriving DecidableEq, Repr

/-- A privilege mode of a hart. -/
inductive Priv where
  | u | s | m
deriving DecidableEq, Repr

/-- A clerk hart (R488 to R506). -/
structure Hart where
  started : Bool
  wfi : Bool
  halted : Bool
  impounded : Bool
  priv : Priv
  pc : BitVec 64
  x : Store (BitVec 64)
  f : Store (BitVec 64)
  csr : Store (BitVec 64)
  reserve : Option (Nat × Nat)
deriving DecidableEq, Repr

/-- A 64-byte line of the clerk caches (R493), by line number. -/
structure Line where
  dirty : Bool
  bytes : List Byte
deriving DecidableEq, Repr

/-- The PLIC (R498 to R502). Bit n of each vector is source n. -/
structure Plic where
  prio : Store Word
  enable : Store Word
  threshold : Store Word
  edge : BitVec 35
  claimed : BitVec 35
  owner : Store Nat
  held : BitVec 35
deriving DecidableEq, Repr

/-- The clerks (R488 to R506). -/
structure Clerks where
  harts : Quad Hart
  cache : Store Line
  plic : Plic
  mtime : Nat
deriving DecidableEq, Repr

/-- A mailbox of the Watchhouse (R533 to R537). `after` keeps the sequence and command of a request that has not answered yet. -/
structure Mailbox where
  busy : Bool
  done : Bool
  reject : Bool
  level : Nat
  lastSeq : BitVec 16
  status : Byte
  cmd : Byte
  len : Nat
  result : BitVec 64
  data : List Byte
  req : BitVec 256
  nonce : Option (List Byte)
  fails : Nat
  lockout : Bool
  after : Option (BitVec 16 × Byte × Ix4)
deriving DecidableEq, Repr

/-- Steps of the rewrite service (R544); while `copying`, slot B has been read back and slot A is being written. -/
inductive RwStep where
  | begun | verified | checked | programmed | copying
deriving DecidableEq, Repr

/-- The rewrite service while it holds a flash (R63, R544): which mailbox started it, the target, the bytes verified and programmed. -/
structure Rewrite where
  warden : Bool
  len : Nat
  step : RwStep
  image : List Byte
  written : List Byte
deriving DecidableEq, Repr

/-- The Watchhouse of a polder (R531 to R559). -/
structure Watch where
  box : Duo Mailbox
  units : Store (BitVec 256)
  wr : Nat
  rd : Nat
  kept : Nat
  lost : Nat
  lbEn : Bool
  stopMode : Bool
  classMask : Word
  evsel : Store Word
  rewrite : Option Rewrite
  dozeStart : Nat
deriving DecidableEq, Repr

/-! ## The polder, the Warden, the die -/

/-- One polder (R17). `joinFrom` is the die time of its entry into BASINJOIN (R106), `dozing` is the cause of R546 while it dozes: true for no grant. -/
structure Polder where
  fuses : Fuses
  boot : BootState
  dozing : Option Bool
  cause : ResetCause
  joinSlow : Bool
  joinFrom : Nat
  alone : Bool
  bootCount : Nat
  runTime : Nat
  regs : Store Word
  held : Store Word
  heldNext : Store Word
  woc : List Nat
  latches : List HalfWord
  holders : List HalfWord
  charter : Charter
  clocks : Clocks
  wharf : Wharf
  berths : Quad Berth
  planes : Store Plane
  mem : Mem
  memctl : MemCtl
  copy : List CopyOp
  gleaner : Gleaner
  ledger : Ledger
  sluices : Duo Sluice
  basin : BasinTime
  lock : Lock
  imp : Impound
  clerks : Clerks
  watch : Watch
  host : HostFn
  fresh : Nat
deriving DecidableEq, Repr

/-- The Warden and PF4 (R148 to R180). Currents are in grant units of 0.5 A, temperatures in 1/16 °C. `nextGrant` and `nextSkip` are
delivered and not yet in force (R153); `vrUnread` says of which regulators STATUS_WORD is still to be read for the VR_ALERT# that stands; `wregs` holds the sticky and counter registers by offset, `density` is that of its flash once the
Warden has read a valid SFDP there. -/
structure Warden where
  stepping : Byte
  keyHash : BitVec 384
  rollbackFuse : Nat
  causeA : Byte
  causeB : Byte
  slotB : Bool
  defaults : Bool
  lock : Bool
  budget : Nat
  floors : Quad Nat
  tSoft : Nat
  tHard : Nat
  weights : Quad Nat
  pmbusAddr : Quad Nat
  pecEn : Bool
  rawWindow : Bool
  vrHotPin : Bool
  vrForce : Bool
  vrAlertPin : Bool
  vrUnread : Quad Bool
  vrHalved : Quad Bool
  derating : Bool
  thermtrip : Bool
  tripHeld : Bool
  clkCal : Bool
  temp : Int
  pEff : Nat
  epoch : Nat
  dieTime : Nat
  req : Quad Nat
  grant : Quad Nat
  nextGrant : Quad Nat
  imon : Quad Nat
  imonBad : Quad Bool
  skip : Quad Nat
  nextSkip : Quad Nat
  live : Quad Nat
  declared : Quad Nat
  rawSum : Nat
  scaleNum : Nat
  scaleDen : Nat
  corrOff : Bool
  misses : Quad Nat
  iout : Nat
  vrTemp : Int
  overRun : Nat
  overB : Bool
  wregs : Store Word
  wholder : Option (Nat × Word)
  imp : Option Nat
  flashA : Option (List Byte)
  flashB : Option (List Byte)
  flashTaken : Option Ix4
  density : Option Nat
deriving DecidableEq, Repr

/-- The die: its polders, the Warden, PF4, the board pins, host memory, and the commands that wait. -/
structure State where
  polders : Quad Polder
  warden : Warden
  pf4 : HostFn
  rails : List Rail
  perst : Bool
  peRefclk : Bool
  hostMem : Mem
  pending : List Instr
deriving DecidableEq, Repr

/-! ## The die after power-on -/

def Mem.reset : Mem := ⟨[], []⟩

def MemCtl.reset : MemCtl where
  errs := []
  scrubLine := []
  denied := []
  back := []
  patrolPos := ⟨0, 0⟩
  up := ⟨false, false⟩
  down := ⟨false, false⟩
  temp := ⟨0, 0⟩
  doubled := ⟨false, false⟩
  held := ⟨false, false⟩
  fails := ⟨[], []⟩
  parity := ⟨0, 0⟩
  single := false
  ceAddr := 0
  ueAddr := 0
  ueMem := 0
  ueValid := false
  granCeAddr := 0

def Sfdp.reset : Sfdp := ⟨false, 0, [], false, false, false⟩

/-- R65, R52; the fuse count and what the rewrite service left in the flash survive every reset and are given. -/
def Charter.reset (rollback : Nat) (fa fb : Option (List Byte)) : Charter where
  phase := .idle
  slotB := false
  lock := false
  causeA := 0
  causeB := 0
  failOfs := 0
  sfdp := Sfdp.reset
  header := []
  lanes := 0
  sck50 := false
  addr4 := false
  dpd := false
  staged := 0
  imageLen := 0
  applied := 0
  warn := 0
  build := 0
  imageRollback := 0
  rollbackFuse := rollback
  stackMask := 3
  rate := 0
  patrolEn := true
  extended := false
  patrolPass := 24
  trainOfs := 0
  deferred := []
  hasRoster := false
  flashA := fa
  flashB := fb

/-- R147: SAFE, not locked. -/
def Clocks.reset (ref : Bool) : Clocks where
  relock := .none
  boot := true
  locked := false
  safe := true
  coasting := false
  coastLong := false
  refPresent := ref
  refStop := !ref
  tripped := false
  testActive := false
  divCur := 0
  want := none
  window := ⟨0, 0, 0, 0⟩

def Wharf.reset : Wharf where
  tide := 0
  admitting := false
  slackFired := false
  bells := []
  frozen := false
  pool := []
  rings := []
  rr := 0
  orders := 0
  kinds := []
  grant := 0
  idleNs := 0

/-- R256, R182: idle, with empty stacks, zero tallies and a zero shape table. -/
def Berth.reset : Berth where
  phase := .idle
  run := none
  pre := none
  preCtx := []
  impounded := false
  halted := false
  armed := false
  haltReq := false
  longOp := false
  longRest := []
  pc := 0
  half := false
  code0 := []
  code1 := []
  codeLen := 0
  stack := []
  rstack := []
  shapes := []
  shapePend := []
  tallies := List.replicate 16 0
  tarm := []
  ie := false
  mask := 0
  pend := 0
  ivbase := 0
  mc := 0
  used := 0
  flights := []
  lastLand := 0
  booked := []
  lastUse := []
  ready := []
  sigVal := 0
  sigValid := false

def Lock.reset : Lock where
  xfer := []
  tokens := 0
  rr := 0
  tx := []
  rx := []
  relayQ := ⟨[], []⟩
  sets := []
  harbStalled := false
  harbOut := []
  roster := []
  groupOk := 0

def Gleaner.reset : Gleaner := ⟨0, [], [], [], [], true, []⟩

def Ledger.reset : Ledger := ⟨false, [], [], [], 0, [], 0⟩

/-- R431, R585: DARK, with the LFSR loaded from the join seed (`lf`). -/
def Sluice.reset (seed lf : Word) : Sluice where
  state := .dark
  back := .dark
  master := false
  source := false
  index := 0
  coll := 0
  lfsr := lf
  seed := seed
  delay := none
  backoff := none
  contSlot := 0
  contWave := 0
  rtt := none
  medium := 0
  delta := 0
  hops := 0
  root := 0
  masterAddr := 0
  gen := 0
  ports := []
  asks := []
  alive := []
  inherit := false
  mapNow := none
  mapNext := none
  missed := none
  lastSf := 0
  inbox := []
  sent := []
  contQ := []
  echoes := []
  cleanSf := none
  slotKey := 0
  driven := []
  due := 0
  dueAt := []
  calAt := []
  trespass := 0
  stranger := 0
  pllOk := true

def BasinTime.reset : BasinTime := ⟨false, 0, 0, 0⟩

def Impound.reset : Impound := ⟨false, false, false, 0, false, 0, 0, 0, 0, 0, 0, 0, 0⟩

def HostFn.reset : HostFn where
  rate := 0
  width := 0
  linkUp := false
  flit := false
  bme := false
  mse := false
  msixEn := false
  fmask := false
  table := []
  pba := 0
  sent := []
  cpl := .none
  payload := 0
  readSize := 2
  reqs := []

/-- R491: in reset, PMP off. -/
def Hart.reset : Hart := ⟨false, false, false, false, .m, 0, [], [], [], none⟩

def Plic.reset : Plic := ⟨[], [], [], 0, 0, [], 0⟩

def Clerks.reset : Clerks := ⟨Quad.const Hart.reset, [], Plic.reset, 0⟩

def Mailbox.reset : Mailbox where
  busy := false
  done := false
  reject := false
  level := 0
  lastSeq := 0
  status := 0
  cmd := 0
  len := 0
  result := 0
  data := []
  req := 0
  nonce := none
  fails := 0
  lockout := false
  after := none

/-- R110: level 0, Logbook cleared, LB_EN set (LB_CFG), every class enabled (CLASS_MASK). -/
def Watch.reset : Watch where
  box := Duo.const Mailbox.reset
  units := []
  wr := 0
  rd := 0
  kept := 0
  lost := 0
  lbEn := true
  stopMode := false
  classMask := 0xFFFFFFFF#32
  evsel := []
  rewrite := none
  dozeStart := 0

/-- A polder in POWERED with the given fuses (R110): everything cold. The seeds of its sluices are those of its fuses. -/
def Polder.reset (f : Fuses) (seedR seedC : Word) (rollback : Nat) : Polder where
  fuses := f
  boot := .powered
  dozing := none
  cause := .poweron
  joinSlow := false
  joinFrom := 0
  alone := false
  bootCount := 0
  runTime := 0
  regs := []
  held := []
  heldNext := []
  woc := []
  latches := []
  holders := []
  charter := Charter.reset rollback none none
  clocks := Clocks.reset true
  wharf := Wharf.reset
  berths := Quad.const Berth.reset
  planes := []
  mem := Mem.reset
  memctl := MemCtl.reset
  copy := []
  gleaner := Gleaner.reset
  ledger := Ledger.reset
  sluices := ⟨Sluice.reset seedR seedR, Sluice.reset seedC seedC⟩
  basin := BasinTime.reset
  lock := Lock.reset
  imp := Impound.reset
  clerks := Clerks.reset
  watch := Watch.reset
  host := HostFn.reset
  fresh := 0

/-- R180 and the defaults of R55. -/
def Warden.reset (stepping : Byte) (keyHash : BitVec 384) (rollback : Nat) : Warden where
  stepping := stepping
  keyHash := keyHash
  rollbackFuse := rollback
  causeA := 0
  causeB := 0
  slotB := false
  defaults := false
  lock := false
  budget := 1560
  floors := Quad.const 200
  tSoft := 95
  tHard := 105
  weights := Quad.const 1
  pmbusAddr := ⟨0x40, 0, 0, 0⟩
  pecEn := true
  rawWindow := true
  vrHotPin := false
  vrForce := false
  vrAlertPin := false
  vrUnread := Quad.const false
  vrHalved := Quad.const false
  derating := false
  thermtrip := false
  tripHeld := false
  clkCal := false
  temp := 0
  pEff := 0
  epoch := 0
  dieTime := 0
  req := Quad.const 0
  grant := Quad.const 0
  nextGrant := Quad.const 0
  imon := Quad.const 0
  imonBad := Quad.const false
  skip := Quad.const 0
  nextSkip := Quad.const 0
  live := Quad.const 0
  declared := Quad.const 0
  rawSum := 0
  scaleNum := 1
  scaleDen := 1
  corrOff := false
  misses := Quad.const 0
  iout := 0
  vrTemp := 0
  overRun := 0
  overB := false
  wregs := []
  wholder := none
  imp := none
  flashA := none
  flashB := none
  flashTaken := none
  density := none

/-- The fuses State.reset has: a JT4-192 of stepping 1 with every mill site good. Log entry 5. -/
def Fuses.reset (i : Ix4) : Fuses where
  sku := .jt4x192
  stepping := 1
  serial := 0
  index := i
  sites := BitVec.allOnes 66
  repair := List.replicate 64 (0x860860#24)
  keyHash := 0
  debugKey := 0

/-- The die right after power-on: the join seeds are those R103 gives the fuses of `Fuses.reset`. VDD_AON in range, the Warden and the Watchhouses started, every polder in POWERED (R95, R96, R110). -/
def State.reset : State where
  polders := ⟨Polder.reset (Fuses.reset .i0) 0xE3DDF06B#32 0x11B67368#32 0,
    Polder.reset (Fuses.reset .i1) 0xF07F681C#32 0x0214EB1F#32 0,
    Polder.reset (Fuses.reset .i2) 0xC498C085#32 0x36F34386#32 0,
    Polder.reset (Fuses.reset .i3) 0xD73A58F2#32 0x2551DBF1#32 0⟩
  warden := Warden.reset 1 0 0
  pf4 := HostFn.reset
  rails := [.aon]
  perst := true
  peRefclk := false
  hostMem := Mem.reset
  pending := []

end Sys2Proof.Machine
end

