-- ==== Sys2Proof/Machine/Bytes.lean ====
section
/-!
DEFINITION. Machine/Bytes.lean: bytes and words (R7), sparse stores, bit fields, and the byte memory.
-/
namespace Sys2Proof.Machine

/-! ## Words and bytes -/

/-- The number that little-endian bytes spell (R7). -/
def leNat : List Byte → Nat
  | [] => 0
  | b :: bs => b.toNat + 256 * leNat bs

/-- The `n` little-endian bytes of a number. -/
def natLe : (n : Nat) → Nat → List Byte
  | 0, _ => []
  | n + 1, v => BitVec.ofNat 8 v :: natLe n (v / 256)

/-- The number that big-endian bytes spell. -/
def beNat (bs : List Byte) : Nat := leNat bs.reverse

/-- The `n` big-endian bytes of a number. -/
def natBe (n v : Nat) : List Byte := (natLe n v).reverse

/-- Bytes `ofs` to `ofs + n − 1` of a list as a little-endian number. -/
def fieldAt (bs : List Byte) (ofs n : Nat) : Nat := leNat ((bs.drop ofs).take n)

/-- Bits [hi:lo] of a number. -/
def bitsOf (v hi lo : Nat) : Nat := (v / 2 ^ lo) % 2 ^ (hi + 1 - lo)

/-- Bit `i` of a number. -/
def bitOf (v i : Nat) : Bool := (v / 2 ^ i) % 2 == 1

def word (n : Nat) : Word := BitVec.ofNat 32 n

def cell (n : Nat) : Cell := BitVec.ofNat 64 n

/-- The number of set bits. -/
def popcount : (fuel : Nat) → Nat → Nat
  | 0, _ => 0
  | f + 1, v => v % 2 + popcount f (v / 2)

/-- A list with element `i` replaced. -/
def setAt {α : Type} (l : List α) (i : Nat) (x : α) : List α := l.set i x

/-- The list as pieces of `n` elements; the last may be shorter. `fuel` bounds the pieces. -/
def pieces {α : Type} (n : Nat) : (fuel : Nat) → List α → List (List α)
  | 0, _ => []
  | _, [] => []
  | f + 1, l => l.take n :: pieces n f (l.drop n)

def zeros (n : Nat) : List Byte := List.replicate n 0

/-! ## Sparse stores -/

/-- An element put into a list in front of the first one that it may precede. -/
def insertBy {α : Type} (le : α → α → Bool) (x : α) : List α → List α
  | [] => [x]
  | y :: ys => if le x y then x :: y :: ys else y :: insertBy le x ys

namespace Store

/-- The value stored under a number, if any. -/
def find {α : Type} : Store α → Nat → Option α
  | [], _ => none
  | (k, v) :: m, a => if k = a then some v else find m a

/-- The value under a number, `d` where none is stored. -/
def getD {α : Type} (m : Store α) (a : Nat) (d : α) : α := (find m a).getD d

/-- The store with `v` under `a`, in ascending order. -/
def insert {α : Type} : Store α → Nat → α → Store α
  | [], a, v => [(a, v)]
  | (k, w) :: m, a, v =>
    if a < k then (a, v) :: (k, w) :: m
    else if a = k then (a, v) :: m
    else (k, w) :: insert m a v

/-- The store with nothing under `a`. -/
def erase {α : Type} : Store α → Nat → Store α
  | [], _ => []
  | (k, w) :: m, a => if k = a then erase m a else (k, w) :: erase m a

/-- The store in which `a` reads as `v` and nothing is listed that reads as the default `d`. -/
def put {α : Type} [DecidableEq α] (m : Store α) (a : Nat) (v d : α) : Store α :=
  if v = d then erase m a else insert m a v

/-- Numbers strictly rise. -/
def sorted {α : Type} : Store α → Bool
  | [] => true
  | [_] => true
  | (a, _) :: (b, w) :: m => decide (a < b) && sorted ((b, w) :: m)

end Store

/-! ## Memory (R14, R20) -/

namespace Mem

/-- The newest fill that covers an address. -/
def fillAt : List Fill → Nat → Option Fill
  | [], _ => none
  | f :: fs, a => if f.lo ≤ a && a < f.lo + f.len then some f else fillAt fs a

/-- What an address reads as when no cell lists it. -/
def base (m : Mem) (a : Nat) : Byte :=
  match fillAt m.fills a with
  | some ⟨_, _, some st⟩ => Config.freeByte st a
  | _ => 0

/-- Whether an unlisted address reads as a known zero. -/
def baseKnown (m : Mem) (a : Nat) : Bool :=
  match fillAt m.fills a with
  | some ⟨_, _, some _⟩ => false
  | _ => true

/-- The byte at an address. -/
def read (m : Mem) (a : Nat) : Byte :=
  match Store.find m.cells a with
  | some b => b
  | none => m.base a

/-- The memory with one byte written. A known zero that is written where zero is read anyway is not listed. -/
def write (m : Mem) (a : Nat) (b : Byte) : Mem :=
  if b = 0 ∧ m.baseKnown a = true then { m with cells := Store.erase m.cells a }
  else { m with cells := Store.insert m.cells a b }

def readBytes (m : Mem) : (a n : Nat) → List Byte
  | _, 0 => []
  | a, n + 1 => m.read a :: readBytes m (a + 1) n

def writeBytes (m : Mem) : (a : Nat) → List Byte → Mem
  | _, [] => m
  | a, b :: bs => writeBytes (m.write a b) (a + 1) bs

def readNat (m : Mem) (a n : Nat) : Nat := leNat (m.readBytes a n)

def writeNat (m : Mem) (a n v : Nat) : Mem := m.writeBytes a (natLe n v)

/-- Whether two ranges meet. -/
def overlaps (lo len : Nat) (f : Fill) : Bool := decide (lo < f.lo + f.len) && decide (f.lo < lo + len)

/-- A range overwritten by zeros (`none`) or by unspecified contents. A fill that the new one covers whole is dropped, and zeros are
listed only over contents that were unspecified. -/
def fill (m : Mem) (lo len : Nat) (stamp : Option Nat) : Mem :=
  if len = 0 then m
  else
    let old := m.fills.filter (fun f => !(lo ≤ f.lo && f.lo + f.len ≤ lo + len))
    { cells := m.cells.filter (fun c => !(lo ≤ c.1 && c.1 < lo + len))
      fills := if stamp = none ∧ old.any (overlaps lo len) = false then old else ⟨lo, len, stamp⟩ :: old }

/-- The form every memory has: addresses rise strictly and no cell lists a known zero that is read anyway. -/
def wf (m : Mem) : Bool :=
  Store.sorted m.cells && m.cells.all (fun c => !(c.2 == 0 && m.baseKnown c.1))

end Mem

/-! ## Free values (R12) -/

/-- The next free 64-bit value of the polder, and the polder that has drawn it. Log entry 7. -/
def Polder.free (q : Polder) : Cell × Polder :=
  (Config.freeCell q.fuses.index.toNat q.fresh, { q with fresh := q.fresh + 1 })

/-- `n` free bytes, and the polder that has drawn them. -/
def Polder.freeBytes (q : Polder) (n : Nat) : List Byte × Polder :=
  ((List.range n).map (Config.freeByte (4 * q.fresh + q.fuses.index.toNat)), { q with fresh := q.fresh + 1 })

/-- The polder with the contents of a memory range unspecified (R14). -/
def Polder.unspecified (q : Polder) (lo len : Nat) : Polder :=
  { q with mem := q.mem.fill lo len (some (4 * q.fresh + q.fuses.index.toNat)), fresh := q.fresh + 1 }

/-! ## Clocks -/

/-- Whether a polder's mill, clerk and fabric clocks stand: the reference that SAFE needs is lost (R141), or THERMTRIP# holds them (R159). -/
def Clocks.stopped (c : Clocks) : Bool := c.refStop || c.tripped

/-! ## The die's parts -/

def State.pol (s : State) (p : Ix4) : Polder := s.polders.get p

def State.setPol (s : State) (p : Ix4) (q : Polder) : State := { s with polders := s.polders.set p q }

/-- The state with one polder changed. -/
def State.onPol (s : State) (p : Ix4) (f : Polder → Polder) : State := s.setPol p (f (s.pol p))

def State.onWarden (s : State) (f : Warden → Warden) : State := { s with warden := f s.warden }

def Polder.onBerth (q : Polder) (b : Ix4) (f : Berth → Berth) : Polder :=
  { q with berths := q.berths.set b (f (q.berths.get b)) }

def Polder.onSluice (q : Polder) (sd : Side) (f : Sluice → Sluice) : Polder :=
  { q with sluices := q.sluices.set sd (f (q.sluices.get sd)) }

end Sys2Proof.Machine
end

