-- ==== Sys2Proof/Machine/RegTable.lean ====
section
/-!
DEFINITION. Machine/RegTable.lean: the register window of R25, register by register.
A `RegSpec` gives, for one 32-bit register, the bits of each access class of R10, the value after cold reset (R11), whether it is
half of a pair (R67), and whether its fields are all fuse-backed (R77). Bits in no mask are RO or reserved.
-/
namespace Sys2Proof.Machine

/-- One register: its bits by access class, its reset value, and its kind. -/
structure RegSpec where
  rw : Nat := 0
  ts : Nat := 0
  lv : Nat := 0
  idm : Nat := 0
  w1c : Nat := 0
  wo : Nat := 0
  woc : Nat := 0
  reset : Nat := 0
  pair : Bool := false
  fuse : Bool := false
  counter : Bool := false
deriving DecidableEq, Repr

def rRO : RegSpec := {}

def rFuse : RegSpec := { fuse := true }

def rRW (m reset : Nat) : RegSpec := { rw := m, reset := reset }

def rLV (m reset : Nat) : RegSpec := { lv := m, reset := reset }

def rTS (m reset : Nat) : RegSpec := { ts := m, reset := reset }

def rW1C (m : Nat) : RegSpec := { w1c := m }

def RegSpec.paired (r : RegSpec) : RegSpec := { r with pair := true }

/-- All 32 bits. -/
def mAll : Nat := 0xFFFFFFFF

/-- A half of a 48-bit counter pair (R73). -/
def rCount (o : Nat) : RegSpec :=
  if o % 8 = 0 then { lv := mAll, pair := true, counter := true }
  else { lv := 0xFFFF, w1c := 0x30000, pair := true, counter := true }

/-- A half of a pair whose two halves have all bits in class RW. -/
def rPairRW : RegSpec := (rRW mAll 0).paired

/-- Whether `o` lies in the 8-byte registers `lo`, `lo + 8`, … of `n`. -/
def inStep8 (o lo n : Nat) : Bool := lo ≤ o && o < lo + 8 * n

/-- Identity and status block (R34, R122, R530). The MSI-X table and PBA at 0x0800 to 0x0C07 are not registers of R10 (R518). -/
def specIdent (o : Nat) : Option RegSpec :=
  if o = 0x00 ∨ o = 0x04 ∨ o = 0x10 then some rFuse
  else if o = 0x18 ∨ o = 0x1C then some rFuse.paired
  else if o = 0x0C then some (rRW 0x3FFFF 0)
  else if o = 0x08 ∨ o = 0x20 ∨ o = 0x24 ∨ o = 0x28 ∨ o = 0x2C ∨ o = 0x30 ∨ o = 0x40 then some rRO
  else if o = 0x38 ∨ o = 0x3C then some rRO.paired
  else if o = 0x44 then some (rW1C 0x1F)
  else if inStep8 o 0x48 4 then some (rCount o)
  else if 0x100 ≤ o ∧ o < 0x300 then
    match (o % 0x20) / 4 with
    | 0 | 1 | 2 | 3 | 4 | 5 => some (rLV mAll 0).paired
    | 6 => some (rLV 0x1F 0)
    | _ => none
  else none

/-- Charter block (R65). -/
def specCharter (o : Nat) : Option RegSpec :=
  if o ≤ 0x18 ∨ o = 0x2C then some rRO
  else if o = 0x20 ∨ o = 0x24 then some rRO.paired
  else if o = 0x28 ∨ (0x40 ≤ o ∧ o ≤ 0x6C) then some rFuse
  else if 0x80 ≤ o ∧ o ≤ 0xDC then some { woc := mAll }
  else none

/-- Clocks block (R147). -/
def specClocks (o : Nat) : Option RegSpec :=
  if o = 0 then some { reset := 2 }
  else if o = 4 then some (rW1C 0xFF)
  else if o = 8 then some (rLV 3 0)
  else if o = 0xC then some (rRW 0x1FF 4)
  else if o = 0x10 then some (rLV 1 0)
  else if inStep8 o 0x18 4 then some (rCount o)
  else none

/-- Wharf block. -/
def specWharf (o : Nat) : Option RegSpec :=
  if o = 0 then some { reset := 1 }
  else if o = 4 then some { wo := 0xF }
  else if o = 8 then some (rRW 0x1FFFF 0x3E8)
  else if o = 0xC then some (rTS 0x1FFFF 0)
  else if o = 0x10 then some (rTS 0x3F 0x1F)
  else if o = 0x14 then some (rRW 0x1FFFF0 0)
  else if o = 0x18 ∨ o = 0x1C then some rRO.paired
  else if o = 0x20 ∨ o = 0x24 then some rRO
  else if o = 0x28 then some (rW1C 0xF)
  else if inStep8 o 0x30 5 then some (rCount o)
  else if 0x80 ≤ o ∧ o < 0xC0 then some (rRW 0x7FF (20 * ((o - 0x80) / 4 + 1)))
  else if 0x100 ≤ o ∧ o < 0x300 then
    match (o % 0x20) / 4 with
    | 0 | 1 | 2 | 3 => some { idm := mAll, pair := true }
    | 4 => some { idm := 0x21F, lv := 0x100 }
    | 5 => some { reset := 1 }
    | _ => none
  else if 0x400 ≤ o ∧ o < 0x500 then some rRO
  else none

/-- Block of one berth (R256, R282). -/
def specBerth (o : Nat) : Option RegSpec :=
  if o = 0 then some { reset := 1 }
  else if o = 4 ∨ o = 8 ∨ o = 0xC ∨ o = 0x14 then some rRO
  else if o = 0x10 then some { wo := 1 }
  else if o = 0x18 then some (rW1C 0xF)
  else if o = 0x1C then some (rLV 0x1FFFC1 0)
  else if o = 0x20 ∨ o = 0x24 then some rRO.paired
  else if inStep8 o 0x28 3 then some (rCount o)
  else if (0x40 ≤ o ∧ o < 0x80) ∨ (0x400 ≤ o ∧ o < 0x800) then some rRO
  else none

/-- Mills and repair map block (R317). -/
def specMills (o : Nat) : Option RegSpec :=
  if o = 0 then some rRO
  else if o = 8 then some (rW1C 7)
  else if inStep8 o 0x10 4 then some (rCount o)
  else if 0x100 ≤ o ∧ o < 0x200 then some rRO
  else none

/-- Ledger block. -/
def specLedger (o : Nat) : Option RegSpec :=
  if o = 0 then some { reset := 1 }
  else if o = 4 then some (rRW 1 0)
  else if o = 8 then some (rRW 0x077F7F7F 0)
  else if o = 0xC then some (rRW 0x1FF 0)
  else if o = 0x10 then some (rRW 0x00FFFF0F 4)
  else if o = 0x14 then some (rRW mAll 0)
  else if o = 0x18 ∨ o = 0x1C ∨ (0x28 ≤ o ∧ o < 0x48) then some rPairRW
  else if o = 0x20 then some (rRW 0xFFFFFF 0)
  else if o = 0x24 then some (rRW 0x1FFF 0)
  else if o = 0x48 ∨ o = 0x4C then some rRO
  else if o = 0x50 then some (rW1C 0xF)
  else if inStep8 o 0x58 8 then some (rCount o)
  else none

/-- Gleaner block (R384). -/
def specGleaner (o : Nat) : Option RegSpec :=
  if o = 0 then some { reset := 3 }
  else if o = 4 then some (rRW 0x17 0x11)
  else if o = 8 then some (rW1C 0x3F)
  else if o = 0xC ∨ o = 0x10 then some rRO
  else if inStep8 o 0x20 8 then some (rCount o)
  else if 0x1000 ≤ o ∧ o < 0x2000 then
    match (o % 0x40) / 4 with
    | 0 | 1 | 2 | 3 | 10 | 11 => some rPairRW
    | 4 => some (rRW mAll 0)
    | 5 => some (rRW 0x80000F1F 0)
    | 6 => some (rRW 0x7FF 0)
    | 7 => some (rRW 0x0FFF1FFF 0)
    | 8 => some (rRW 0x1FFFFC 0)
    | 9 => some (rRW 0x1FFFF 0)
    | 12 => some (rLV 3 0)
    | _ => none
  else none

/-- Block of one sluice (R585 and the transfer registers). -/
def specSluice (o : Nat) : Option RegSpec :=
  if o = 0 then some rRO
  else if o = 4 then some (rW1C 0x3FF)
  else if o = 8 then some (rRW 0xFFFF 0xFFFF)
  else if o = 0xC then some (rLV 0xFF 0x10)
  else if o = 0x10 then some (rRW 0xFFFF 0xFA)
  else if o = 0x14 ∨ o = 0x18 ∨ (0x28 ≤ o ∧ o ≤ 0x34) then some rRO
  else if o = 0x20 ∨ o = 0x24 then some rRO.paired
  else if inStep8 o 0x40 11 then some (rCount o)
  else if o = 0x100 then some (rRW 0xFFFFFF 0x100402)
  else if o = 0x104 then some rRO
  else if inStep8 o 0x110 8 then some (rCount o)
  else none

/-- Lock block. -/
def specLock (o : Nat) : Option RegSpec :=
  if o = 0 then some { reset := 1 }
  else if o = 4 then some (rW1C 0x1F)
  else if o = 8 then some rRO
  else if o = 0xC then some (rRW mAll 0x04001000)
  else if o = 0x10 ∨ o = 0x14 then some rRO.paired
  else if inStep8 o 0x18 2 then some { idm := mAll, pair := true }
  else if o = 0x28 then some { idm := 0x1F, lv := 0x100 }
  else if o = 0x2C then some (rRW 0x1FFFF0 0)
  else if o = 0x30 then some { wo := 1 }
  else if 0x40 ≤ o ∧ o < 0x80 then
    match (o % 16) / 4 with
    | 1 => some (rTS 0x8000FFFF 0).paired
    | 3 => some (rTS 0xFFFF 0).paired
    | _ => some (rTS mAll 0).paired
  else if 0x100 ≤ o ∧ o < 0x500 then some rPairRW
  else if inStep8 o 0x500 8 then some (rCount o)
  else if 0x4000 ≤ o ∧ o < 0x8000 then some rRO
  else none

/-- HBM, Granary and Counter block (R352). -/
def specHbm (o : Nat) : Option RegSpec :=
  if o = 0 then some rRO
  else if o = 4 then some (rW1C 0x3FF)
  else if o = 8 then some (rTS mAll 0).paired
  else if o = 0xC then some (rTS mAll 0xFF000000).paired
  else if o = 0x10 then some (rLV 0xFFFF0001 0x00180001)
  else if o = 0x14 then some (rLV 1 1)
  else if o = 0x18 then some (rRW 1 0)
  else if inStep8 o 0x20 10 then some (rCount o)
  else if o = 0x80 ∨ o = 0x84 ∨ o = 0x88 ∨ o = 0x90 ∨ o = 0x94 then some rRO.paired
  else if o = 0x8C then some (rW1C 0x80000000).paired
  else none

/-- Impound and fences block. -/
def specImpound (o : Nat) : Option RegSpec :=
  if o = 0 ∨ o = 8 ∨ o = 0xC ∨ o = 0x30 then some rRO
  else if o = 4 then some (rW1C 3)
  else if inStep8 o 0x10 3 ∨ o = 0x38 ∨ o = 0x3C then some rRO.paired
  else if o = 0x28 ∨ o = 0x2C ∨ inStep8 o 0x40 2 then some (rCount o)
  else if 0x100 ≤ o ∧ o < 0x500 then
    match (o % 0x20) / 4 with
    | 0 | 1 | 2 | 3 => some rPairRW
    | 4 => some (rRW 0x800301FF 0)
    | _ => none
  else none

/-- Clerks block below the PLIC. -/
def specClerks (o : Nat) : Option RegSpec :=
  if o = 0 then some rRO
  else if o = 4 then some { wo := 0xE }
  else if o = 8 then some (rRW mAll 0x10100000).paired
  else if o = 0xC then some rPairRW
  else if inStep8 o 0x18 3 then some (rLV mAll 0).paired
  else if inStep8 o 0x40 4 then some (rLV mAll mAll).paired
  else if o = 0x60 ∨ o = 0x64 then some rRO.paired
  else if 0x70 ≤ o ∧ o < 0x80 then some (rLV 1 0)
  else none

/-- The PLIC at its base (R498): priorities, pending, enables, thresholds and claims. Its registers are live. -/
def specPlic (o : Nat) : Option RegSpec :=
  if 4 ≤ o ∧ o ≤ 136 then some (rLV 7 0)
  else if o = 0x1000 ∨ o = 0x1004 then some rRO
  else if 0x2000 ≤ o ∧ o < 0x2400 then
    let hi := if o / 0x80 % 8 < 2 then 0xFFFFFFFE else 0xFFFFFFFC
    if o % 0x80 = 0 then some (rLV hi 0) else if o % 0x80 = 4 then some (rLV 7 0) else none
  else if 0x4000 ≤ o ∧ o < 0xC000 then
    if o % 0x1000 = 0 then some (rLV 7 0) else if o % 0x1000 = 4 then some { lv := mAll } else none
  else none

/-- Watchhouse shadow block below the inner mailbox. -/
def specWatch (o : Nat) : Option RegSpec :=
  if o = 0 then some { reset := 0x2000 }
  else if o = 4 then some (rW1C 0xF)
  else if o = 8 ∨ o = 0xC then some rRO
  else if o = 0x10 ∨ o = 0x14 then some { wo := mAll, pair := true }
  else if o = 0x18 then some (rRW 0xFFFF 0xA)
  else if o = 0x1C then some { reset := 1 }
  else if inStep8 o 0x20 64 then some (rCount o)
  else if 0x400 ≤ o ∧ o < 0x500 then some rRO
  else if o = 0x500 then some { reset := mAll }
  else none

/-- The register at a 4-byte-aligned offset of the window, none where the offset is unassigned (R26). -/
def regSpec (o : Nat) : Option RegSpec :=
  if o % 4 ≠ 0 then none
  else match o / 0x10000 with
    | 0x00 => specIdent (o % 0x10000)
    | 0x01 => specCharter (o % 0x10000)
    | 0x02 => specClocks (o % 0x10000)
    | 0x03 => specWharf (o % 0x10000)
    | 0x04 => specBerth (o % 0x4000)
    | 0x08 => specMills (o % 0x10000)
    | 0x0A => specLedger (o % 0x10000)
    | 0x0B => specGleaner (o % 0x10000)
    | 0x0C | 0x0D => specSluice (o % 0x10000)
    | 0x0E => specLock (o % 0x10000)
    | 0x10 => specHbm (o % 0x10000)
    | 0x12 => specImpound (o % 0x10000)
    | 0x14 => specClerks (o % 0x10000)
    | 0x15 => specPlic (o % 0x10000)
    | 0x20 => specWatch (o % 0x10000)
    | _ => none

def RegSpec.mask (r : RegSpec) : Nat := r.rw ||| r.ts ||| r.lv ||| r.idm ||| r.w1c ||| r.wo ||| r.woc

/-- The reset value at an offset (R11). -/
def regReset (o : Nat) : Nat :=
  match regSpec o with
  | some r => r.reset
  | none => 0

/-! ## Offsets that other files name -/

namespace Off

def bootFlags : Nat := 0x24
def hostSticky : Nat := 0x44
def linkDownCount : Nat := 0x48
def cplFailCount : Nat := 0x50
def hostTx : Nat := 0x58
def hostRx : Nat := 0x60
def aperture (n : Nat) : Nat := 0x100 + 0x20 * n
def clkSticky : Nat := 0x20004
def millDiv : Nat := 0x20008
def clkCfg : Nat := 0x2000C
def clkTest : Nat := 0x20010
def refLossCount : Nat := 0x20018
def relockCount : Nat := 0x20020
def realignCount : Nat := 0x20028
def lockRetryCount : Nat := 0x20030
def doorbell : Nat := 0x30004
def tidePeriod : Nat := 0x30008
def slack : Nat := 0x3000C
def watchLog2 : Nat := 0x30010
def ringPtrBase : Nat := 0x30014
def wharfSticky : Nat := 0x30028
def admitCount : Nat := 0x30030
def backfillCount : Nat := 0x30038
def dropCount : Nat := 0x30040
def timeoutCount : Nat := 0x30048
def agedCount : Nat := 0x30050
def pclass (n : Nat) : Nat := 0x30080 + 4 * n
def ring (n : Nat) : Nat := 0x30100 + 0x20 * n
def berth (n : Nat) : Nat := 0x40000 + 0x4000 * n
def millSticky : Nat := 0x80008
def vecCount : Nat := 0x80010
def planeLoadCount : Nat := 0x80018
def satCount : Nat := 0x80020
def nanCount : Nat := 0x80028
def ledger : Nat := 0xA0000
def lgSticky : Nat := 0xA0050
def lgCount (m : Nat) : Nat := 0xA0058 + 8 * m
def gleaner : Nat := 0xB0000
def glSticky : Nat := 0xB0008
def glCount (m : Nat) : Nat := 0xB0020 + 8 * m
def table (t : Nat) : Nat := 0xB1000 + 0x40 * t
def sluice : Side → Nat
  | .r => 0xC0000 | .c => 0xD0000
def slCount (sd : Side) (m : Nat) : Nat := sluice sd + 0x40 + 8 * m
def xfCount (sd : Side) (m : Nat) : Nat := sluice sd + 0x110 + 8 * m
def lock : Nat := 0xE0000
def lockSticky : Nat := 0xE0004
def lockCount (m : Nat) : Nat := 0xE0500 + 8 * m
def harbDoorbell : Nat := 0xE0030
def memSticky : Nat := 0x100004
def commons : Nat := 0x100008
def hbmCfg : Nat := 0x100010
def granScrub : Nat := 0x100014
def poolRead : Nat := 0x100018
def memCount (m : Nat) : Nat := 0x100020 + 8 * m
def impValid : Nat := 0x120004
def impCount : Nat := 0x120028
def accLogCount : Nat := 0x120040
def setwinCount : Nat := 0x120048
def fence (n : Nat) : Nat := 0x120100 + 0x20 * n
def clerkStart : Nat := 0x140004
def clerkBoot : Nat := 0x140008
def hartEntry (n : Nat) : Nat := 0x140010 + 8 * n
def mtimecmp (n : Nat) : Nat := 0x140040 + 8 * n
def msip (n : Nat) : Nat := 0x140070 + 4 * n
def plic : Nat := 0x150000
def whSticky : Nat := 0x200004
def mark : Nat := 0x200010
def dozeIdle : Nat := 0x200018
def evcnt (m : Nat) : Nat := 0x200020 + 8 * m
def inner : Nat := 0x210000

end Off

/-- Window base in the polder map (R20). -/
def winBase : Nat := 0x20000000

end Sys2Proof.Machine
end

