-- ==== Sys2Proof/Machine/Flags.lean ====
section
/-!
DEFINITION. Machine/Flags.lean: stored registers, 48-bit counters (R73, R74), sticky bits and the messages and interrupts they
send (R519, R525, R499, R502), and the Logbook (R545 to R547).
-/
namespace Sys2Proof.Machine

/-- What one polder acts on: itself, host memory, and the die timebase. `waits` says that an access to HBM met a controller or a stack that
serves none now (R133, R350). -/
structure Dom where
  q : Polder
  host : Mem
  now : Nat
  waits : Bool
deriving DecidableEq, Repr

def State.dom (s : State) (p : Ix4) : Dom := ⟨s.pol p, s.hostMem, s.warden.dieTime, false⟩

/-- The state in which polder `p` and host memory are those of `d`. -/
def State.undom (s : State) (p : Ix4) (d : Dom) : State := { s with polders := s.polders.set p d.q, hostMem := d.host }

/-- The state after polder `p` has acted: no other polder, nor the Warden, changes (R19). An access to HBM that has to wait keeps back all
of a row that makes it: the row is not due before the access is served (R133, R350). Log entry 103. -/
def State.act (s : State) (p : Ix4) (f : Dom → Dom) : State :=
  let d := f (s.dom p)
  if d.waits then s else s.undom p d

/-- `State.act` for a row of the mill, clerk or fabric clocks, of which none is due while they stand (R141, R159). -/
def State.actOn (s : State) (p : Ix4) (f : Dom → Dom) : State :=
  if (s.pol p).clocks.stopped then s else s.act p f

def Dom.on (d : Dom) (f : Polder → Polder) : Dom := { d with q := f d.q }

def Dom.onBerth (d : Dom) (b : Ix4) (f : Berth → Berth) : Dom := d.on (·.onBerth b f)

def Dom.berth (d : Dom) (b : Ix4) : Berth := d.q.berths.get b

/-- Repeats an action over a list. -/
def Dom.each {α : Type} (d : Dom) (l : List α) (f : α → Dom → Dom) : Dom := l.foldl (fun d x => f x d) d

/-! ## Stored registers -/

/-- The written value of a register (R11 where nothing has changed it). -/
def Polder.stored (q : Polder) (o : Nat) : Nat := (Store.getD q.regs o (word (regReset o))).toNat

def Polder.store (q : Polder) (o v : Nat) : Polder :=
  { q with regs := Store.put q.regs o (word v) (word (regReset o)) }

/-- The written value of a pair (R67). -/
def Polder.stored64 (q : Polder) (o : Nat) : Nat := q.stored o + 2 ^ 32 * q.stored (o + 4)

def Polder.store64 (q : Polder) (o v : Nat) : Polder := (q.store o (v % 2 ^ 32)).store (o + 4) (v / 2 ^ 32 % 2 ^ 32)

/-- VALUE of a counter pair (R73). -/
def Polder.counter (q : Polder) (o : Nat) : Nat := q.stored o + 2 ^ 32 * (q.stored (o + 4) % 2 ^ 16)

/-- The counter pair at `o` after `n` increments: VALUE wraps modulo 2^48 and a wrap sets OVF (R74). -/
def Polder.bump (q : Polder) (o n : Nat) : Polder :=
  let v := q.counter o + n
  let fl := q.stored (o + 4) / 2 ^ 16 % 4
  let fl' := if v < 2 ^ 48 then fl else fl ||| 1
  (q.store o (v % 2 ^ 32)).store (o + 4) (v / 2 ^ 32 % 2 ^ 16 + 2 ^ 16 * fl')

def Dom.bump (d : Dom) (o n : Nat) : Dom := d.on (·.bump o n)

/-! ## MSI-X (R518, R519, R525) -/

/-- A double word of the MSI-X table; the mask bit of a vector control word is 1 after reset (PCI Express Base Specification). -/
def HostFn.tableWord (h : HostFn) (i : Nat) : Word := Store.getD h.table i (if i % 4 = 3 then 1 else 0)

/-- Whether a vector can be sent now (R525). -/
def HostFn.canSend (h : HostFn) (v : Nat) : Bool :=
  h.linkUp && h.bme && h.msixEn && !h.fmask && !(h.tableWord (4 * v + 3)).getLsbD 0

/-- A vector's event: its message is sent, or its PBA bit is set (R525). -/
def HostFn.raise (h : HostFn) (v : Nat) : HostFn :=
  if h.canSend v then { h with sent := v :: h.sent } else { h with pba := h.pba ||| (1#64 <<< v) }

/-- The event of a vector of the polder's PF; a message sent is 4 bytes of device-to-host payload. -/
def Dom.msix (d : Dom) (v : Nat) : Dom :=
  d.on (fun q =>
    let q' := { q with host := q.host.raise v }
    if q.host.canSend v then q'.bump Off.hostTx 4 else q')

/-! ## Clerk interrupt sources (R499, R502) -/

/-- An event of an edge source: pending, or held while the source is claimed. -/
def Plic.event (c : Plic) (n : Nat) : Plic :=
  if c.claimed.getLsbD n then { c with held := c.held ||| (1#35 <<< n) }
  else { c with edge := c.edge ||| (1#35 <<< n) }

def Dom.source (d : Dom) (n : Nat) : Dom :=
  d.on (fun q => { q with clerks := { q.clerks with plic := q.clerks.plic.event n } })

/-! ## The Logbook (R545 to R547) -/

/-- Units of the Logbook. -/
def lbUnits : Nat := 32768

/-- UNITS of the record that starts at a unit. -/
def Watch.unitsAt (w : Watch) (i : Nat) : Nat :=
  if bitsOf (Store.getD w.units i 0).toNat 87 80 = 2 then 2 else 1

/-- The Logbook with its oldest records overwritten until `n` more units fit. `fuel` bounds the records. -/
def Watch.makeRoom (w : Watch) (n : Nat) : (fuel : Nat) → Watch
  | 0 => w
  | f + 1 =>
    if w.kept + n ≤ lbUnits then w
    else
      let u := w.unitsAt w.rd
      { w with rd := (w.rd + u) % lbUnits, kept := w.kept - u }.makeRoom n f

/-- The units of one record placed at LB_WR. -/
def Watch.place (w : Watch) (bs : List Byte) : Watch :=
  { w with
    units := Store.insert w.units w.wr (BitVec.ofNat 256 (leNat (bs.take 32)))
    wr := (w.wr + 1) % lbUnits
    kept := w.kept + 1 }

def Watch.placeAll (w : Watch) (bs : List Byte) (n : Nat) : Watch :=
  (pieces 32 n bs).foldl Watch.place w

/-- A record's bytes (R545). -/
def logBytes (time typ src units tide : Nat) (payload : List Byte) : List Byte :=
  let body := natLe 8 time ++ natLe 1 typ ++ natLe 1 src ++ natLe 1 units ++ [0] ++ natLe 4 (tide % 2 ^ 32) ++ payload
  body ++ zeros (32 * units - body.length)

/-- Whether a record type is written now (R546). -/
def Watch.writes (w : Watch) (typ : Nat) : Bool :=
  w.lbEn && ([1, 2, 3, 4, 14, 15].contains typ || w.classMask.getLsbD typ)

/-- The Logbook with a record added, and whether the record was lost (STOP mode, R547). -/
def Watch.add (w : Watch) (time typ src units tide : Nat) (payload : List Byte) : Watch × Bool :=
  let bs := logBytes time typ src units tide payload
  if w.stopMode then
    let lostRec := if w.lost = 0 then [] else logBytes time 14 15 1 tide (natLe 8 w.lost)
    let n := units + (if w.lost = 0 then 0 else 1)
    if w.kept + n ≤ lbUnits then ({ w with lost := 0 }.placeAll (lostRec ++ bs) n, false)
    else ({ w with lost := w.lost + 1 }, true)
  else ((w.makeRoom units 2).placeAll bs units, false)

/-- BERTH_STATUS (R256). -/
def Berth.status (x : Berth) : Nat :=
  let running := match x.phase with
    | .running | .wideStall | .draining => true
    | _ => false
  let waiting := match x.phase with
    | .waitt _ _ _ _ => true
    | _ => false
  bit x.run.isNone + 2 * bit (running && !x.halted && !x.impounded) + 4 * bit waiting
    + 8 * bit (decide (x.phase = .yielded)) + 16 * bit x.halted + 32 * bit x.impounded + 64 * bit x.pre.isSome
    + 128 * bit x.longOp

/-- The code of BOOT_STATE.STATE (R34). -/
def BootState.code : BootState → Nat
  | .powered => 0 | .charter => 1 | .hbmtrain => 2 | .basinjoin => 3 | .opened => 4 | .run => 5 | .stranded => 14 | .absent => 15

/-- Basin time, or the die timebase in a polder with ALONE set (R108, R490). -/
def Dom.basinNs (d : Dom) : Nat := if d.q.alone then d.now else d.q.basin.now

/-- The payload of SYNC (R546); `mills` is the number of mill cycles delivered since RUN. -/
def Dom.syncPayload (d : Dom) (mills : Cell) : List Byte :=
  natLe 8 d.q.wharf.tide ++ natLe 8 d.basinNs ++ natLe 1 d.q.boot.code ++ natLe 1 d.q.clocks.window.level
    ++ natLe 1 d.q.clocks.divCur.toNat ++ [0] ++ natLe 2 d.q.wharf.grant ++ [0, 0]
    ++ (d.q.berths.toList.flatMap (fun x => natLe 4 (x.pc % 2 ^ 17 + 2 ^ 24 * (x.status % 256))))
    ++ natLe 8 mills.toNat

/-- A Logbook record with no SYNC after it. -/
def Dom.log1 (d : Dom) (typ src units : Nat) (payload : List Byte) : Dom :=
  if d.q.watch.writes typ then
    let r := d.q.watch.add d.now typ src units d.q.wharf.tide payload
    d.on (fun q =>
      let q' := { q with watch := r.1 }
      if r.2 then q'.store Off.whSticky (q'.stored Off.whSticky ||| 2) else q')
  else d

/-! ## The windows of the governor (R160) -/

/-- Whether pulse position `p` of a window is delivered at skip level `s` (R160). -/
def pulseDelivered (s p : Nat) : Bool := decide (p * (64 - s) / 64 < (p + 1) * (64 - s) / 64)

/-- How many of the first `p` positions of a window are delivered. -/
def pulsesBefore (s p : Nat) : Nat := p * (64 - s) / 64

/-- The windows after `n` more pulse positions: a level waiting takes effect where the window ends. -/
def Window.advance (w : Window) (n : Nat) : Window :=
  if w.pos + n < 64 then
    { w with pos := w.pos + n, mills := w.mills + (pulsesBefore w.level (w.pos + n) - pulsesBefore w.level w.pos) }
  else
    let m := w.pos + n - 64
    { w with
      level := w.next
      pos := m % 64
      mills := w.mills + ((64 - w.level) - pulsesBefore w.level w.pos) + m / 64 * (64 - w.next) + pulsesBefore w.next (m % 64) }

/-- A new window begins, with the level that waited (R160). -/
def Window.restart (w : Window) : Window := { w with level := w.next, pos := 0 }

/-- Whether mill pulses reach the polder: its clocks run and no doze gates them. -/
def Polder.pulses (q : Polder) : Bool := !q.clocks.stopped && q.dozing.isNone

/-- The pulse positions that have gone by since the windows were last looked at, a free number (log entry 3): `n` of them. -/
def Polder.pulse (q : Polder) (n : Nat) : Polder := { q with clocks := { q.clocks with window := q.clocks.window.advance n } }

/-- The SYNC record. How many pulses have gone by is wall-clock time, which the model does not count in pulses: a free number (log
entry 3). -/
def Dom.sync (d : Dom) : Dom :=
  let x := d.q.free
  let d' := { d with q := if x.2.pulses then x.2.pulse x.1.toNat else x.2 }
  d'.log1 1 15 2 (d'.syncPayload (cell d'.q.clocks.window.mills))

/-- A Logbook record against the die timebase; a SYNC follows where LB_WR wraps (R547). -/
def Dom.log (d : Dom) (typ src : Nat) (payload : List Byte) : Dom :=
  let d' := d.log1 typ src 1 payload
  if d'.q.watch.wr < d.q.watch.wr then d'.sync else d'

/-! ## Sticky bits -/

/-- The sticky-summary vector of a register (R519). -/
def stickyVector (o : Nat) : Option Nat :=
  if o = Off.hostSticky then some 6
  else if o = Off.wharfSticky then some 28
  else if o = Off.glSticky then some 29
  else if o = Off.lgSticky then some 30
  else if o = Off.sluice .r + 4 then some 31
  else if o = Off.sluice .c + 4 then some 32
  else if o = Off.lockSticky then some 33
  else if o = Off.clkSticky then some 34
  else none

def Dom.msixTimes (d : Dom) (v : Nat) : (n : Nat) → Dom
  | 0 => d
  | n + 1 => (d.msix v).msixTimes v n

/-- Hardware sets bits of a W1C register: one message for each bit that goes from 0 to 1 (R519), and the CLOCK or BASIN record (R546). -/
def Dom.stick (d : Dom) (o m : Nat) : Dom :=
  let old := d.q.stored o
  let new := m - (m &&& old)
  if new = 0 then d
  else
    let d1 := d.on (·.store o (old ||| m))
    let d2 := match stickyVector o with
      | some v => d1.msixTimes v (popcount 32 new)
      | none => d1
    if o = Off.clkSticky then d2.log 0x0C 0x0E (natLe 4 new)
    else if o = Off.sluice .r + 4 then d2.log 0x0D 0x0B (natLe 4 new ++ [0])
    else if o = Off.sluice .c + 4 then d2.log 0x0D 0x0C (natLe 4 new ++ [1])
    else d2

/-! ## Event counters (R549) -/

/-- Whether an EVSEL value counts event `e` of berth `b` (none: not a berth's event). -/
def evselCounts (v e : Nat) (b : Option Ix4) : Bool :=
  v % 256 == e && bitOf v 16 &&
    (match b with
      | some i => bitOf v (8 + i.toNat)
      | none => true)

/-- `n` events of kind `e`, added by every counter of the polder that selects it. -/
def Polder.event (q : Polder) (e n : Nat) (b : Option Ix4) : Polder :=
  (q.watch.evsel.filter (fun x => evselCounts x.2.toNat e b)).foldl (fun q x => q.bump (Off.evcnt x.1) n) q

/-- `n` events of kind `e`, added by every counter that selects it. -/
def Dom.event (d : Dom) (e n : Nat) (b : Option Ix4) : Dom :=
  if n = 0 then d
  else d.each (d.q.watch.evsel.filter (fun x => evselCounts x.2.toNat e b)) (fun x d => d.bump (Off.evcnt x.1) n)

/-- The polder in a new boot state; each change sends vector 0 (R122). -/
def Dom.boot (d : Dom) (b : BootState) : Dom :=
  if d.q.boot = b then d else { d with q := { d.q with boot := b } }.msix 0

end Sys2Proof.Machine
end

