-- ==== Sys2Proof/Machine/Float.lean ====
section
/-!
DEFINITION. Machine/Float.lean: the number formats of R293 and their arithmetic (R294 to R296, R302): values are exact, and each
rounding goes to nearest, ties to even.
-/
namespace Sys2Proof.Machine

/-- A value: NaN, an infinity of a sign, or (−1)^neg × m × 2^e. -/
inductive Num where
  | nan
  | inf (neg : Bool)
  | fin (neg : Bool) (m : Nat) (e : Int)
deriving DecidableEq, Repr

/-- A floating-point format: exponent and fraction bits. -/
structure Fmt where
  ebits : Nat
  mbits : Nat
deriving DecidableEq, Repr

def fmtF32 : Fmt := ⟨8, 23⟩

/-- The exponent of the last place of subnormals. -/
def Fmt.qmin (f : Fmt) : Int := 2 - 2 ^ (f.ebits - 1) - f.mbits

/-- The value of an encoding that follows IEEE 754. -/
def Fmt.unpack (f : Fmt) (v : Nat) : Num :=
  let neg := bitOf v (f.ebits + f.mbits)
  let e := v / 2 ^ f.mbits % 2 ^ f.ebits
  let m := v % 2 ^ f.mbits
  if e = 2 ^ f.ebits - 1 then (if m = 0 then .inf neg else .nan)
  else if e = 0 then .fin neg m f.qmin
  else .fin neg (m + 2 ^ f.mbits) (f.qmin + e - 1)

/-- m × 2^e rounded to a multiple of 2^q, ties to even: the multiple. -/
def roundAt (m : Nat) (e q : Int) : Nat :=
  if q ≤ e then m * 2 ^ (e - q).toNat
  else
    let s := (q - e).toNat
    let lo := m / 2 ^ s
    let r := m % 2 ^ s
    let h := 2 ^ (s - 1)
    if h < r ∨ (r = h ∧ lo % 2 = 1) then lo + 1 else lo

/-- Bits of a number. -/
def bitLen (m : Nat) : Nat := if m = 0 then 0 else Nat.log2 m + 1

/-- A finite value rounded to the format's precision with an unbounded exponent above: multiple and exponent. -/
def Fmt.round (f : Fmt) (m : Nat) (e : Int) : Nat × Int :=
  let q := max (e + bitLen m - (f.mbits + 1)) f.qmin
  let r := roundAt m e q
  if r = 2 ^ (f.mbits + 1) then (2 ^ f.mbits, q + 1) else (r, q)

/-- The encoding of sign, multiple and exponent as `round` gives them, with no check of the range. -/
def Fmt.encode (f : Fmt) (neg : Bool) (m : Nat) (q : Int) : Nat :=
  bit neg * 2 ^ (f.ebits + f.mbits) +
    (if m < 2 ^ f.mbits then m else m - 2 ^ f.mbits + 2 ^ f.mbits * (q - f.qmin + 1).toNat)

/-- Whether the exponent field of a rounded value is one of an infinity or beyond. -/
def Fmt.over (f : Fmt) (m : Nat) (q : Int) : Bool :=
  decide (2 ^ f.mbits ≤ m) && decide ((2 : Int) ^ f.ebits - 1 ≤ q - f.qmin + 1)

/-! ## fp32 -/

def f32nan : Word := 0x7FC00000

def f32inf (neg : Bool) : Word := if neg then 0xFF800000 else 0x7F800000

def f32num (w : Word) : Num := fmtF32.unpack w.toNat

/-- A value rounded once to fp32; overflow gives an infinity (R294, R310). -/
def f32of : Num → Word
  | .nan => f32nan
  | .inf n => f32inf n
  | .fin n m e =>
    let r := fmtF32.round m e
    if fmtF32.over r.1 r.2 then f32inf n else word (fmtF32.encode n r.1 r.2)

/-- The exact product (R294, R296). -/
def Num.mul : Num → Num → Num
  | .nan, _ => .nan
  | _, .nan => .nan
  | .inf a, .inf b => .inf (a != b)
  | .inf a, .fin b m _ => if m = 0 then .nan else .inf (a != b)
  | .fin a m _, .inf b => if m = 0 then .nan else .inf (a != b)
  | .fin a m e, .fin b n g => .fin (a != b) (m * n) (e + g)

/-- The signed multiple of 2^q of a finite value, q at most its exponent. -/
def scaled (neg : Bool) (m : Nat) (e q : Int) : Int :=
  let v : Int := m * 2 ^ (e - q).toNat
  if neg then -v else v

/-- The exact sum; the sum of +0 and −0, and of opposite values, is +0 (R296). -/
def Num.add : Num → Num → Num
  | .nan, _ => .nan
  | _, .nan => .nan
  | .inf a, .inf b => if a = b then .inf a else .nan
  | .inf a, .fin _ _ _ => .inf a
  | .fin _ _ _, .inf b => .inf b
  | .fin a m e, .fin b n g =>
    let q := min e g
    let s := scaled a m e q + scaled b n g q
    if s = 0 then .fin (a && b) 0 q else .fin (decide (s < 0)) s.natAbs q

def Num.neg : Num → Num
  | .nan => .nan
  | .inf a => .inf (!a)
  | .fin a m e => .fin (!a) m e

def f32add (a b : Word) : Word := f32of ((f32num a).add (f32num b))

def f32sub (a b : Word) : Word := f32of ((f32num a).add (f32num b).neg)

def f32mul (a b : Word) : Word := f32of ((f32num a).mul (f32num b))

/-- The correctly rounded quotient: a sticky bit below the quotient keeps the rounding exact. -/
def f32div (a b : Word) : Word :=
  match f32num a, f32num b with
  | .nan, _ => f32nan
  | _, .nan => f32nan
  | .inf _, .inf _ => f32nan
  | .inf s, .fin t _ _ => f32inf (s != t)
  | .fin s _ _, .inf t => word (bit (s != t) * 2 ^ 31)
  | .fin s m e, .fin t n g =>
    if n = 0 then (if m = 0 then f32nan else f32inf (s != t))
    else
      let k := 64 + bitLen n
      let x := m * 2 ^ k
      let qt := x / n
      f32of (.fin (s != t) (2 * qt + (if x % n = 0 then 0 else 1)) (e - g - k - 1))

/-- a < b, false with a NaN; −0 ranks below +0 where `zeros` (R305). -/
def f32lt (zeros : Bool) (a b : Word) : Bool :=
  match f32num a, f32num b with
  | .nan, _ => false
  | _, .nan => false
  | .inf s, .inf t => s && !t
  | .inf s, .fin _ _ _ => s
  | .fin _ _ _, .inf t => !t
  | .fin s m e, .fin t n g =>
    let q := min e g
    let x := scaled s m e q
    let y := scaled t n g q
    decide (x < y) || (zeros && decide (x = 0) && decide (y = 0) && s && !t)

def f32isNan (a : Word) : Bool :=
  match f32num a with
  | .nan => true
  | _ => false

/-- Maximum and minimum with −0 below +0; a NaN operand gives NaN (R305). -/
def f32max (a b : Word) : Word :=
  if f32isNan a || f32isNan b then f32nan else if f32lt true a b then b else a

def f32min (a b : Word) : Word :=
  if f32isNan a || f32isNan b then f32nan else if f32lt true b a then b else a

/-! ## The formats of R293 -/

/-- Bytes of an element (R262). -/
def Elem.size : Elem → Nat
  | .bf16 | .fp16 => 2
  | .e4m3 | .e5m2 | .int8 => 1
  | .fp32 | .int32 => 4

/-- The format with a code of R233; codes above 6 are reserved. -/
def Elem.ofCode : Nat → Option Elem
  | 0 => some .bf16 | 1 => some .fp16 | 2 => some .e4m3 | 3 => some .e5m2 | 4 => some .int8 | 5 => some .fp32 | 6 => some .int32
  | _ => none

def Elem.isInt : Elem → Bool
  | .int8 | .int32 => true
  | _ => false

/-- The value of an element. -/
def Elem.num (x : Elem) (v : Nat) : Num :=
  match x with
  | .bf16 => (⟨8, 7⟩ : Fmt).unpack v
  | .fp16 => (⟨5, 10⟩ : Fmt).unpack v
  | .e5m2 => (⟨5, 2⟩ : Fmt).unpack v
  | .e4m3 =>
    if v % 128 = 127 then .nan
    else
      let m := v % 8
      let e := v / 8 % 16
      if e = 0 then .fin (bitOf v 7) m (-9) else .fin (bitOf v 7) (m + 8) (e - 10)
  | .fp32 => f32num (word v)
  | .int8 => let i := (BitVec.ofNat 8 v).toInt; .fin (decide (i < 0)) i.natAbs 0
  | .int32 => let i := (BitVec.ofNat 32 v).toInt; .fin (decide (i < 0)) i.natAbs 0

/-- What a conversion met (R302): a clamp to a bound, an overflow with SAT = 0, a NaN written. -/
structure Conv where
  val : Nat
  clamp : Bool
  ovf : Bool
  isNan : Bool
deriving DecidableEq, Repr

/-- A value rounded to the nearest integer, ties to even, and clamped to the range of `w` bits. -/
def toIntConv (w : Nat) : Num → Conv
  | .nan => ⟨0, false, false, false⟩
  | .inf n => ⟨(if n then 2 ^ (w - 1) else 2 ^ (w - 1) - 1), true, false, false⟩
  | .fin n m e =>
    let r : Int := roundAt m e 0
    let v : Int := if n then -r else r
    let hi : Int := 2 ^ (w - 1) - 1
    let lo : Int := -2 ^ (w - 1)
    if hi < v then ⟨2 ^ (w - 1) - 1, true, false, false⟩
    else if v < lo then ⟨2 ^ (w - 1), true, false, false⟩
    else ⟨(v % 2 ^ w).toNat, false, false, false⟩

/-- A value rounded to a format with largest finite magnitude `top` (its encoding without sign), infinity `inf` where it has one, and
NaN `nan`. -/
def toFmtConv (f : Fmt) (top : Nat) (inf : Option Nat) (nan : Nat) (sat : Bool) (v : Num) : Conv :=
  let s (n : Bool) := bit n * 2 ^ (f.ebits + f.mbits)
  let beyond (n finite : Bool) : Conv :=
    if sat then ⟨s n + top, true, false, false⟩
    else match inf with
      | some i => ⟨s n + i, false, finite, false⟩
      | none => ⟨nan, false, finite, true⟩
  match v with
  | .nan => ⟨nan, false, false, true⟩
  | .inf n => beyond n false
  | .fin n m e =>
    let r := f.round m e
    let enc := f.encode false r.1 r.2
    if top < enc then beyond n true else ⟨s n + enc, false, false, false⟩

/-- Conversion of a value to a format (R302). -/
def Elem.convert (x : Elem) (sat : Bool) (v : Num) : Conv :=
  match x with
  | .bf16 => toFmtConv ⟨8, 7⟩ 0x7F7F (some 0x7F80) 0x7FC0 sat v
  | .fp16 => toFmtConv ⟨5, 10⟩ 0x7BFF (some 0x7C00) 0x7E00 sat v
  | .e4m3 => toFmtConv ⟨4, 3⟩ 0x7E none 0x7F sat v
  | .e5m2 => toFmtConv ⟨5, 2⟩ 0x7B (some 0x7C) 0x7F sat v
  | .int8 => toIntConv 8 v
  | .int32 => toIntConv 32 v
  | .fp32 => let w := f32of v; ⟨w.toNat, false, false, f32isNan w⟩

/-- An int32 as fp32, rounded to nearest-even (R301). -/
def f32ofInt (v : Word) : Word := f32of (Elem.int32.num v.toNat)

end Sys2Proof.Machine
end

