-- ==== Sys2Proof/Machine/Protect.lean ====
section
/-!
DEFINITION. Machine/Protect.lean: the polder memory map (R20 to R23), apertures (R512, R513), fences (R76), bin masks (R77, R195),
the checks of an access, the access log (R89), and ECC outcomes (R348, R349).
-/
namespace Sys2Proof.Machine

/-! ## The memory map -/

/-- Regions of R20. -/
inductive Region where
  | granary | counter | window | hbm | host
deriving DecidableEq, Repr

def counterBase : Nat := 0x10000000

def counterSize : Nat := 0x200000

def hbmBase : Nat := 0x100000000

/-- The first address above the populated HBM (R22, R333). -/
def Polder.hbmTop (q : Polder) : Nat :=
  let full := match q.fuses.sku with
    | .jt4x128 => 0x800000000
    | _ => 0xC00000000
  hbmBase + (if q.memctl.single then full / 2 else full)

/-- The base of the sluice-pool region (R22). -/
def Polder.poolBase (q : Polder) : Nat := q.hbmTop - 0x1400000

/-- Aperture `n` (R512, R513, R530). -/
structure Aperture where
  en : Bool
  pbase : Nat
  plast : Nat
  hbase : Nat
  ctrl : Nat
deriving DecidableEq, Repr

def Polder.aperture (q : Polder) (n : Nat) : Aperture :=
  let o := Off.aperture n
  ⟨bitOf (q.stored (o + 0x18)) 0, q.stored64 o, q.stored64 (o + 8), q.stored64 (o + 0x10), q.stored (o + 0x18)⟩

/-- Whether the addresses of an aperture keep the rules of R513 and R530. -/
def Aperture.good (a : Aperture) : Bool :=
  a.pbase % 4096 == 0 && decide (0x800000000000 ≤ a.pbase) && a.plast % 4096 == 4095 && decide (a.pbase ≤ a.plast)
    && a.hbase % 4096 == 0

/-- Whether an enabled aperture covers a whole access. -/
def Aperture.covers (ap : Aperture) (a len : Nat) : Bool :=
  ap.en && ap.good && decide (ap.pbase ≤ a) && decide (a + len ≤ ap.plast + 1)

/-- The aperture that decides an access: the lowest-numbered one that covers it (R512). -/
def Polder.apertureOf (q : Polder) (a len : Nat) : Option Aperture :=
  ((List.range 16).map q.aperture).find? (·.covers a len)

/-- The aperture through which an access goes, if it is permitted (R512). -/
def Polder.hostAperture (q : Polder) (a len : Nat) (write : Bool) : Option Aperture :=
  (q.apertureOf a len).filter (fun ap => bitOf ap.ctrl (if write then 2 else 1))

/-- The host address of an access, if it is permitted. -/
def Polder.hostAddr (q : Polder) (a len : Nat) (write : Bool) : Option Nat :=
  (q.hostAperture a len write).map (fun ap => ap.hbase + (a - ap.pbase))

/-- The region of an address, if it lies in one. -/
def Polder.region (q : Polder) (a : Nat) : Option Region :=
  if a < 0x8000000 then some .granary
  else if counterBase ≤ a ∧ a < counterBase + counterSize then some .counter
  else if winBase ≤ a ∧ a < winBase + 0x400000 then some .window
  else if hbmBase ≤ a ∧ a < q.hbmTop then some .hbm
  else if 0x800000000000 ≤ a ∧ a < 0x1000000000000 then some .host
  else none

/-- The region of a whole access, where it is populated (R20, R22, R23, R512). -/
def Polder.populated (q : Polder) (a len : Nat) (write : Bool) : Option Region :=
  match q.region a with
  | some .host => if (q.hostAddr a len write).isSome then some .host else none
  | some r => if q.region (a + len - 1) = some r then some r else none
  | none => none

def binOf (a : Nat) : Nat := a / 0x200000

/-- COMMONS (R325): whether a bin is a commons bin now. -/
def Polder.isCommons (q : Polder) (bin : Nat) : Bool := bitOf (q.stored64 Off.commons) bin

/-- Whether a bin is in the group of the berth's waybill (R195). -/
def Berth.owns (x : Berth) (bin : Nat) : Bool :=
  match x.run with
  | some r => decide (r.base ≤ bin) && decide (bin < r.base + r.mills)
  | none => false

/-! ## Fences (R76) -/

/-- Whether fence entry `n` is enabled. -/
def Polder.fenceOn (q : Polder) (n : Nat) : Bool := bitOf (q.stored (Off.fence n + 0x10)) 31

/-- Whether entry `n` covers some byte of the access. An entry with LAST below BASE covers no address (R584). -/
def Polder.fenceTouches (q : Polder) (n a len : Nat) : Bool :=
  decide (q.stored64 (Off.fence n) ≤ q.stored64 (Off.fence n + 8)) && decide (q.stored64 (Off.fence n) < a + len)
    && decide (a ≤ q.stored64 (Off.fence n + 8))

/-- Whether entry `n` covers the whole access and permits it to the master with bit `m`. -/
def Polder.fencePermits (q : Polder) (n m a len : Nat) (write : Bool) : Bool :=
  let c := q.stored (Off.fence n + 0x10)
  decide (q.stored64 (Off.fence n) ≤ a) && decide (a + len ≤ q.stored64 (Off.fence n + 8) + 1) && bitOf c m
    && bitOf c (if write then 17 else 16)

/-- Whether the fence entries refuse an access (R76). -/
def Polder.fenced (q : Polder) (m a len : Nat) (write : Bool) : Bool :=
  let on := (List.range 32).filter q.fenceOn
  on.any (fun n => q.fenceTouches n a len) && !on.any (fun n => q.fencePermits n m a len write)

/-- Whether a range meets the sluice-pool region (R22, R338). -/
def Polder.inSluicePool (q : Polder) (a len : Nat) : Bool := decide (q.poolBase < a + len) && decide (a < q.hbmTop)

/-- Whether a range meets the Counter's staging areas (R330). -/
def inStaging (a len : Nat) : Bool := decide (counterBase + 0x180000 < a + len) && decide (a < counterBase + 0x200000)

/-- Ranges no software master may write or read whatever the fences (R330, R339). `berth` and `poolRead` as the rules name them. -/
def Polder.reserved (q : Polder) (berth : Bool) (a len : Nat) (write : Bool) : Bool :=
  (inStaging a len && write) || (q.inSluicePool a len && (berth || write || !bitOf (q.stored Off.poolRead) 0))

/-! ## The checks of an access (R77) -/

/-- The master code of IMP_MASTER and of the access log. -/
def masterCode : Master → Nat
  | .berth i => i.toNat
  | .hart i => 4 + i.toNat
  | .host => 8
  | .watchhouse => 15

/-- The lowest cause of R77 that an access of a berth meets; `short` for a short load or store. -/
def Polder.berthCause (q : Polder) (b : Ix4) (short : Bool) (a len : Nat) (write : Bool) : Option Nat :=
  match q.populated a len write with
  | none => some 1
  | some r =>
    if short && decide (r ≠ .granary) && decide (r ≠ .counter) then some 2
    else if decide (r = .granary) && ((List.range (binOf (a + len - 1) + 1 - binOf a)).any (fun i =>
        let bin := binOf a + i
        if q.isCommons bin then write else !(q.berths.get b).owns bin)) then some 3
    else if q.fenced b.toNat a len write || q.reserved true a len write then some 4
    else none

/-- The lowest cause of R77 that an access of a hart or of the host meets; the Watchhouse is bound by the populated ranges alone (R531). -/
def Polder.causeOf (q : Polder) (m : Master) (a len : Nat) (write : Bool) : Option Nat :=
  match m with
  | .berth b => q.berthCause b false a len write
  | .watchhouse => if (q.populated a len write).isSome then none else some 1
  | _ =>
    if (q.populated a len write).isNone then some 1
    else if q.fenced (masterCode m) a len write || q.reserved false a len write then some 4
    else none

/-! ## The access log (R89) -/

/-- Log causes of R88. -/
inductive LogCause where
  | badwidth | badalign | idbusy | bootwrite | reserved
deriving DecidableEq, Repr

def LogCause.code : LogCause → Nat
  | .badwidth => 1 | .badalign => 2 | .idbusy => 3 | .bootwrite => 4 | .reserved => 5

def Dom.accLog (d : Dom) (m : Master) (c : LogCause) (addr : Nat) : Dom :=
  (d.on (fun q => { q with imp := { q.imp with logCause := c.code, logMaster := (masterCode m), logAddr := addr } })).bump
    Off.accLogCount 1

/-! ## Impound (R80 to R83) -/

def Polder.isImpounded (q : Polder) : Master → Bool
  | .berth b => (q.berths.get b).impounded
  | .hart h => (q.clerks.harts.get h).impounded
  | .host => q.imp.host
  | .watchhouse => false

def Polder.markImpounded (q : Polder) : Master → Polder
  | .berth b => q.onBerth b (fun x => { x with impounded := true })
  | .hart h =>
    let x := { q.clerks.harts.get h with impounded := true }
    { q with clerks := { q.clerks with harts := q.clerks.harts.set h x } }
  | .host => { q with imp := { q.imp with host := true } }
  | .watchhouse => q

/-- The records of R82: filled when VALID is 0, kept with OVERRUN set otherwise. -/
def Impound.record (i : Impound) (m : Master) (eng cause addr tide : Nat) (write : Bool) (data : BitVec 64) : Impound :=
  if i.valid then { i with overrun := true }
  else { i with
    valid := true, cause := cause, write := write, master := (masterCode m), engine := eng, addr := addr,
    data := if write then data else 0, tide := tide }

/-- The SRC of a master's Logbook record (R545): a berth, a hart, or the monitor for the host; an engine where one committed it. -/
def impSrc (m : Master) (eng : Nat) : Nat :=
  match eng with
  | 1 => 9
  | 2 => 10
  | _ => if (masterCode m) < 8 then (masterCode m) else 15

/-- A violation is counted and recorded; a master that was not impounded is, with its message and interrupt (R82, R83). -/
def Dom.violation (d : Dom) (m : Master) (eng cause addr : Nat) (write : Bool) (data : BitVec 64) : Dom :=
  let was := d.q.isImpounded m
  let d1 := (d.on (fun q => { q with imp := q.imp.record m eng cause addr q.wharf.tide write data })).bump Off.impCount 1
  if was then d1
  else
    (((d1.on (·.markImpounded m)).msix 1).source 1).log 7 (impSrc m eng)
      (natLe 2 (cause + 256 * bit write) ++ natLe 2 ((masterCode m) + 256 * eng) ++ natLe 8 addr)

/-! ## ECC (R323, R334, R348, R349) -/

/-- The size of the ECC unit of a region. -/
def eccUnit : Region → Nat
  | .hbm => 32
  | _ => 8

/-- The stack an HBM address lies in (R332, R333). -/
def Polder.stackOf (q : Polder) (a : Nat) : Ix2 :=
  if q.memctl.single then (if q.charter.stackMask = 2 then .o else .z)
  else if (bit (bitOf a 8) + bit (bitOf a 14) + bit (bitOf a 20) + bit (bitOf a 26)) % 2 = 1 then .o else .z

/-- The index of the counters and flags of a region: HBM 0, Granary 1, Counter 2. -/
def eccIndex : Region → Nat
  | .hbm => 0
  | .granary => 1
  | _ => 2

/-- A corrected error at an address (R348). -/
def Dom.ce (d : Dom) (r : Region) (a : Nat) : Dom :=
  let k := eccIndex r
  let d1 := d.on (fun q => { q with memctl := if k = 0 then { q.memctl with ceAddr := a } else { q.memctl with granCeAddr := a } })
  (d1.bump (Off.memCount (2 * k)) 1).stick Off.memSticky (2 ^ (2 * k))

/-- An uncorrectable error at an address: count, flag, address where VALID is 0, and vector 4 (R349). -/
def Dom.ue (d : Dom) (r : Region) (a : Nat) : Dom :=
  let k := eccIndex r
  let d1 := d.on (fun q =>
    if q.memctl.ueValid then q
    else { q with memctl := { q.memctl with ueValid := true, ueAddr := a, ueMem := k } })
  ((d1.bump (Off.memCount (2 * k + 1)) 1).stick Off.memSticky (2 ^ (2 * k + 1))).msix 4

/-- The ECC units with wrong bits that a range touches. -/
def Polder.badUnits (q : Polder) (r : Region) (a len : Nat) : List (Nat × Nat) :=
  q.memctl.errs.filter (fun e => decide (e.1 < a + len) && decide (a < e.1 + eccUnit r))

/-- The stacks that a range of HBM meets. Stacks alternate with bit 8 of the address (R332), so that three units of 256 bytes in a row meet
both. -/
def Polder.stacksOf (q : Polder) (a len : Nat) : List Ix2 :=
  [q.stackOf a, q.stackOf (min (a + 256) (a + len - 1)), q.stackOf (min (a + 512) (a + len - 1))]

/-- Whether a range of HBM meets a stack that is DOWN (R351). -/
def Polder.stackDown (q : Polder) (r : Region) (a len : Nat) : Bool :=
  decide (r = .hbm) && (q.stacksOf a len).any (fun st => q.memctl.down.at st)

/-- Whether an access to a range has to wait: its controllers run from SAFE and issue refresh alone (R133), or a stack that it meets is in
self-refresh (R350). -/
def Polder.hbmWaits (q : Polder) (r : Region) (a len : Nat) : Bool :=
  decide (r = .hbm) && (q.clocks.safe || (q.stacksOf a len).any (fun st => q.memctl.held.at st))

/-- A read of a range as ECC sees it: corrected errors are reported, and the answer says whether an uncorrectable one was met. -/
def Dom.eccRead (d : Dom) (r : Region) (a len : Nat) : Dom × Bool :=
  if d.q.hbmWaits r a len then ({ d with waits := true }, false)
  else if d.q.stackDown r a len then (d.ue r a, true)
  else
    (d.q.badUnits r a len).foldl (fun acc e =>
      if e.2 = 1 then (acc.1.ce r e.1, acc.2) else (acc.1.ue r e.1, true)) (d, false)

/-- Whether a write of a range leaves a part of an ECC unit as it is. -/
def partOf (r : Region) (a len : Nat) (e : Nat × Nat) : Bool := !(decide (a ≤ e.1) && decide (e.1 + eccUnit r ≤ a + len))

/-- The read that a write makes of the units it fills only in part (R349). The answer says whether nothing may be written. -/
def Dom.eccMerge (d : Dom) (r : Region) (a len : Nat) : Dom × Bool :=
  if d.q.hbmWaits r a len then ({ d with waits := true }, false)
  else if d.q.stackDown r a len then (d.ue r a, true)
  else
    ((d.q.badUnits r a len).filter (partOf r a len)).foldl (fun acc e =>
      if e.2 = 1 then (acc.1.ce r e.1, acc.2) else (acc.1.ue r e.1, true)) (d, false)

/-- The units that a write meets become good. -/
def Polder.mend (q : Polder) (r : Region) (a len : Nat) : Polder :=
  { q with memctl := { q.memctl with errs := q.memctl.errs.filter (fun e => !(q.badUnits r a len).contains e) } }

/-- A write of a range as ECC sees it: the units it meets become good, those it fills in part after they are read (R349). The answer says
whether nothing may be written. -/
def Dom.eccWrite (d : Dom) (r : Region) (a len : Nat) : Dom × Bool :=
  let x := d.eccMerge r a len
  if x.2 then x else (x.1.on (·.mend r a len), false)

/-- The size of what one write-back of a correction writes: a line of the Granary, a sector of HBM. -/
def backSize (u : Nat) : Nat := if u < hbmBase then 64 else 32

/-- A foreground write cancels the write-backs of corrections it meets, those of its own lines and sectors (R345). -/
def Polder.cancelBack (q : Polder) (a len : Nat) : Polder :=
  { q with memctl := { q.memctl with
    back := q.memctl.back.filter (fun u => !(decide (u < a + len) && decide (a < u + backSize u))) } }

/-! ## Streams in flight, and the writes that meet them (R267, R276, R279, R286) -/

def Flight.meets (f : Flight) (a n : Nat) : Bool := decide (f.addr < a + n) && decide (a < f.addr + f.len)

/-- The value in a plane's place where it cannot be relied on (R276). -/
def Polder.junkPlane (q : Polder) (key : Nat) : Polder :=
  let v (i : Nat) := Config.junk q.fuses.index.toNat q.fresh 100 i
  { q with
    fresh := q.fresh + 1
    planes := Store.insert q.planes key
      { elem := (Elem.ofCode ((v 0).toNat % 7)).getD .bf16
        rows := (List.range 64).map (fun k => (List.range 32).map (fun j => (v (1 + 32 * k + j)).setWidth 16)) } }

/-- Free planes in place of a group's (R276). -/
def Polder.junkPlanes (q : Polder) (base n : Nat) : Polder :=
  (List.range (2 * n)).foldl (fun q i => q.junkPlane (2 * base + i)) q

/-- What hangs on values that cannot be relied on: the flags and counters of R315. -/
def Polder.freeFlags (q : Polder) : Polder :=
  let f := q.free
  let g := f.2.free
  ((g.2.store Off.millSticky (g.2.stored Off.millSticky ||| f.1.toNat % 8)).bump Off.satCount (f.1.toNat / 8 % 2 ^ 48)).bump Off.nanCount
    (g.1.toNat % 2 ^ 48)

/-- Whether an access of a later instruction takes what an access of an earlier one brings: bytes still to land, or a weight plane. -/
def Flight.takesFrom (f g : Flight) : Bool :=
  decide (g.id < f.id) && !f.write &&
    ((g.write && !g.data.isEmpty && decide (g.at_ ≤ f.at_) && g.meets f.addr f.len) ||
      (match g.plane, f.plane with
        | .feeds k, .takes j => decide (k = j)
        | _, _ => false))

/-- The instructions `ids`, by issue cycle, with those whose values derive from theirs. -/
def Berth.derived (x : Berth) (ids : List Nat) : List Nat :=
  x.flights.foldr (fun f ids =>
    if !ids.contains f.id && x.flights.any (fun g => ids.contains g.id && f.takesFrom g) then f.id :: ids else ids) ids

/-- The values of instructions in flight are free: the bytes that they have still to land, the planes that they feed, what derives from
those, and the flags (R276, R286). `landed` frees the rows that have landed too. -/
def Polder.spoil (q : Polder) (b : Ix4) (ids : List Nat) (landed : Bool) : Polder :=
  let x := q.berths.get b
  let bad := x.flights.filter (fun f => (x.derived ids).contains f.id)
  let stamp := 4 * q.fresh + q.fuses.index.toNat
  let q1 := ({ q with fresh := q.fresh + 1 } : Polder).onBerth b (fun x => { x with
    flights := x.flights.map (fun f =>
      if bad.contains f ∧ !f.data.isEmpty then { f with data := (List.range f.len).map (fun i => Config.freeByte stamp (f.addr + i)) }
      else f) })
  let q2 := bad.foldl (fun q f => match f.plane with
    | .feeds k => q.junkPlane k
    | _ => q) q1
  let q3 := if landed then (bad.filter (fun f => f.write && f.data.isEmpty)).foldl (fun q f => q.unspecified f.addr f.len) q2 else q2
  if bad.any (fun f => f.write && !f.short) then q3.freeFlags else q3

/-- The streams that have still to read some byte of a range, in every berth but `own`, get unspecified values (R286). -/
def Polder.disturb (q : Polder) (own : Option Ix4) (a n : Nat) : Polder :=
  Ix4.all.foldl (fun q b =>
    let x := q.berths.get b
    let ids := (x.flights.filter (fun f => !f.write && decide (x.mc < f.at_) && f.meets a n)).map (·.id)
    if own = some b ∨ ids.isEmpty then q else q.spoil b ids false) q

/-- Operations of an engine that have a source range with a changed byte (R279). -/
def Polder.markStale (q : Polder) (hit : Nat × Nat → Bool) : Polder :=
  { q with
    copy := q.copy.map (fun o => if o.src.any hit then { o with stale := true } else o)
    lock := { q.lock with xfer := q.lock.xfer.map (fun o => if o.src.any hit then { o with stale := true } else o) }
    ledger := { q.ledger with ops := q.ledger.ops.map (fun o => if o.src.any hit then { o with stale := true } else o) } }

/-! ## The Wharf's pointers (R185, R186) -/

def Ring.init : Ring := ⟨0, false, true, 0, [], false⟩

def Wharf.ring (w : Wharf) (n : Nat) : Ring := Store.getD w.rings n Ring.init

def Polder.onRing (q : Polder) (n : Nat) (f : Ring → Ring) : Polder :=
  { q with wharf := { q.wharf with rings := Store.put q.wharf.rings n (f (q.wharf.ring n)) Ring.init } }

/-- Counter offset of pointer `k` of ring `n`: 0 MTAIL, 1 MHEAD, 2 CTAIL, 3 CHEAD (R185). -/
def Polder.ringPtr (q : Polder) (n k : Nat) : Nat := q.stored Off.ringPtrBase + 16 * n + 4 * k

/-- Rings whose MTAIL has a changed byte. -/
def Polder.noteTails (q : Polder) (changed : Nat → Bool) : Polder :=
  ((List.range 16).filter (fun n => (List.range 4).any (fun i => changed (counterBase + (q.ringPtr n 0 + i) % counterSize)))).foldl
    (fun q n => q.onRing n (fun r => { r with moved := true })) q

/-- Bytes put into Granary, Counter or HBM, nothing else checked; `own` is the berth that lands them, if one does. -/
def Polder.putBytes (q : Polder) (own : Option Ix4) (a : Nat) (bs : List Byte) : Polder :=
  let new := (bs.zipIdx).filter (fun x => decide (q.mem.read (a + x.2) ≠ x.1))
  let q1 := ((q.cancelBack a bs.length).disturb own a bs.length).markStale (fun r =>
    new.any (fun x => decide (r.1 ≤ a + x.2) && decide (a + x.2 < r.1 + r.2)))
  { q1.noteTails (fun x => new.any (fun y => decide (a + y.2 = x))) with mem := q1.mem.writeBytes a bs }

/-- The descriptors and the page tables of the Ledger: first and past-the-end addresses (R388). -/
def Polder.lgTables (q : Polder) : List (Nat × Nat) :=
  let r (o : Nat) := q.stored (Off.ledger + o)
  let base (o : Nat) := q.stored64 (Off.ledger + o)
  [(base 0x28, base 0x28 + 32 * r 0x24), (base 0x30, base 0x30 + 4 * (bitsOf (r 8) 6 0 * bitsOf (r 0x10) 23 8) * r 0x24)]

/-- What a write leaves of the Ledger's descriptors and page tables in RUN: unspecified bytes (R13, R388; log entry 126). -/
def Polder.blurTables (q : Polder) (a n : Nat) : Polder :=
  if q.boot ≠ .run ∨ a < hbmBase then q
  else q.lgTables.foldl (fun q t => if max a t.1 < min (a + n) t.2 then q.unspecified (max a t.1) (min (a + n) t.2 - max a t.1) else q) q

/-- Bytes put into memory by any master but the Ledger. -/
def Polder.putMem (q : Polder) (own : Option Ix4) (a : Nat) (bs : List Byte) : Polder :=
  (q.putBytes own a bs).blurTables a bs.length

/-- Bytes written by a master other than a berth. -/
def Polder.writeMem (q : Polder) (a : Nat) (bs : List Byte) : Polder := q.putMem none a bs

/-- A range whose contents become unspecified (R14), as a write of it. -/
def Polder.scramble (q : Polder) (a n : Nat) : Polder :=
  (((q.cancelBack a n).disturb none a n).markStale (fun r => decide (r.1 < a + n) && decide (a < r.1 + r.2))).unspecified a n

/-! ## Landing (R227, R267, R272) -/

/-- A write of a berth lands: nothing is written where a unit that it fills in part is uncorrectable (R349). -/
def Polder.landWrite (q : Polder) (b : Ix4) (a : Nat) (bs : List Byte) : Polder :=
  let r := (q.region a).getD .counter
  if (q.badUnits r a bs.length).any (fun e => partOf r a bs.length e && decide (e.2 ≠ 1)) then q
  else (q.mend r a bs.length).putMem (some b) a bs

/-- Writes that land up to cycle `t`, in the order of their cycles. -/
def Berth.due (x : Berth) (t : Nat) : List Flight :=
  (x.flights.filter (fun f => !f.data.isEmpty && decide (f.at_ ≤ t))).foldr (insertBy (fun f g => decide (f.at_ < g.at_))) []

/-- The berth's writes up to cycle `t` land. -/
def Polder.landUpTo (q : Polder) (b : Ix4) (t : Nat) : Polder :=
  let due := (q.berths.get b).due t
  if due.isEmpty then q
  else due.foldl (fun q f => q.landWrite b f.addr f.data) (q.onBerth b (fun x => { x with
    flights := x.flights.map (fun f => if f.at_ ≤ t then { f with data := [] } else f) }))

/-- The byte at an address as a read made in cycle `c` sees it (R267): what has landed by then, of writes in flight the one that lands last. -/
def seenByte (m : Mem) (fs : List Flight) (c a : Nat) : Byte :=
  match (fs.filter (fun f => decide (f.at_ ≤ c) && decide (f.addr ≤ a) && decide (a < f.addr + f.data.length))).foldl (fun last f =>
      match last with
      | none => some f
      | some g => if g.at_ < f.at_ then some f else last) none with
  | some f => f.data.getD (a - f.addr) 0
  | none => m.read a

/-- Everything that the berth has in flight lands: nothing it issues cuts it short any more (R81, R285). -/
def Polder.landAll (q : Polder) (b : Ix4) : Polder :=
  (q.landUpTo b (((q.berths.get b).flights.map (·.at_)).foldl max 0)).onBerth b (fun x => { x with flights := [] })

def Polder.readMem (q : Polder) (a n : Nat) : List Byte := q.mem.readBytes a n

/-- A 32-bit word of the Counter at an offset. -/
def Polder.ctr32 (q : Polder) (o : Nat) : Nat := q.mem.readNat (counterBase + o % counterSize) 4

/-- A 32-bit word of the Counter read by a block of the polder, errors counted (R348, R349); of an uncorrectable word the stored bits. -/
def Dom.readCtr32 (d : Dom) (o : Nat) : Dom × Nat := ((d.eccRead .counter (counterBase + o % counterSize) 4).1, d.q.ctr32 o)

/-- Bytes written in the Counter: a read-modify-write of each word that they do not fill, which writes nothing where the word is
uncorrectable (R323, R349). The answer says whether they were not written. -/
def Dom.writeCtr (d : Dom) (a : Nat) (bs : List Byte) : Dom × Bool :=
  let x := d.eccWrite .counter a bs.length
  if x.2 then (x.1, true) else (x.1.on (·.writeMem a bs), false)

/-- A 32-bit word of the Counter written by a block of the polder. -/
def Dom.writeCtr32 (d : Dom) (o v : Nat) : Dom := (d.writeCtr (counterBase + o % counterSize) (natLe 4 v)).1

end Sys2Proof.Machine
end

