-- ==== Sys2Proof/Machine/Rings.lean ====
section
/-!
DEFINITION. Machine/Rings.lean: device-to-host requests (R514 to R528), the Wharf's rings and completion records (R185 to R202,
R218), energy (R111, R198), and how a waybill's run ends (R204, R207, R244).
-/
namespace Sys2Proof.Machine

/-! ## Device-to-host requests -/

/-- Whether device-to-host requests succeed: link up and Bus Master Enable (R521, R527). -/
def Dom.hostUp (d : Dom) : Bool := d.q.host.linkUp && d.q.host.bme

/-- A failed request: CPL_FAIL, its count, and BME_BLOCKED where Bus Master Enable is the cause (R521, R528). -/
def Dom.hostFail (d : Dom) : Dom :=
  (d.bump Off.cplFailCount 1).stick Off.hostSticky (2 + 8 * bit (d.q.host.linkUp && !d.q.host.bme))

/-- The requests of a transfer of `n` bytes at host address `a`: none crosses a 4 KiB boundary or carries more than `most` bytes (R514).
`fuel` bounds them. -/
def requestsOf (write relaxed noSnoop : Bool) (most : Nat) : (fuel a n : Nat) → List HostRequest
  | 0, _, _ => []
  | f + 1, a, n =>
    if n = 0 then []
    else
      let k := min (min n most) (4096 - a % 4096)
      ⟨write, a, k, relaxed, noSnoop⟩ :: requestsOf write relaxed noSnoop most f (a + k) (n - k)

/-- A transfer through an aperture: No Snoop where the aperture has NS set, Relaxed Ordering where it has RO set and the master may ask
for it (R515). -/
def Dom.issueHost (d : Dom) (ap : Aperture) (write relax : Bool) (h n : Nat) : Dom :=
  d.on (fun q =>
    let most := 128 * 2 ^ (if write then q.host.payload else q.host.readSize).toNat
    { q with host := { q.host with
      reqs := requestsOf write (relax && bitOf ap.ctrl 4) (bitOf ap.ctrl 3) most (n / 64 + 2) h n } })

/-- A read of host memory at a polder address, none where it is unreachable or fails. -/
def Dom.hostRead (d : Dom) (a n : Nat) : Dom × Option (List Byte) :=
  match d.q.hostAperture a n false with
  | none => (d, none)
  | some ap =>
    let h := ap.hbase + (a - ap.pbase)
    if d.hostUp then ((d.issueHost ap false false h n).bump Off.hostRx n, some (d.host.readBytes h n)) else (d.hostFail, none)

/-- A write of host memory at a polder address; the answer says whether it was written. `relax` says that the master's writes may carry
Relaxed Ordering: the copy unit's and the Ledger's swap-outs (R515, R516). -/
def Dom.hostWrite (d : Dom) (relax : Bool) (a : Nat) (bs : List Byte) : Dom × Bool :=
  match d.q.hostAperture a bs.length true with
  | none => (d, false)
  | some ap =>
    let h := ap.hbase + (a - ap.pbase)
    if d.hostUp then
      ((({ d with host := d.host.writeBytes h bs } : Dom).issueHost ap true relax h bs.length).bump Off.hostTx bs.length, true)
    else (d.hostFail, false)

/-- HBM sectors an access touches, as the event counters count them (R549). -/
def Dom.sectors (d : Dom) (r : Region) (a n : Nat) (write : Bool) : Dom :=
  if r = .hbm ∧ n ≠ 0 then d.event (if write then 9 else 8) ((a + n - 1) / 32 + 1 - a / 32) none else d

/-- Maintenance accesses of the Granary, one for each line that an access touches, as the event counters count them (R320, R549). -/
def Dom.maintained (d : Dom) (a n : Nat) : Dom :=
  if d.q.region a = some .granary ∧ n ≠ 0 then d.event 7 ((a + n - 1) / 64 + 1 - a / 64) none else d

/-- A read of memory by a block of the polder, none where it is unpopulated, uncorrectable or unreachable (R217). -/
def Dom.fetch (d : Dom) (a n : Nat) : Dom × Option (List Byte) :=
  match d.q.populated a n false with
  | none => (d, none)
  | some .host => d.hostRead a n
  | some .window => (d, none)
  | some r =>
    let x := (d.sectors r a n false).eccRead r a n
    (x.1, if x.2 then none else some (x.1.q.readMem a n))

/-- A write of memory by a block of the polder; the answer says whether it was written. None writes the sluice-pool region (R339). `relax` as
in `Dom.hostWrite`. -/
def Dom.depositAs (d : Dom) (relax : Bool) (a : Nat) (bs : List Byte) : Dom × Bool :=
  match d.q.populated a bs.length true with
  | none => (d, false)
  | some .host => d.hostWrite relax a bs
  | some .window => (d, false)
  | some r =>
    if d.q.inSluicePool a bs.length then (d, false)
    else
    let x := (d.sectors r a bs.length true).eccWrite r a bs.length
    if x.2 then (x.1, false) else (x.1.on (·.writeMem a bs), true)

/-- `Dom.depositAs` for every other master. -/
def Dom.deposit (d : Dom) (a : Nat) (bs : List Byte) : Dom × Bool := d.depositAs false a bs

/-! ## Rings (R185, R186) -/

def Polder.ringCfg (q : Polder) (n : Nat) : Nat := q.stored (Off.ring n + 0x10)

def Polder.ringEn (q : Polder) (n : Nat) : Bool := bitOf (q.ringCfg n) 8

/-- The number of entries of ring `n`: 2^LOG2SIZE, and a free number where LOG2SIZE is reserved (R15, R210; log entry 120). -/
def Polder.ringSize (q : Polder) (n : Nat) : Nat :=
  let k := q.ringCfg n % 32
  if 2 ≤ k ∧ k ≤ 16 then 2 ^ k else max 1 (Config.ringEntries k)

/-- RING_BASE, 128-byte aligned. -/
def Polder.ringBase (q : Polder) (n : Nat) : Nat := q.stored64 (Off.ring n) % 2 ^ 48 / 128 * 128

/-- CRING_BASE, 32-byte aligned. -/
def Polder.cringBase (q : Polder) (n : Nat) : Nat := q.stored64 (Off.ring n + 8) % 2 ^ 48 / 32 * 32

/-- A pointer of ring `n` as the Counter holds it. -/
def Polder.ptr (q : Polder) (n k : Nat) : Nat := q.ctr32 (q.ringPtr n k) % q.ringSize n

/-- A pointer of ring `n` read by the Wharf, errors counted. -/
def Dom.readPtr (d : Dom) (n k : Nat) : Dom × Nat := ((d.readCtr32 (d.q.ringPtr n k)).1, d.q.ptr n k)

/-- Whether the completion ring has a slot that no waybill read before has reserved (R188). -/
def Polder.slotFree (q : Polder) (n : Nat) : Bool :=
  decide ((q.ringSize n + q.ptr n 2 - q.ptr n 3) % q.ringSize n + (q.wharf.ring n).reserved < q.ringSize n - 1)

def Dom.wharfStick (d : Dom) (m : Nat) : Dom := d.stick Off.wharfSticky m

/-- A record as it is written: END_TIDE is the tide then, and PHASE is added (R200, R202). -/
def stamped (rec : List Byte) (tide : Nat) (ph : Bool) : List Byte :=
  rec.take 0x14 ++ natLe 4 tide ++ (rec.drop 0x18).take 7 ++ [(rec.getD 31 0) ||| (if ph then 1 else 0)]

/-- One record written at CTAIL, CTAIL advanced and the completion announced (R202); none where it cannot be written. -/
def Dom.putRecord (d : Dom) (n : Nat) (rec : List Byte) : Option Dom :=
  let i := d.readPtr n 2
  let ph := (d.q.wharf.ring n).phase
  let x := i.1.deposit (d.q.cringBase n + 32 * i.2) (stamped rec d.q.wharf.tide ph)
  if x.2 then
    let j := (i.2 + 1) % d.q.ringSize n
    let d1 := (x.1.on (·.onRing n (fun r => { r with phase := if j = 0 then !ph else ph, reserved := r.reserved - 1 }))).writeCtr32
      (d.q.ringPtr n 2) j
    some (if bitOf (d.q.ringCfg n) 9 then (d1.msix (8 + n)).source (4 + n) else d1)
  else none

/-- Records of a ring written in order while they can be; the rest is held, and the ring is stalled while it is (R218). -/
def Dom.putRecords (d : Dom) (n : Nat) : List (List Byte) → Dom
  | [] => d.on (·.onRing n (fun r => { r with held := [] }))
  | rec :: rs =>
    match d.putRecord n rec with
    | some d' => d'.putRecords n rs
    | none => (d.on (·.onRing n (fun r => { r with held := rec :: rs }))).wharfStick 8

/-- A record of ring `n`, behind the ones it holds. -/
def Dom.record (d : Dom) (n : Nat) (rec : List Byte) : Dom :=
  match (d.q.wharf.ring n).held with
  | [] => d.putRecords n [rec]
  | h => d.on (·.onRing n (fun r => { r with held := h ++ [rec] }))

/-! ## Completion records (R200, R201) -/

/-- Codes of STATUS. -/
inductive Status where
  | ok | droppedLate | timeout | impounded | trapped | malformed | unfit | fetchfail | swapfail
deriving DecidableEq, Repr

def Status.code : Status → Nat
  | .ok => 0 | .droppedLate => 1 | .timeout => 2 | .impounded => 3 | .trapped => 4 | .malformed => 5 | .unfit => 6
  | .fetchfail => 7 | .swapfail => 8

/-- ENERGY_MEAS (R198). -/
def Run.energy (r : Run) : Nat := min (r.enNum / r.enDen) (2 ^ 32 - 1)

/-- A record's 32 bytes; END_TIDE and PHASE are added as it is written. `st` is the run of a waybill that has been given a berth. -/
def recordBytes (wb : Waybill) (s : Status) (detail used : Nat) (st : Option (Ix4 × Run)) : List Byte :=
  natLe 8 wb.id.toNat ++ natLe 1 s.code ++
  (match st with
    | some (b, r) =>
      natLe 1 (if r.started then b.toNat else 0) ++ natLe 1 (r.base + 64 * wb.size.toNat) ++ natLe 1 detail
        ++ natLe 4 r.energy ++ natLe 4 (if r.started then r.startTide else wb.readTide)
    | none => natLe 1 0 ++ natLe 1 (64 * wb.size.toNat) ++ natLe 1 detail ++ natLe 4 0 ++ natLe 4 wb.readTide)
  ++ natLe 4 0 ++ natLe 6 used ++ natLe 1 wb.ring ++ natLe 1 (2 * bit wb.aged + 4 * bit wb.backfilled)

/-- A waybill that holds no berth is completed. -/
def Dom.completeUnstarted (d : Dom) (wb : Waybill) (s : Status) (detail : Nat) : Dom :=
  (d.record wb.ring (recordBytes wb s detail 0 none)).log 6 8
    (natLe 8 wb.id.toNat ++ natLe 1 s.code ++ natLe 6 0)

/-! ## Energy history (R111, R112, R199) -/

/-- The kind's estimate and samples after a sample: seeded with the first, then an eighth of the difference is added. -/
def Wharf.sample (w : Wharf) (kind e : Nat) : Wharf :=
  match Store.find w.kinds kind with
  | none => { w with kinds := Store.insert w.kinds kind (e, 0, 1) }
  | some (n, k, c) => { w with kinds := Store.insert w.kinds kind (7 * n + e * 8 ^ k, k + 1, min (c + 1) 8) }

/-- EST as a fraction (R199). -/
def Wharf.est (w : Wharf) (wb : Waybill) : Nat × Nat :=
  match Store.find w.kinds wb.kind.toNat with
  | some (n, k, c) => if 8 ≤ c then (n, 8 ^ k) else (5 * wb.energy.toNat, 4)
  | none => (5 * wb.energy.toNat, 4)

/-! ## The end of a run -/

/-- The planes of a mill group zeroed (R314). -/
def Polder.zeroPlanes (q : Polder) (base n : Nat) : Polder :=
  { q with planes := q.planes.filter (fun x => !(decide (2 * base ≤ x.1) && decide (x.1 < 2 * (base + n)))) }

/-- The destinations of streams in flight have unspecified contents, rows that have landed too (R205, R284). -/
def Polder.blurFlights (q : Polder) (fs : List Flight) : Polder :=
  (fs.filter (·.write)).foldl (fun q f => q.scramble f.addr f.len) q

/-- The operations of a berth in the engines, and its frames, discarded (R204). -/
def Polder.discardOps (q : Polder) (b : Ix4) : Polder :=
  let dead := (q.lock.xfer.filter (fun o => decide (o.berth = b))).map (·.token) ++
    (q.gleaner.ops.filter (fun o => decide (o.berth = b))).map (·.token)
  { q with
    copy := q.copy.filter (fun o => decide (o.berth ≠ b))
    gleaner := { q.gleaner with ops := q.gleaner.ops.filter (fun o => decide (o.berth ≠ b)) }
    ledger := { q.ledger with ops := q.ledger.ops.filter (fun o => decide (o.berth ≠ b)) }
    lock := { q.lock with
      xfer := q.lock.xfer.filter (fun o => decide (o.berth ≠ b))
      tx := q.lock.tx.map (fun t => { t with frames := t.frames.filter (fun f => !dead.contains f.token) }) } }

/-- A range whose contents become unspecified, in the polder's memory or in the host's (R205, R279); registers are not touched here. -/
def Dom.blurRun (d : Dom) (a n : Nat) : Dom :=
  match d.q.region a with
  | some .host =>
    match d.q.hostAddr a n true with
    | some h =>
      { d with
        host := d.host.fill h n (some (4 * d.q.fresh + d.q.fuses.index.toNat))
        q := { d.q with fresh := d.q.fresh + 1 } }
    | none => d
  | some .window | none => d
  | some _ => d.on (·.scramble a n)

def Dom.blurRuns (d : Dom) (rs : List (Nat × Nat)) : Dom := rs.foldl (fun d r => d.blurRun r.1 r.2) d

/-- What the discarded operations of a berth in the Ledger leave unspecified (R410). -/
def Dom.spillOps (d : Dom) (b : Ix4) : Dom :=
  d.blurRuns ((d.q.ledger.ops.filter (fun o => decide (o.berth = b))).flatMap (·.spill))

/-- A berth with no waybill: stacks, tallies, shape table and interrupt state reset; signal and code kept. A halt ends with its waybill, an
armed one stays, and a request that had not yet taken effect arms the berth (R553). -/
def Berth.freed (x : Berth) : Berth :=
  { Berth.reset with
    pre := x.pre, preCtx := x.preCtx, armed := x.armed || x.haltReq, half := x.half, code0 := x.code0, code1 := x.code1, sigVal := x.sigVal,
    sigValid := x.sigValid }

/-- The berth freed and its mill group zeroed (R204, R244, R314). -/
def Polder.freeBerth (q : Polder) (b : Ix4) : Polder :=
  let x := q.berths.get b
  let q1 := q.onBerth b Berth.freed
  match x.run with
  | some r => q1.zeroPlanes r.base r.mills
  | none => q1

/-- The waybill on a berth gets its record; nothing else changes. -/
def Dom.runRecord (d : Dom) (b : Ix4) (s : Status) (detail : Nat) : Dom :=
  let x := d.berth b
  match x.run with
  | none => d
  | some r =>
    (d.record r.wb.ring (recordBytes r.wb s detail x.used (some (b, r)))).log 6 b.toNat
      (natLe 8 r.wb.id.toNat ++ natLe 1 s.code ++ natLe 6 x.used)

/-- The Counter address of the tally mirror (R237). -/
def Polder.mirrorAt (q : Polder) (b : Ix4) (t : BitVec 4) : Option Nat :=
  let v := q.stored (Off.berth b.toNat + 0x1C)
  if bitOf v 0 then some (counterBase + (v / 64 * 64 % 2 ^ 21 + 4 * t.toNat) % counterSize) else none

/-- A tally copied to its mirror (R237). -/
def Dom.mirror (d : Dom) (b : Ix4) (t : BitVec 4) : Dom :=
  match d.q.mirrorAt b t with
  | some a => (d.writeCtr a (natLe 4 ((d.berth b).tallies.getD t.toNat 0).toNat)).1
  | none => d

/-- Tallies that are no longer what they were, copied to the mirror. -/
def Dom.mirrorNew (d : Dom) (b : Ix4) (old : List Word) : Dom :=
  (List.range 16).foldl (fun d t =>
    if (d.berth b).tallies.getD t 0 = old.getD t 0 then d else d.mirror b (BitVec.ofNat 4 t)) d

/-- The berth freed, its tallies zeroed with their mirror (R204, R235, R237, R244). -/
def Dom.freeBerth (d : Dom) (b : Ix4) : Dom := (d.on (·.freeBerth b)).mirrorNew b (d.berth b).tallies

/-- The waybill on a berth is cancelled with a status (R204 rows b + 1 to b + 256, R207, R245). -/
def Dom.cancelRun (d : Dom) (b : Ix4) (s : Status) (detail : Nat) : Dom :=
  let x := d.berth b
  ((((d.runRecord b s detail).spillOps b).on (fun q =>
    ((x.longRest.foldl (fun q r => q.scramble r.1 r.2) q).blurFlights x.flights).discardOps b)).freeBerth b).onBerth b
    (fun x => { x with pre := none })

/-- A trap (R245). -/
def Dom.trap (d : Dom) (b : Ix4) (detail : Nat) : Dom := d.cancelRun b .trapped detail

/-- The mill cycle in which an instruction fails at issue is one that was delivered to the berth (R200, MC_USED); none counts for a halted
berth (R540). DEDUCED: log entry 30. -/
def Dom.issueCycle (d : Dom) (b : Ix4) : Dom :=
  d.onBerth b (fun x => if x.halted then x else { x with mc := x.mc + 1, used := x.used + 1 })

/-- A trap of the instruction at issue. -/
def Dom.trapNow (d : Dom) (b : Ix4) (detail : Nat) : Dom := (d.issueCycle b).trap b detail

/-- A berth's violation: recorded; a berth not yet held freezes, its waybill's record is written at once, and what it has in flight lands
(R81, R82, R285). -/
def Dom.berthViolation (d : Dom) (b : Ix4) (eng cause addr : Nat) (write : Bool) (data : BitVec 64) : Dom :=
  let was := (d.berth b).impounded
  let d1 := d.violation (.berth b) eng cause addr write data
  if was then d1
  else
    let d2 := if eng = 0 then d1.issueCycle b else d1
    ((d2.runRecord b .impounded cause).onBerth b (fun x => { x with pre := none })).on (·.landAll b)

/-- A violation by any master. -/
def Dom.impound (d : Dom) (m : Master) (cause addr : Nat) (write : Bool) (data : BitVec 64) : Dom :=
  match m with
  | .berth b => d.berthViolation b 0 cause addr write data
  | .watchhouse => d
  | _ => d.violation m 0 cause addr write data

end Sys2Proof.Machine
end

