-- ==== Sys2Proof/Machine/Select.lean ====
section
/-!
DEFINITION. Machine/Select.lean: the Wharf's selection order, admission test and request (R190 to R195).
-/
namespace Sys2Proof.Machine

/-- PCLASS current of a class, in grant units. -/
def Polder.pclassCurrent (q : Polder) (c : Nat) : Nat := q.stored (Off.pclass c) % 2048

def Polder.wbCurrent (q : Polder) (wb : Waybill) : Nat := q.pclassCurrent wb.pclass.toNat

/-- The waybill that runs on a berth; an impounded berth's has its record and runs no more. -/
def Berth.running (x : Berth) : Option Run := if x.impounded then none else x.run

/-- PCLASS current of the running waybills (RUN_CURRENT). -/
def Polder.runCurrent (q : Polder) : Nat :=
  (q.berths.toList.map (fun x => match x.running with
    | some r => q.wbCurrent r.wb
    | none => 0)).sum

/-- Deadline tide (R184). -/
def Waybill.deadline (wb : Waybill) : Option Nat := if wb.noDeadline then none else some (wb.readTide + wb.rel.toNat)

/-- Effective priority (R190). -/
def Waybill.effPrio (wb : Waybill) : Nat := if wb.aged then 0 else wb.prio.toNat

/-- Whether deadline tide `a` is earlier than `b`; no deadline comes after every number. -/
def deadlineLt : Option Nat → Option Nat → Bool
  | some a, some b => decide (a < b)
  | some _, none => true
  | none, _ => false

/-- Whether `a` comes before `b` in the order of R190. -/
def Polder.ahead (q : Polder) (a b : Waybill) : Bool :=
  if a.effPrio ≠ b.effPrio then decide (a.effPrio < b.effPrio)
  else if a.deadline ≠ b.deadline then deadlineLt a.deadline b.deadline
  else if q.wbCurrent a ≠ q.wbCurrent b then decide (q.wbCurrent b < q.wbCurrent a)
  else decide (a.order < b.order)

def Polder.insertWb (q : Polder) (x : Waybill) : List Waybill → List Waybill
  | [] => [x]
  | y :: ys => if q.ahead x y then x :: y :: ys else y :: q.insertWb x ys

/-- The pool in the order of R190. -/
def Polder.ordered (q : Polder) : List Waybill := q.wharf.pool.foldr q.insertWb []

/-- Mills of a size code (R182). -/
def millsOf (size : BitVec 2) : Nat := 8 * 2 ^ size.toNat

/-- Whether no berth holds a mill of the group. -/
def Polder.groupFree (q : Polder) (base n : Nat) : Bool :=
  q.berths.toList.all (fun x => match x.run with
    | some r => decide (r.base + r.mills ≤ base) || decide (base + n ≤ r.base)
    | none => true)

/-- The free aligned group of `n` mills with the highest base (R195). -/
def Polder.freeGroup (q : Polder) (n : Nat) : Option Nat :=
  ((List.range (64 / n)).reverse.map (· * n)).find? (fun b => q.groupFree b n)

/-- A berth that can take a waybill (R191). -/
def Berth.isFree (x : Berth) : Bool := x.run.isNone && !x.impounded

/-- The berth an admitted waybill takes: the free one that holds its preload, or else the lowest-numbered free one (R195). -/
def Polder.berthFor (q : Polder) (wb : Waybill) : Option Ix4 :=
  let free := Ix4.all.filter (fun b => (q.berths.get b).isFree)
  match free.find? (fun b => match (q.berths.get b).pre with
      | some w => decide (w.order = wb.order)
      | none => false) with
  | some b => some b
  | none => free.head?

/-- The conditions of R191 other than current. -/
def Polder.roomFor (q : Polder) (wb : Waybill) : Bool :=
  decide (q.boot = .run) && (q.berthFor wb).isSome && (q.freeGroup (millsOf wb.size)).isSome

/-- Whether the current fits the grant (R191). -/
def Polder.currentFits (q : Polder) (wb : Waybill) : Bool := decide (q.runCurrent + q.wbCurrent wb ≤ q.wharf.grant)

def Polder.admissible (q : Polder) (wb : Waybill) : Bool := q.roomFor wb && q.currentFits wb

/-- EST(a) < EST(b). -/
def Wharf.estLt (w : Wharf) (a b : Waybill) : Bool := decide ((w.est a).1 * (w.est b).2 < (w.est b).1 * (w.est a).2)

/-- The candidate R192 admits, and whether it is a backfill; `ahead` are the candidates before those still to try. -/
def Polder.pickFrom (q : Polder) (ahead : List Waybill) : List Waybill → Option (Waybill × Bool)
  | [] => none
  | c :: cs =>
    if q.admissible c && ahead.all (fun a => q.wharf.estLt c a) then some (c, !ahead.isEmpty)
    else if q.admissible c || c.hold || c.aged then none
    else q.pickFrom (ahead ++ [c]) cs

def Polder.pick (q : Polder) : Option (Waybill × Bool) := q.pickFrom [] q.ordered

/-- REQ (R194). -/
def Polder.req (q : Polder) : Nat :=
  match q.ordered.find? (fun c => q.roomFor c && !q.currentFits c) with
  | some c => q.runCurrent + q.wbCurrent c
  | none => q.runCurrent

end Sys2Proof.Machine
end

