-- ==== Sys2Proof/Machine/Views.lean ====
section
/-!
DEFINITION. Machine/Views.lean: what each register reads as. A register of written values reads what is stored; the registers below
report other state.
-/
namespace Sys2Proof.Machine

def Sku.code : Sku → Nat
  | .jt4x192 => 1 | .jt4x128 => 2 | .jt4x144 => 3

def ResetCause.code : ResetCause → Nat
  | .poweron => 1 | .perst => 2 | .flr => 4 | .railfault => 8 | .thermtrip => 16

def Elem.code : Elem → Nat
  | .bf16 => 0 | .fp16 => 1 | .e4m3 => 2 | .e5m2 => 3 | .int8 => 4 | .fp32 => 5 | .int32 => 6

/-- Good mill sites (R308). -/
def Fuses.goodSites (f : Fuses) : List Nat := (List.range 66).filter (fun i => f.sites.getLsbD i)

/-- Sites that are no logical mill, ascending (R308). -/
def Fuses.offSites (f : Fuses) : List Nat :=
  let on := f.goodSites.take 64
  (List.range 66).filter (fun i => !on.contains i)

/-- The word of a 64-bit value that an offset selects. -/
def wordOf (v o : Nat) : Nat := if o % 8 = 0 then v % 2 ^ 32 else v / 2 ^ 32 % 2 ^ 32

def Polder.viewIdent (q : Polder) (o : Nat) : Option Nat :=
  let absent := decide (q.boot = .absent)
  let joinedUp := decide (q.boot = .basinjoin) || decide (q.boot = .opened) || decide (q.boot = .run)
  if o = 0 then some (0x4A540000 + 256 * q.fuses.stepping.toNat + q.fuses.sku.code)
  else if o = 4 then some q.fuses.index.toNat
  else if o = 8 then some (q.boot.code + 16 * bit q.dozing.isSome)
  else if o = 0x10 then some (if absent then 0 else min 64 q.fuses.goodSites.length)
  else if o = 0x18 ∨ o = 0x1C then some (wordOf q.fuses.serial.toNat o)
  else if o = 0x20 then some q.cause.code
  else if o = 0x24 then
    some (bit (decide (q.sluices.fst.state = .joined)) + 2 * bit (decide (q.sluices.snd.state = .joined))
      + 4 * bit q.joinSlow + 8 * bit q.alone)
  else if o = 0x28 then some (if joinedUp then q.sluices.fst.seed.toNat else 0)
  else if o = 0x2C then some (if joinedUp then q.sluices.snd.seed.toNat else 0)
  else if o = 0x30 then some q.bootCount
  else if o = 0x38 ∨ o = 0x3C then some (wordOf q.runTime o)
  else if o = 0x40 then
    let h := q.host
    some (h.rate.toNat + 16 * h.width.toNat + 512 * bit h.linkUp + 1024 * bit h.flit + 2048 * bit h.bme + 4096 * bit h.mse
      + 8192 * bit (h.linkUp && decide (h.rate.toNat ≤ 2)))
  else none

def Polder.viewCharter (q : Polder) (o : Nat) : Option Nat :=
  let c := q.charter
  if o = 0 then some (bit c.lock)
  else if o = 4 then some (c.causeA.toNat + 256 * c.causeB.toNat + 65536 * bit c.slotB)
  else if o = 8 then some c.failOfs
  else if o = 0xC then some (c.lanes + 16 * bit c.sck50 + 32 * bit c.addr4 + 64 * bit c.dpd)
  else if o = 0x10 then some c.imageLen
  else if o = 0x14 then some c.applied
  else if o = 0x18 then some c.warn
  else if o = 0x20 ∨ o = 0x24 then some (wordOf c.build.toNat o)
  else if o = 0x28 then some c.rollbackFuse
  else if o = 0x2C then some c.imageRollback
  else if 0x40 ≤ o ∧ o ≤ 0x6C then some (q.fuses.keyHash.toNat / 2 ^ (8 * (o - 0x40)) % 2 ^ 32)
  else if 0x80 ≤ o ∧ o ≤ 0xDC then some 0
  else none

def Polder.viewClocks (q : Polder) (o : Nat) : Option Nat :=
  let c := q.clocks
  if o = 0 then
    some (bit c.locked + 2 * bit c.safe + 4 * bit c.coasting + 8 * bit c.testActive + 16 * c.divCur.toNat)
  else none

/-- Whether no waybill is pooled or running (WHARF_STATUS.IDLE). -/
def Polder.wharfIdle (q : Polder) : Bool := q.wharf.pool.isEmpty && q.berths.toList.all (fun x => x.running.isNone)

/-- RING_STATUS.IDLE. -/
def Polder.ringIdle (q : Polder) (n : Nat) : Bool :=
  !q.ringEn n && q.wharf.pool.all (fun w => decide (w.ring ≠ n)) &&
    q.berths.toList.all (fun x => match x.running with
      | some r => decide (r.wb.ring ≠ n)
      | none => true)

def Polder.viewWharf (q : Polder) (o : Nat) : Option Nat :=
  let w := q.wharf
  if o = 0 then
    some (bit q.wharfIdle + 16 * bit q.berths.a0.run.isSome + 32 * bit q.berths.a1.run.isSome
      + 64 * bit q.berths.a2.run.isSome + 128 * bit q.berths.a3.run.isSome + 256 * w.pool.length + 65536 * bit w.admitting)
  else if o = 0x18 ∨ o = 0x1C then some (wordOf w.tide o)
  else if o = 0x20 then some (q.req % 2048 + 65536 * (w.grant % 2048))
  else if o = 0x24 then some (q.runCurrent % 2048)
  else if 0x100 ≤ o ∧ o < 0x300 ∧ o % 0x20 = 0x14 then
    let n := (o - 0x100) / 0x20
    some (bit (q.ringIdle n) + 2 * bit ((w.ring n).stalled || !(w.ring n).held.isEmpty))
  else if 0x400 ≤ o ∧ o < 0x500 then
    match Store.find w.kinds ((o - 0x400) / 4) with
    | some (n, k, c) => some (n / 8 ^ k % 2 ^ 24 + 2 ^ 24 * c)
    | none => some 0
  else none

/-- A shape entry of a berth (R233). -/
def Berth.shape (x : Berth) (i : Nat) : BitVec 256 := Store.getD x.shapes i 0

def Berth.view (x : Berth) (o : Nat) : Option Nat :=
  if o = 0 then some x.status
  else if o = 4 then some (x.pc % 2 ^ 17 + 2 ^ 17 * bit x.half)
  else if o = 8 then some (x.stack.length % 4096 + 65536 * (x.rstack.length % 1024))
  else if o = 0xC then some (x.pend.toNat + 16 * x.mask.toNat + 256 * bit x.ie + 4096 * (x.ivbase / 16 % 2 ^ 13))
  else if o = 0x14 then some (x.sigVal.toNat + 256 * bit x.sigValid)
  else if o = 0x20 ∨ o = 0x24 then
    match x.run with
    | some r => some (wordOf r.wb.id.toNat o)
    | none => some 0
  else if 0x40 ≤ o ∧ o < 0x80 then some (x.tallies.getD ((o - 0x40) / 4) 0).toNat
  else if 0x400 ≤ o ∧ o < 0x800 then
    some ((x.shape ((o - 0x400) / 32)).toNat / 2 ^ (8 * (o % 32)) % 2 ^ 32)
  else none

def Polder.viewMills (q : Polder) (o : Nat) : Option Nat :=
  if q.boot = .absent then (if o = 0 ∨ 0x100 ≤ o then some 0 else none)
  else if o = 0 then
    some (q.fuses.offSites.getD 0 0 + 256 * q.fuses.offSites.getD 1 0)
  else if 0x100 ≤ o ∧ o < 0x200 then
    let i := (o - 0x100) / 4
    match q.fuses.goodSites.take 64 |>.drop i |>.head? with
    | some s =>
      let f := (q.fuses.repair.getD i 0).toNat
      some (f + 2 ^ 24 * s + 2 ^ 31 * bit (decide (f ≠ 0x860860)))
    | none => some 0
  else none

/-- The rate of the parts' HBM, in 0.1 Gb/s (R2, R331). -/
def Fuses.hbmMaxRate (f : Fuses) : Nat :=
  match f.sku with
  | .jt4x128 => 64
  | _ => 96

/-- RATE in force, in 0.1 Gb/s; 0 before training (HBM_CFG). The rate of the SKU bounds it, and is meant by a RATE of 0 (R49). -/
def Polder.hbmRate (q : Polder) : Nat :=
  let trained := q.memctl.up.fst || q.memctl.up.snd ||
    (match q.boot with
      | .basinjoin | .opened | .run => true
      | _ => false)
  if !trained then 0
  else if q.charter.rate = 0 then q.fuses.hbmMaxRate
  else min q.charter.rate q.fuses.hbmMaxRate

def Polder.viewHbm (q : Polder) (o : Nat) : Option Nat :=
  let m := q.memctl
  if o = 0 then
    some (bit m.up.fst + 2 * bit m.up.snd + 4 * bit m.single + 256 * (m.temp.fst % 256) + 65536 * (m.temp.snd % 256))
  else if o = 0x10 then some (q.stored Off.hbmCfg + 256 * q.hbmRate)
  else if o = 0x80 ∨ o = 0x84 then some (wordOf m.ceAddr o)
  else if o = 0x88 ∨ o = 0x8C then some (wordOf (m.ueAddr + 2 ^ 60 * m.ueMem + 2 ^ 63 * bit m.ueValid) o)
  else if o = 0x90 ∨ o = 0x94 then some (wordOf m.granCeAddr o)
  else none

/-- Whether pending slots are being copied back (R373). -/
def Gleaner.committing (g : Gleaner) : Bool := g.slots.any (·.committing)

def Polder.viewGleaner (q : Polder) (o : Nat) : Option Nat :=
  let g := q.gleaner
  if o = 0 then some (bit (g.ops.isEmpty && !g.committing) + 2 * bit g.cold + 4 * bit g.committing)
  else if o = 0xC then some g.cache.length
  else if o = 0x10 then some g.slots.length
  else none

/-- FREE_PAGES (R386). -/
def Polder.freePages (q : Polder) : Nat :=
  if q.ledger.built then q.stored (Off.ledger + 0x20) - q.ledger.used.length else 0

def LgOp.isWaiter (x : LgOp) : Bool :=
  match x.wait with
  | .pages _ => true
  | _ => false

def Polder.viewLedger (q : Polder) (o : Nat) : Option Nat :=
  let g := q.ledger
  if o = 0 then
    some (bit (g.ops.isEmpty && g.swaps.isEmpty) + 2 * bit (g.ops.any (·.isWaiter)) + 4 * bit (!g.swaps.isEmpty))
  else if o = 0x48 then some q.freePages
  else if o = 0x4C then some g.trap.toNat
  else none

def SlState.code : SlState → Nat
  | .dark => 0 | .listen => 1 | .unranged => 2 | .joined => 3 | .candidate => 4 | .silent => 5

/-- Cells a sluice holds in the current superframe. -/
def Sluice.cellCount (x : Sluice) : Nat :=
  match x.mapNow with
  | some m => if x.state = .joined then m.cells.countP (fun c => decide (c = x.index)) else 0
  | none => 0

/-- A number as two's complement. -/
def twos (w : Nat) (v : Int) : Nat := (v % (2 ^ w : Int)).toNat

/-- Bytes of a frame with its header and tag (R424). -/
def frameSize (f : Frame) : Nat := 40 + f.payload.length

/-- Bytes in the transmit retain pool of a sluice (R476). -/
def Polder.retained (q : Polder) (sd : Side) : Nat :=
  ((q.lock.tx.flatMap (·.frames)).map (fun t => if t.via = .cell sd then frameSize t.frame else 0)).sum

def Polder.viewSluice (q : Polder) (sd : Side) (o : Nat) : Option Nat :=
  let x := q.sluices.get sd
  if o = 0 then
    some (x.state.code + 8 * bit x.master + 16 * bit x.mapNow.isSome + 32 * bit x.source + 256 * (x.index % 64)
      + 65536 * min x.coll 15)
  else if o = 0x14 then some (x.masterAddr.toNat + 65536 * x.root.toNat)
  else if o = 0x18 then some (x.hops % 256 + 65536 * (x.rtt.getD 0 % 65536))
  else if o = 0x20 ∨ o = 0x24 then some (wordOf q.basin.now o)
  else if o = 0x28 then some (twos 32 x.delta)
  else if o = 0x2C then some x.cellCount
  else if o = 0x30 then some x.trespass.toNat
  else if o = 0x34 then some x.stranger.toNat
  else if o = 0x104 then some (ceilDiv (x.inbox.map (fun h => frameSize h.frame)).sum 1024 + 65536 * ceilDiv (q.retained sd) 1024)
  else none

def Polder.viewLock (q : Polder) (o : Nat) : Option Nat :=
  let l := q.lock
  if o = 0 then some (bit (l.relayQ.fst.isEmpty && l.relayQ.snd.isEmpty) + 2 * bit l.harbStalled)
  else if o = 8 then some l.roster.length
  else if o = 0x10 ∨ o = 0x14 then some (wordOf l.groupOk.toNat o)
  else if 0x4000 ≤ o ∧ o < 0x8000 then some (l.roster.getD ((o - 0x4000) / 4) 0).toNat
  else none

/-- IMP_STATUS. -/
def Polder.impStatus (q : Polder) : Nat :=
  let b (i : Ix4) := bit (q.berths.get i).impounded
  let h (i : Ix4) := bit (q.clerks.harts.get i).impounded
  b .i0 + 2 * b .i1 + 4 * b .i2 + 8 * b .i3 + 16 * h .i0 + 32 * h .i1 + 64 * h .i2 + 128 * h .i3 + 256 * bit q.imp.host

def Polder.viewImpound (q : Polder) (o : Nat) : Option Nat :=
  let i := q.imp
  if o = 0 then some q.impStatus
  else if o = 4 then some (bit i.valid + 2 * bit i.overrun)
  else if o = 8 then some (i.cause + 256 * bit i.write)
  else if o = 0xC then some (i.master + 256 * i.engine)
  else if o = 0x10 ∨ o = 0x14 then some (wordOf i.addr o)
  else if o = 0x18 ∨ o = 0x1C then some (wordOf i.data.toNat o)
  else if o = 0x20 ∨ o = 0x24 then some (wordOf i.tide o)
  else if o = 0x30 then some (i.logCause + 256 * i.logMaster)
  else if o = 0x38 ∨ o = 0x3C then some (wordOf i.logAddr o)
  else none

def Polder.viewClerks (q : Polder) (o : Nat) : Option Nat :=
  let f (g : Hart → Bool) : Nat :=
    bit (g q.clerks.harts.a0) + 2 * bit (g q.clerks.harts.a1) + 4 * bit (g q.clerks.harts.a2) + 8 * bit (g q.clerks.harts.a3)
  if o = 0 then some (f (·.started) + 16 * f (·.wfi) + 256 * f (·.halted) + 4096 * f (·.impounded))
  else if o = 4 then some 0
  else if o = 0x60 ∨ o = 0x64 then some (wordOf q.clerks.mtime o)
  else none

/-- Level sources of R499 whose condition holds. -/
def Polder.levels (q : Polder) : BitVec 35 :=
  let on (o m n : Nat) : Nat := if q.stored o &&& m = 0 then 0 else 2 ^ n
  BitVec.ofNat 35 (on Off.memSticky 0x32A 24 + on Off.wharfSticky 0xF 25 + on Off.glSticky 0x3F 26 + on Off.lgSticky 0xF 27
    + on (Off.sluice .r + 4) 0x3FF 28 + on (Off.sluice .c + 4) 0x3FF 29 + on Off.lockSticky 0x1F 30
    + on Off.clkSticky 0xFF 31)

/-- Pending sources of the PLIC: edges recorded and levels that hold, but for claimed ones. -/
def Polder.plicPending (q : Polder) : BitVec 35 :=
  q.clerks.plic.edge ||| (q.levels &&& ~~~q.clerks.plic.claimed)

def Polder.viewPlic (q : Polder) (o : Nat) : Option Nat :=
  let c := q.clerks.plic
  if o < 0x1000 then some (Store.getD c.prio (o / 4) 0).toNat
  else if o < 0x2000 then some (q.plicPending.toNat / 2 ^ (8 * (o - 0x1000)) % 2 ^ 32)
  else if o < 0x4000 then some (Store.getD c.enable (o - 0x2000) 0).toNat
  else if o % 0x1000 = 0 then some (Store.getD c.threshold ((o - 0x4000) / 0x1000) 0).toNat
  else none

def Mailbox.code (m : Mailbox) : Nat :=
  bit m.busy + 2 * bit m.done + 4 * bit m.reject + 16 * m.level + 65536 * m.lastSeq.toNat

def Polder.viewWatch (q : Polder) (o : Nat) : Option Nat :=
  let w := q.watch
  let bh (i : Ix4) := bit (q.berths.get i).halted
  let hh (i : Ix4) := bit (q.clerks.harts.get i).halted
  if o = 0 then
    some (w.box.fst.level + 4 * w.box.snd.level + 16 * bh .i0 + 32 * bh .i1 + 64 * bh .i2 + 128 * bh .i3
      + 256 * hh .i0 + 512 * hh .i1 + 1024 * hh .i2 + 2048 * hh .i3 + 4096 * bit q.wharf.frozen + 8192 * bit w.lbEn
      + 16384 * bit (w.box.fst.busy || w.box.snd.busy))
  else if o = 8 then some w.wr
  else if o = 0xC then some w.rd
  else if o = 0x10 ∨ o = 0x14 then some 0
  else if o = 0x1C then some (bit w.lbEn + 2 * bit w.stopMode)
  else if 0x400 ≤ o ∧ o < 0x500 then some (Store.getD w.evsel ((o - 0x400) / 4) 0).toNat
  else if o = 0x500 then some w.classMask.toNat
  else none

/-- What a register reports of other state. -/
def Polder.view (q : Polder) (o : Nat) : Option Nat :=
  match o / 0x10000 with
  | 0x00 => q.viewIdent (o % 0x10000)
  | 0x01 => q.viewCharter (o % 0x10000)
  | 0x02 => q.viewClocks (o % 0x10000)
  | 0x03 => q.viewWharf (o % 0x10000)
  | 0x04 => (q.berths.get (Ix4.of (o / 0x4000))).view (o % 0x4000)
  | 0x08 => q.viewMills (o % 0x10000)
  | 0x0A => q.viewLedger (o % 0x10000)
  | 0x0B => q.viewGleaner (o % 0x10000)
  | 0x0C => q.viewSluice .r (o % 0x10000)
  | 0x0D => q.viewSluice .c (o % 0x10000)
  | 0x0E => q.viewLock (o % 0x10000)
  | 0x10 => q.viewHbm (o % 0x10000)
  | 0x12 => q.viewImpound (o % 0x10000)
  | 0x14 => q.viewClerks (o % 0x10000)
  | 0x15 => q.viewPlic (o % 0x10000)
  | 0x20 => q.viewWatch (o % 0x10000)
  | _ => none

/-- What a named register reads as; write-only bits read 0 (R10). -/
def Polder.regRead (q : Polder) (o : Nat) : Nat :=
  match q.view o with
  | some v => v
  | none => q.stored o

/-! ## Reads that set nothing off -/

/-- The MSI-X table and PBA (R518). -/
def isMsix (o : Nat) : Bool := decide (0x800 ≤ o) && decide (o < 0xC08)

/-- A double word of the MSI-X table or PBA as the host reads it. -/
def HostFn.msixRead (h : HostFn) (o : Nat) : Nat :=
  if o < 0xC00 then (h.tableWord ((o - 0x800) / 4)).toNat else wordOf h.pba.toNat o

/-- What a word reads as for a master, nothing set off. -/
def Polder.peek (q : Polder) (m : Master) (o : Nat) : Nat :=
  if isMsix o then (if m = .host then q.host.msixRead o else 0)
  else if (regSpec o).isSome then q.regRead o else 0

/-- The berth whose BERTH_SIGNAL lies at an offset. -/
def signalAt (o : Nat) : Option Ix4 :=
  if 0x40000 ≤ o ∧ o < 0x50000 ∧ o % 0x4000 = 0x14 then some (Ix4.of (o / 0x4000)) else none

/-- The context whose claim register lies at an offset. -/
def claimAt (o : Nat) : Option Nat :=
  if 0x154000 ≤ o ∧ o < 0x15C000 ∧ o % 0x1000 = 4 then some ((o - 0x154000) / 0x1000) else none

/-- Whether a register read has a side effect. -/
def readsClear (o : Nat) : Bool := (signalAt o).isSome || (claimAt o).isSome

end Sys2Proof.Machine
end

