-- ==== Sys2Proof/Machine/Berths.lean ====
section
/-!
DEFINITION. Machine/Berths.lean: the parts that every berth instruction uses: time in mill cycles, stacks with pending cells (R226),
tallies (R235, R236, R241), interrupts (R242), ends (R244).
-/
namespace Sys2Proof.Machine

/-- WATCH_LIMIT in mill cycles (R207). -/
def Polder.watchLimit (q : Polder) : Nat := 2 ^ (q.stored Off.watchLog2 % 64)

/-- Pending sources that the mask enables, while IE is 1 (R242). -/
def Berth.takeable (x : Berth) : Option Nat :=
  if x.ie then (List.range 4).find? (fun i => x.pend.getLsbD i && x.mask.getLsbD i) else none

/-- Whether the polder's mill domain runs: RUN, and not gated by doze (R312, R548). -/
def Polder.millsRun (q : Polder) : Bool := decide (q.boot = .run) && q.dozing.isNone && !q.clocks.stopped

/-- Whether the berth issues the next instruction of its waybill now (R225, R242, R539). -/
def Polder.issues (q : Polder) (b : Ix4) : Bool :=
  let x := q.berths.get b
  q.millsRun && x.run.isSome && !x.impounded && !x.halted && x.takeable.isNone && decide (x.used < q.watchLimit) &&
    (match x.phase with
      | .running => true
      | _ => false)

/-- `n` mill cycles delivered to the berth; fed cycles count in neither MC_USED nor WATCH_LIMIT (R540). The accesses of an instruction are
kept until all of them are made. -/
def Berth.tick (x : Berth) (n : Nat) (fed : Bool) : Berth :=
  let mc := x.mc + n
  { x with
    mc := mc
    used := if fed then x.used else x.used + n
    flights := x.flights.filter (fun f => x.flights.any (fun g => decide (g.id = f.id) && decide (mc < g.at_))) }

/-- An entry as the shape table holds it: its reserved byte reads 0 (R8, R233). -/
def shapeEntry (e : BitVec 256) : BitVec 256 := e &&& ~~~(0xFF#256 <<< 56)

/-- An entry of the shape table set. -/
def Berth.setShape (x : Berth) (i : Nat) (e : BitVec 256) : Berth := { x with shapes := Store.put x.shapes i (shapeEntry e) 0 }

/-- Shape entries whose SHLD has taken effect (R234). -/
def Berth.settleShapes (x : Berth) : Berth :=
  { x with
    shapes := (x.shapePend.filter (fun s => decide (s.2.2 ≤ x.mc))).foldl (fun m s => Store.put m s.1 (shapeEntry s.2.1) 0) x.shapes
    shapePend := x.shapePend.filter (fun s => decide (x.mc < s.2.2)) }

/-- Mill cycles delivered to a berth: its writes land in their cycles (R227, R267), and entries that SHLD loads take effect. -/
def Polder.tick (q : Polder) (b : Ix4) (n : Nat) (fed : Bool) : Polder :=
  (q.landUpTo b ((q.berths.get b).mc + n)).onBerth b (fun x => (x.tick n fed).settleShapes)

def Dom.tick (d : Dom) (b : Ix4) (n : Nat) (fed : Bool) : Dom := d.on (·.tick b n fed)

/-- An instruction issued: counted (R256, R549) and its cycles delivered. -/
def Dom.issued (d : Dom) (b : Ix4) (cost : Nat) (fed : Bool) : Dom :=
  ((d.tick b cost fed).bump (Off.berth b.toNat + 0x28) 1).event 3 1 (some b)

/-! ## Operand stack -/

def stackCap : Nat := 2080

def rstackCap : Nat := 544

/-- The value of a cell that an instruction reads; undefined where it is still pending (R226). -/
def Dom.readSlot (d : Dom) (b : Ix4) (x : Slot) : Dom × Cell :=
  if x.lands ≤ (d.berth b).mc then (d, x.val)
  else
    let r := d.q.free
    ({ d with q := r.2 }, r.1)

/-- The values of cells, in order. -/
def Dom.readSlots (d : Dom) (b : Ix4) : List Slot → Dom × List Cell
  | [] => (d, [])
  | x :: xs =>
    let r := d.readSlot b x
    let rs := r.1.readSlots b xs
    (rs.1, r.2 :: rs.2)

/-- A value that is there. -/
def Slot.now (v : Cell) : Slot := ⟨v, 0⟩

/-! ## Tallies and interrupts -/

/-- Whether a tally has reached a value (R236). -/
def reached (t v : Word) : Bool := decide ((t - v).toNat < 2 ^ 31)

def Berth.tally (x : Berth) (t : BitVec 4) : Word := x.tallies.getD t.toNat 0

/-- A source becomes pending, whatever the mask (R241). -/
def Berth.raise (x : Berth) (src : Nat) : Berth := { x with pend := x.pend ||| (1#4 <<< src) }

/-- Arms whose tally has reached its value make TALLY pending and clear (R241). -/
def Berth.fireArms (x : Berth) : Berth :=
  let hit := x.tarm.filter (fun a => reached (x.tally (BitVec.ofNat 4 a.1)) a.2)
  if hit.isEmpty then x
  else { x.raise 2 with tarm := x.tarm.filter (fun a => !reached (x.tally (BitVec.ofNat 4 a.1)) a.2) }

/-- A WAITT whose condition holds completes: its operands are popped and the next instruction follows (R236). -/
def Berth.wake (x : Berth) : Berth :=
  match x.phase with
  | .waitt t v pops len =>
    if reached (x.tally t) v && !x.impounded then
      { x with phase := .running, stack := x.stack.drop pops, pc := (x.pc + len) % 2 ^ 17 }
    else x
  | _ => x

/-- A tally set; arms and a WAITT see it. -/
def Berth.setTally (x : Berth) (t : BitVec 4) (v : Word) : Berth :=
  ({ x with tallies := setAt x.tallies t.toNat v }.fireArms).wake

/-- A tally set, with its mirror (R237). -/
def Dom.setTally (d : Dom) (b : Ix4) (t : BitVec 4) (v : Word) : Dom := (d.onBerth b (·.setTally t v)).mirror b t

/-- Whether an operation of the berth's waybill is outstanding in an engine (R244). -/
def Polder.outstanding (q : Polder) (b : Ix4) : Bool :=
  q.copy.any (fun o => decide (o.berth = b)) || q.lock.xfer.any (fun o => decide (o.berth = b))
    || q.gleaner.ops.any (fun o => decide (o.berth = b)) || q.ledger.ops.any (fun o => decide (o.berth = b))

/-- END retires: the record reads OK, the kind gets its sample, the berth and its group are freed (R112, R198, R244). -/
def Dom.finish (d : Dom) (b : Ix4) : Dom :=
  match (d.berth b).running with
  | none => d
  | some r =>
    let d1 := d.runRecord b .ok 0
    (d1.on (fun q => { q with wharf := q.wharf.sample r.wb.kind.toNat r.energy })).freeBerth b

/-- The first element that meets a test, changed. -/
def firstWhere {α : Type} (p : α → Bool) (f : α → α) : List α → List α
  | [] => []
  | x :: xs => if p x then f x :: xs else x :: firstWhere p f xs

/-- An increment of tally `t` falls in the cycle of a TWRITE: it is lost and TALLY_LOST is set (R250). It is that of the first operation
of the berth that reports to the tally, in the copy unit, the XFER unit, the Gleaner or the Ledger; without one there is none. -/
def Dom.loseIncrement (d : Dom) (b : Ix4) (t : BitVec 4) : Dom :=
  let hit (b' : Ix4) (t' k : BitVec 4) : Bool := decide (b' = b) && decide (t' = t) && decide (k ≠ 0)
  let q := d.q
  let lost (q' : Polder) : Dom := { d with q := q' }.stick (Off.berth b.toNat + 0x18) 1
  if q.copy.any (fun o => hit o.berth o.tally o.inc) then
    lost { q with copy := firstWhere (fun o => hit o.berth o.tally o.inc) (fun o => { o with inc := 0 }) q.copy }
  else if q.lock.xfer.any (fun o => hit o.berth o.tally o.inc) then
    lost { q with lock := { q.lock with
      xfer := firstWhere (fun o => hit o.berth o.tally o.inc) (fun o => { o with inc := 0 }) q.lock.xfer } }
  else if q.gleaner.ops.any (fun o => hit o.berth o.tally o.inc) then
    lost { q with gleaner := { q.gleaner with
      ops := firstWhere (fun o => hit o.berth o.tally o.inc) (fun o => { o with inc := 0 }) q.gleaner.ops } }
  else if q.ledger.ops.any (fun o => hit o.berth o.tally o.inc) then
    lost { q with ledger := { q.ledger with
      ops := firstWhere (fun o => hit o.berth o.tally o.inc) (fun o => { o with inc := 0 }) q.ledger.ops } }
  else d

/-- A berth that drains finishes once nothing of it is outstanding. -/
def Dom.drained (d : Dom) (b : Ix4) : Dom :=
  match (d.berth b).phase with
  | .draining => if d.q.outstanding b || (d.berth b).impounded then d else d.finish b
  | _ => d

/-- Mill cycles that a berth has stood in a WAITT stall, before a full queue, draining or suspended: they are delivered to it, and counted
(R229, R244, R246, R277, R549). -/
def Polder.stall (q : Polder) (b : Ix4) (n : Nat) : Polder :=
  match (q.berths.get b).phase with
  | .waitt _ _ _ _ => ((q.tick b n false).bump (Off.berth b.toNat + 0x30) n).event 4 n (some b)
  | .wideStall => (q.tick b n false).bump (Off.berth b.toNat + 0x38) n
  | .draining | .yielded => q.tick b n false
  | _ => q

def Dom.stall (d : Dom) (b : Ix4) (n : Nat) : Dom := d.on (·.stall b n)

/-- Every berth that stands so, over `n` delivered mill cycles; a halted or impounded one counts none (R207, R540). -/
def Polder.stallAll (q : Polder) (n : Nat) : Polder :=
  Ix4.all.foldl (fun q b => if (q.berths.get b).halted || (q.berths.get b).impounded then q else q.stall b n) q

/-- An operation of a berth reports: its tally is incremented by `k`, `dmc` stalled mill cycles after the last event (R278). A berth that
stalls for room in a queue issues again (R277). -/
def Dom.report (d : Dom) (b : Ix4) (t k : BitVec 4) (dmc : Nat) : Dom :=
  let d1 := (d.stall b dmc).onBerth b (fun x => match x.phase with
    | .wideStall => { x with phase := .running }
    | _ => x)
  (if k = 0 then d1 else d1.setTally b t ((d1.berth b).tally t + k.setWidth 32)).drained b

/-- The path latency of a short access (R226). -/
def Polder.shortLat (q : Polder) (a : Nat) : Nat :=
  match q.region a with
  | some .counter => 4
  | _ => if q.isCommons (binOf a) then 72 else 6

/-- A source as an operation finds it at its report: whether it was written since, or host memory or a register behind it reads otherwise
than it did (R279). A register that a read clears is what the operation's own read left. -/
def Dom.changed (d : Dom) (b : Ix4) (stale : Bool) (runs : List (Nat × Nat)) (snap : List Byte) : Bool :=
  stale || (runs.foldl (fun acc r =>
    (acc.1 || (match d.q.region r.1 with
      | some .host => (match d.q.hostAddr r.1 r.2 false with
        | some h => decide (d.host.readBytes h r.2 ≠ acc.2.take r.2)
        | none => true)
      | some .window =>
        let o := r.1 - winBase
        decide (r.2 = 4) && !readsClear o && decide (d.q.peek (.berth b) o ≠ leNat (acc.2.take 4))
      | _ => false), acc.2.drop r.2)) (false, snap)).1

/-- A memory error met for a berth: its waybill ends TRAPPED MEMUE (R349). -/
def Dom.memue (d : Dom) (b : Ix4) : Dom := if (d.berth b).running.isSome then d.trap b 0x0A else d

end Sys2Proof.Machine
end

