-- ==== Sys2Proof/Machine/Alu.lean ====
section
/-!
DEFINITION. Machine/Alu.lean: the arithmetic, logic and comparison results of the short instructions (R221, R229, R230).
Every function takes the cells that the stack effect names, deepest first.
-/
namespace Sys2Proof.Machine

def boolCell (b : Bool) : Cell := if b then 1 else 0

/-- High 64 bits of the unsigned product. -/
def mulhu (a b : Cell) : Cell := cell (a.toNat * b.toNat / 2 ^ 64)

/-- High 64 bits of the signed product. -/
def mulhs (a b : Cell) : Cell := BitVec.ofInt 64 (a.toInt * b.toInt / 2 ^ 64)

/-- DIVU; by 0 gives all-ones (R230). -/
def divu (a b : Cell) : Cell := if b = 0 then -1 else a / b

/-- DIVS, toward zero; by 0 gives −1, and −2^63 by −1 gives −2^63 (R230). -/
def divs (a b : Cell) : Cell := if b = 0 then -1 else BitVec.ofInt 64 (a.toInt.tdiv b.toInt)

/-- REMU; by 0 gives a (R230). -/
def remu (a b : Cell) : Cell := if b = 0 then a else a % b

/-- REMS, with the sign of a; by 0 gives a (R230). -/
def rems (a b : Cell) : Cell := if b = 0 then a else BitVec.ofInt 64 (a.toInt.tmod b.toInt)

def absCell (a : Cell) : Cell := if a.msb then -a else a

def mins (a b : Cell) : Cell := if b.slt a then b else a

def maxs (a b : Cell) : Cell := if a.slt b then b else a

def minu (a b : Cell) : Cell := if b.ult a then b else a

def maxu (a b : Cell) : Cell := if a.ult b then b else a

/-- A shift or rotate amount: n modulo 64. -/
def amount (n : Cell) : Nat := n.toNat % 64

def shlCell (a n : Cell) : Cell := a <<< amount n

def shruCell (a n : Cell) : Cell := a >>> amount n

def shrsCell (a n : Cell) : Cell := a.sshiftRight (amount n)

def rotlCell (a n : Cell) : Cell := a.rotateLeft (amount n)

/-- Leading zeros of the low `k` bits. -/
def leading : (k : Nat) → Nat → Nat
  | 0, _ => 0
  | k + 1, v => if bitOf v k then 0 else 1 + leading k v

/-- Trailing zeros, `k` at most. -/
def trailing : (k : Nat) → Nat → Nat
  | 0, _ => 0
  | k + 1, v => if v % 2 = 1 then 0 else 1 + trailing k (v / 2)

def clzCell (a : Cell) : Cell := cell (leading 64 a.toNat)

def ctzCell (a : Cell) : Cell := cell (trailing 64 a.toNat)

def popcCell (a : Cell) : Cell := cell (popcount 64 a.toNat)

/-- A width operand: n modulo 64, 0 meaning 64. -/
def extWidth (n : Cell) : Nat := if n.toNat % 64 = 0 then 64 else n.toNat % 64

def zextCell (a n : Cell) : Cell := cell (a.toNat % 2 ^ extWidth n)

def sextCell (a n : Cell) : Cell :=
  let w := extWidth n
  BitVec.ofInt 64 ((BitVec.ofNat w a.toNat).toInt)

/-- BEXT: bits [lo+w−1:lo] of a; bits at or above 64 read as 0 (R230). -/
def bextCell (a lo w : Cell) : Cell := if (63#64).ult lo then 0 else cell (a.toNat / 2 ^ lo.toNat % 2 ^ w.toNat)

/-- BINS: a with bits [lo+w−1:lo] replaced by b[w−1:0]; bits at or above 64 are not written (R230). -/
def binsCell (a b lo w : Cell) : Cell :=
  if (63#64).ult lo then a
  else
    let m : Cell := cell ((2 ^ w.toNat - 1) * 2 ^ lo.toNat % 2 ^ 64)
    (a &&& ~~~m) ||| (cell (b.toNat % 2 ^ w.toNat * 2 ^ lo.toNat) &&& m)

/-- ALIGNUP: a rounded up to a multiple of 2^k (R229). -/
def alignupCell (a k : Cell) : Cell := cell (ceilDiv a.toNat (2 ^ k.toNat) * 2 ^ k.toNat)

/-- The operations of the arithmetic, logic and comparison groups. -/
inductive AluOp where
  | add | sub | mul | mulhu | mulhs | divu | divs | remu | rems | neg | abs | mins | maxs | minu | maxu
  | addi (s : BitVec 8)
  | and | or | xor | not | shl | shru | shrs | rotl | clz | ctz | popc | sext | zext | bext | bins | alignup
  | eq | ne | lts | ltu | les | leu | eqz | select
deriving DecidableEq, Repr

/-- Mill cycles of an operation (R229). -/
def AluOp.cost : AluOp → Nat
  | .mul | .mulhu | .mulhs => 3
  | .divu | .divs | .remu | .rems => 24
  | _ => 1

/-- Cells an operation takes. -/
def AluOp.arity : AluOp → Nat
  | .neg | .abs | .addi _ | .not | .clz | .ctz | .popc | .eqz => 1
  | .bext | .select => 3
  | .bins => 4
  | _ => 2

/-- Whether an operand lies outside the range the table gives it, where the result is undefined: w of BEXT and BINS from 1 to 64 (R230),
k of ALIGNUP at most 63 (R229). -/
def AluOp.outside : AluOp → List Cell → Bool
  | .bext, [_, _, w] => w = 0 || (64#64).ult w
  | .bins, [_, _, _, w] => w = 0 || (64#64).ult w
  | .alignup, [_, k] => (63#64).ult k
  | _, _ => false

/-- The result on its operands, deepest first. -/
def AluOp.eval : AluOp → List Cell → Cell
  | .add, [a, b] => a + b
  | .sub, [a, b] => a - b
  | .mul, [a, b] => a * b
  | .mulhu, [a, b] => Machine.mulhu a b
  | .mulhs, [a, b] => Machine.mulhs a b
  | .divu, [a, b] => Machine.divu a b
  | .divs, [a, b] => Machine.divs a b
  | .remu, [a, b] => Machine.remu a b
  | .rems, [a, b] => Machine.rems a b
  | .neg, [a] => -a
  | .abs, [a] => absCell a
  | .mins, [a, b] => Machine.mins a b
  | .maxs, [a, b] => Machine.maxs a b
  | .minu, [a, b] => Machine.minu a b
  | .maxu, [a, b] => Machine.maxu a b
  | .addi s, [a] => a + s.signExtend 64
  | .and, [a, b] => a &&& b
  | .or, [a, b] => a ||| b
  | .xor, [a, b] => a ^^^ b
  | .not, [a] => ~~~a
  | .shl, [a, n] => shlCell a n
  | .shru, [a, n] => shruCell a n
  | .shrs, [a, n] => shrsCell a n
  | .rotl, [a, n] => rotlCell a n
  | .clz, [a] => clzCell a
  | .ctz, [a] => ctzCell a
  | .popc, [a] => popcCell a
  | .sext, [a, n] => sextCell a n
  | .zext, [a, n] => zextCell a n
  | .bext, [a, lo, w] => bextCell a lo w
  | .bins, [a, b, lo, w] => binsCell a b lo w
  | .alignup, [a, k] => alignupCell a k
  | .eq, [a, b] => boolCell (a == b)
  | .ne, [a, b] => boolCell (a != b)
  | .lts, [a, b] => boolCell (a.slt b)
  | .ltu, [a, b] => boolCell (a.ult b)
  | .les, [a, b] => boolCell (a.sle b)
  | .leu, [a, b] => boolCell (a.ule b)
  | .eqz, [a] => boolCell (a == 0)
  | .select, [a, b, f] => if f = 0 then b else a
  | _, _ => 0

end Sys2Proof.Machine
end

