-- ==== Sys2Proof/Machine/Hash.lean ====
section
/-!
DEFINITION. Machine/Hash.lean: the published functions the spec names by their designations: CRC-32C (R103, R238, R365),
SHA-256 and HMAC-SHA-256 (R533), SHA-384 (R45), and the AES-128-CMAC (R428).
-/
namespace Sys2Proof.Machine

/-! ## CRC-32C -/

/-- One bit of the reflected Castagnoli polynomial. -/
def crcBit (c : Word) : Word := if c.getLsbD 0 then (c >>> 1) ^^^ 0x82F63B78#32 else c >>> 1

/-- One byte folded in, with no inversion. -/
def crcByte (c : Word) (b : Byte) : Word :=
  crcBit (crcBit (crcBit (crcBit (crcBit (crcBit (crcBit (crcBit (c ^^^ b.setWidth 32))))))))

/-- Bytes folded in order, with no initial or final inversion (R238). -/
def crcFold (c : Word) (bs : List Byte) : Word := bs.foldl crcByte c

/-- CRC-32C with initial value and final XOR 0xFFFF_FFFF (R103). -/
def crc32c (bs : List Byte) : Word := crcFold 0xFFFFFFFF#32 bs ^^^ 0xFFFFFFFF#32

/-! ## SHA-2

The constants of FIPS 180-4 are the first 64 bits of fractional parts: of the cube roots of the first 80 primes for the
rounds, of the square roots of the first 16 for the initial hashes. SHA-256 uses the upper halves of the first 64 and of the
first 8; SHA-384 uses all 80 and the last 8. Each numeral below packs several of them, the first at its top. -/

/-- The `n` 64-bit words packed in `v`, the top one first. -/
def shaUnpack (n v : Nat) : List Nat := ((List.range n).map (fun i => v >>> (64 * i) % 2 ^ 64)).reverse

/-- The fractional parts of the cube roots, five to a numeral. -/
def shaCubeLow : List Nat :=
  [0x428a2f98d728ae227137449123ef65cdb5c0fbcfec4d3b2fe9b5dba58189dbbc3956c25bf348b538,
   0x59f111f1b605d019923f82a4af194f9bab1c5ed5da6d8118d807aa98a303024212835b0145706fbe,
   0x243185be4ee4b28c550c7dc3d5ffb4e272be5d74f27b896f80deb1fe3b1696b19bdc06a725c71235,
   0xc19bf174cf692694e49b69c19ef14ad2efbe4786384f25e30fc19dc68b8cd5b5240ca1cc77ac9c65,
   0x2de92c6f592b02754a7484aa6ea6e4835cb0a9dcbd41fbd476f988da831153b5983e5152ee66dfab,
   0xa831c66d2db43210b00327c898fb213fbf597fc7beef0ee4c6e00bf33da88fc2d5a79147930aa725,
   0x06ca6351e003826f142929670a0e6e7027b70a8546d22ffc2e1b21385c26c9264d2c6dfc5ac42aed,
   0x53380d139d95b3df650a73548baf63de766a0abb3c77b2a881c2c92e47edaee692722c851482353b]

def shaCubeHigh : List Nat :=
  [0xa2bfe8a14cf10364a81a664bbc423001c24b8b70d0f89791c76c51a30654be30d192e819d6ef5218,
   0xd69906245565a910f40e35855771202a106aa07032bbd1b819a4c116b8d2d0c81e376c085141ab53,
   0x2748774cdf8eeb9934b0bcb5e19b48a8391c0cb3c5c95a634ed8aa4ae3418acb5b9cca4f7763e373,
   0x682e6ff3d6b2b8a3748f82ee5defb2fc78a5636f43172f6084c87814a1f0ab728cc702081a6439ec,
   0x90befffa23631e28a4506cebde82bde9bef9a3f7b2c67915c67178f2e372532bca273eceea26619c,
   0xd186b8c721c0c207eada7dd6cde0eb1ef57d4f7fee6ed17806f067aa72176fba0a637dc5a2c898a6,
   0x113f9804bef90dae1b710b35131c471b28db77f523047d8432caab7b40c724933c9ebe0a15c9bebc,
   0x431d67c49c100d4c4cc5d4becb3e42b6597f299cfc657e2a5fcb6fab3ad6faec6c44198c4a475817]

def shaCube : List Nat := (shaCubeLow ++ shaCubeHigh).flatMap (shaUnpack 5)

/-- The fractional parts of the square roots of the first eight primes, and of the next eight. -/
def shaSquareLow : List Nat :=
  shaUnpack 8 0x6a09e667f3bcc908bb67ae8584caa73b3c6ef372fe94f82ba54ff53a5f1d36f1510e527fade682d19b05688c2b3e6c1f1f83d9abfb41bd6b5be0cd19137e2179

def shaSquareHigh : List Nat :=
  shaUnpack 8 0xcbbb9d5dc1059ed8629a292a367cd5079159015a3070dd17152fecd8f70e593967332667ffc00b318eb44a8768581511db0c2e0d64f98fa747b5481dbefa4fa4

/-- One hash of the family: its word width, its block and length field in bytes, its round constants and initial hash, and
the amounts its functions rotate by: over `a`, over `e`, and in the schedule (with the amount of the one shift). -/
structure Sha2 (w : Nat) where
  block : Nat
  lenBytes : Nat
  rounds : List (BitVec w)
  init : List (BitVec w)
  rotA : List Nat
  rotE : List Nat
  old15 : List Nat × Nat
  old2 : List Nat × Nat

def shaNarrow : Sha2 32 :=
  ⟨64, 8, (shaCube.take 64).map (fun k => BitVec.ofNat 32 (k >>> 32)), shaSquareLow.map (fun k => BitVec.ofNat 32 (k >>> 32)),
    [2, 13, 22], [6, 11, 25], ([7, 18], 3), ([17, 19], 10)⟩

def shaWide : Sha2 64 :=
  ⟨128, 16, shaCube.map (BitVec.ofNat 64), shaSquareHigh.map (BitVec.ofNat 64),
    [28, 34, 39], [14, 18, 41], ([1, 8], 7), ([19, 61], 6)⟩

/-- The sum modulo 2 of the rotations of a word. -/
def shaTurns {w : Nat} (rs : List Nat) (x : BitVec w) : BitVec w := rs.foldl (fun y r => y ^^^ x.rotateRight r) 0

/-- The same with the word shifted added in. -/
def shaTurnsShift {w : Nat} (p : List Nat × Nat) (x : BitVec w) : BitVec w := shaTurns p.1 x ^^^ (x >>> p.2)

/-- Appends `n` words to a schedule held newest first: each adds the words 16 and 7 places back and the mixed words 15 and 2
places back. -/
def Sha2.extend {w : Nat} (H : Sha2 w) : Nat → List (BitVec w) → List (BitVec w)
  | 0, ws => ws
  | n + 1, ws =>
    let back := fun i => ws.getD (i - 1) 0
    H.extend n ((back 16 + shaTurnsShift H.old15 (back 15) + back 7 + shaTurnsShift H.old2 (back 2)) :: ws)

/-- One round with `x` the sum of its constant and its schedule word. The working words are the last four values of each of
two sequences, newest first: a to d are those of the first, e to h those of the second. -/
def Sha2.round {w : Nat} (H : Sha2 w) (v : List (BitVec w) × List (BitVec w)) (x : BitVec w) :
    List (BitVec w) × List (BitVec w) :=
  let p := fun i => v.1.getD i 0
  let q := fun i => v.2.getD i 0
  let pick := q 2 ^^^ (q 0 &&& (q 1 ^^^ q 2))
  let most := (p 0 &&& (p 1 ||| p 2)) ||| (p 1 &&& p 2)
  let t := q 3 + x + pick + shaTurns H.rotE (q 0)
  ((t + most + shaTurns H.rotA (p 0)) :: v.1.take 3, (p 3 + t) :: v.2.take 3)

/-- One block of sixteen big-endian words folded into the hash. -/
def Sha2.fold {w : Nat} (H : Sha2 w) (h : List (BitVec w)) (blk : List Byte) : List (BitVec w) :=
  let ws := ((pieces (w / 8) 16 blk).map (fun b => BitVec.ofNat w (beNat b))).reverse
  let xs := List.zipWith (· + ·) H.rounds (H.extend (H.rounds.length - 16) ws).reverse
  let v := xs.foldl H.round (h.take 4, h.drop 4)
  List.zipWith (· + ·) h (v.1 ++ v.2)

/-- The hash of a message: padded with a set bit, zeros and its length in bits, then folded block by block. -/
def Sha2.digest {w : Nat} (H : Sha2 w) (m : List Byte) : List Byte :=
  let fill := H.block - 1 - (m.length + H.lenBytes) % H.block
  let p := m ++ 0x80#8 :: zeros fill ++ natBe H.lenBytes (8 * m.length)
  ((pieces H.block p.length p).foldl H.fold H.init).flatMap (fun x => natBe (w / 8) x.toNat)

/-- SHA-256. -/
def sha256 (m : List Byte) : List Byte := shaNarrow.digest m

/-- SHA-384. -/
def sha384 (m : List Byte) : List Byte := (shaWide.digest m).take 48

/-- HMAC-SHA-256 of FIPS 198-1. -/
def hmac256 (key msg : List Byte) : List Byte :=
  let k0 := if key.length ≤ 64 then key else sha256 key
  let k := k0 ++ zeros (64 - k0.length)
  sha256 (k.map (· ^^^ 0x5c) ++ sha256 (k.map (· ^^^ 0x36) ++ msg))

/-! ## AES-128 and CMAC -/

def aesS0 : List Byte :=
  [0x63, 0x7c, 0x77, 0x7b, 0xf2, 0x6b, 0x6f, 0xc5, 0x30, 0x01, 0x67, 0x2b, 0xfe, 0xd7, 0xab, 0x76,
   0xca, 0x82, 0xc9, 0x7d, 0xfa, 0x59, 0x47, 0xf0, 0xad, 0xd4, 0xa2, 0xaf, 0x9c, 0xa4, 0x72, 0xc0]

def aesS1 : List Byte :=
  [0xb7, 0xfd, 0x93, 0x26, 0x36, 0x3f, 0xf7, 0xcc, 0x34, 0xa5, 0xe5, 0xf1, 0x71, 0xd8, 0x31, 0x15,
   0x04, 0xc7, 0x23, 0xc3, 0x18, 0x96, 0x05, 0x9a, 0x07, 0x12, 0x80, 0xe2, 0xeb, 0x27, 0xb2, 0x75]

def aesS2 : List Byte :=
  [0x09, 0x83, 0x2c, 0x1a, 0x1b, 0x6e, 0x5a, 0xa0, 0x52, 0x3b, 0xd6, 0xb3, 0x29, 0xe3, 0x2f, 0x84,
   0x53, 0xd1, 0x00, 0xed, 0x20, 0xfc, 0xb1, 0x5b, 0x6a, 0xcb, 0xbe, 0x39, 0x4a, 0x4c, 0x58, 0xcf]

def aesS3 : List Byte :=
  [0xd0, 0xef, 0xaa, 0xfb, 0x43, 0x4d, 0x33, 0x85, 0x45, 0xf9, 0x02, 0x7f, 0x50, 0x3c, 0x9f, 0xa8,
   0x51, 0xa3, 0x40, 0x8f, 0x92, 0x9d, 0x38, 0xf5, 0xbc, 0xb6, 0xda, 0x21, 0x10, 0xff, 0xf3, 0xd2]

def aesS4 : List Byte :=
  [0xcd, 0x0c, 0x13, 0xec, 0x5f, 0x97, 0x44, 0x17, 0xc4, 0xa7, 0x7e, 0x3d, 0x64, 0x5d, 0x19, 0x73,
   0x60, 0x81, 0x4f, 0xdc, 0x22, 0x2a, 0x90, 0x88, 0x46, 0xee, 0xb8, 0x14, 0xde, 0x5e, 0x0b, 0xdb]

def aesS5 : List Byte :=
  [0xe0, 0x32, 0x3a, 0x0a, 0x49, 0x06, 0x24, 0x5c, 0xc2, 0xd3, 0xac, 0x62, 0x91, 0x95, 0xe4, 0x79,
   0xe7, 0xc8, 0x37, 0x6d, 0x8d, 0xd5, 0x4e, 0xa9, 0x6c, 0x56, 0xf4, 0xea, 0x65, 0x7a, 0xae, 0x08]

def aesS6 : List Byte :=
  [0xba, 0x78, 0x25, 0x2e, 0x1c, 0xa6, 0xb4, 0xc6, 0xe8, 0xdd, 0x74, 0x1f, 0x4b, 0xbd, 0x8b, 0x8a,
   0x70, 0x3e, 0xb5, 0x66, 0x48, 0x03, 0xf6, 0x0e, 0x61, 0x35, 0x57, 0xb9, 0x86, 0xc1, 0x1d, 0x9e]

def aesS7 : List Byte :=
  [0xe1, 0xf8, 0x98, 0x11, 0x69, 0xd9, 0x8e, 0x94, 0x9b, 0x1e, 0x87, 0xe9, 0xce, 0x55, 0x28, 0xdf,
   0x8c, 0xa1, 0x89, 0x0d, 0xbf, 0xe6, 0x42, 0x68, 0x41, 0x99, 0x2d, 0x0f, 0xb0, 0x54, 0xbb, 0x16]

/-- The S-box. -/
def aesSbox : List Byte := aesS0 ++ aesS1 ++ aesS2 ++ aesS3 ++ aesS4 ++ aesS5 ++ aesS6 ++ aesS7

def aesSub (b : Byte) : Byte := aesSbox.getD b.toNat 0

/-- Multiplication by x in the field of FIPS 197. -/
def aesX (b : Byte) : Byte := if b.getLsbD 7 then (b <<< 1) ^^^ 0x1b else b <<< 1

def xorBytes (a b : List Byte) : List Byte := (a.zip b).map (fun x => x.1 ^^^ x.2)

/-- The next round key from the last, with round constant `rc`. -/
def aesNextKey (rc : Byte) (k : List Byte) : List Byte :=
  let t := [aesSub (k.getD 13 0) ^^^ rc, aesSub (k.getD 14 0), aesSub (k.getD 15 0), aesSub (k.getD 12 0)]
  let w0 := xorBytes (k.take 4) t
  let w1 := xorBytes ((k.drop 4).take 4) w0
  let w2 := xorBytes ((k.drop 8).take 4) w1
  w0 ++ w1 ++ w2 ++ xorBytes ((k.drop 12).take 4) w2

def aesShiftRows (s : List Byte) : List Byte :=
  [0, 5, 10, 15, 4, 9, 14, 3, 8, 13, 2, 7, 12, 1, 6, 11].map (fun i => s.getD i 0)

def aesMixCol : List Byte → List Byte
  | [a, b, c, d] =>
    [aesX a ^^^ aesX b ^^^ b ^^^ c ^^^ d, a ^^^ aesX b ^^^ aesX c ^^^ c ^^^ d,
      a ^^^ b ^^^ aesX c ^^^ aesX d ^^^ d, aesX a ^^^ a ^^^ b ^^^ c ^^^ aesX d]
  | l => l

/-- Rounds after the first key addition; the last omits MixColumns. -/
def aesRounds : List Byte → (key state : List Byte) → List Byte
  | [], _, s => s
  | rc :: rcs, k, s =>
    let k' := aesNextKey rc k
    let t := aesShiftRows (s.map aesSub)
    let u := match rcs with
      | [] => t
      | _ :: _ => (pieces 4 4 t).flatMap aesMixCol
    aesRounds rcs k' (xorBytes u k')

def aesEncrypt (key blk : List Byte) : List Byte :=
  aesRounds [1, 2, 4, 8, 0x10, 0x20, 0x40, 0x80, 0x1b, 0x36] key (xorBytes blk key)

/-- Doubling of SP 800-38B on a 16-byte block. -/
def cmacDouble (l : List Byte) : List Byte :=
  let v := beNat l
  natBe 16 (if bitOf v 127 then ((2 * v) % 2 ^ 128) ^^^ 0x87 else 2 * v)

/-- AES-128-CMAC of SP 800-38B. -/
def cmac (key msg : List Byte) : List Byte :=
  let k1 := cmacDouble (aesEncrypt key (zeros 16))
  let n := (msg.length - 1) / 16
  let last := msg.drop (16 * n)
  let fin := if last.length = 16 then xorBytes last k1
    else xorBytes (last ++ [0x80] ++ zeros (15 - last.length)) (cmacDouble k1)
  let x := (pieces 16 n (msg.take (16 * n))).foldl (fun c b => aesEncrypt key (xorBytes c b)) (zeros 16)
  aesEncrypt key (xorBytes x fin)

end Sys2Proof.Machine
end

