-- ==== Sys2Proof/Machine/Short.lean ====
section
/-!
DEFINITION. Machine/Short.lean: the short instructions of a berth (08_grepen_core.md, R219 to R256), each with its operand form, its
cycles, its traps and its impounds. `fed` marks an instruction of FEED: the PC stays and its cycles count for neither MC_USED nor
WATCH_LIMIT (R540).
-/
namespace Sys2Proof.Machine

/-- Stack group. -/
inductive StackOp where
  | dup | drop | swap | over | rot | nip | tuck | pick | roll | twoDup | twoDrop | twoSwap | depth | dropn | clear
deriving DecidableEq, Repr

/-- Widths and extensions of loads. -/
inductive LoadOp where
  | d64 | u32 | s32 | u16 | s16 | u8 | s8
deriving DecidableEq, Repr

/-- Control transfers. -/
inductive FlowOp where
  | br | bz | bnz | djnz
deriving DecidableEq, Repr

/-- Long operations. -/
inductive LongOp where
  | bmove | bfill | crc
deriving DecidableEq, Repr

/-- The short instructions of R229 with their immediates; a relative target carries the bytes of its offset. -/
inductive Short where
  | nop
  | stack (op : StackOp)
  | alu (op : AluOp)
  | flow (op : FlowOp) (rel : Int) (width : Nat)
  | jmp
  | jmpl (rel : Int)
  | load (op : LoadOp)
  | store (w : Nat)
  | ldp64 | stp64 | fencest | cadd | cswap
  | lit (v : Cell) (width : Nat)
  | litpc
  | call (rel : Int) (width : Nat)
  | calli | ret | toR | rFrom | rFetch | rdepth
  | tread | twrite (co : Bool) | tadd | waitt | waitt8 (imm : BitVec 8)
  | idle8 (imm : BitVec 8) | idle16 (imm : BitVec 16) | idle
  | tarm
  | shld | shst | shget | shset | shbase | shaddb | shclr | shcopy
  | endOp (drain : Nat) | yieldOp | ei | di | setiv | reti | imask | ipend | trap (imm : BitVec 8) | tide | berth | mc | signal
  | long (op : LongOp) (stop : LongStop)
  | reserved (op : Byte)
deriving DecidableEq, Repr

/-- Bytes of an instruction: opcode and immediate (R223). -/
def Short.len : Short → Nat
  | .flow _ _ w => 1 + w
  | .jmpl _ => 4
  | .lit _ w => 1 + w
  | .call _ w => 1 + w
  | .waitt8 _ | .idle8 _ | .trap _ | .alu (.addi _) => 2
  | .idle16 _ => 3
  | _ => 1

/-! ## Completing an instruction -/

/-- The next instruction follows: PC and cycles advance, `f` is done to the berth. -/
def Dom.done (d : Dom) (b : Ix4) (len cost : Nat) (fed : Bool) (f : Berth → Berth) : Dom :=
  (d.onBerth b (fun x => f { x with pc := if fed then x.pc else (x.pc + len) % 2 ^ 17 })).issued b cost fed

/-- Control continues at `target`. -/
def Dom.jump (d : Dom) (b : Ix4) (target cost : Nat) (f : Berth → Berth) : Dom :=
  (d.onBerth b (fun x => f { x with pc := target % 2 ^ 17 })).issued b cost false

/-- A push beyond the capacity of a stack (R77, R248). -/
def Dom.overStack (d : Dom) (b : Ix4) : Dom := d.berthViolation b 0 6 0 true 0

/-- `n` cells are popped and `m` pushed: a trap where they are missing, an impound where they do not fit, else `k` on the popped
slots, top first, and the rest. -/
def Dom.cells (d : Dom) (b : Ix4) (n m : Nat) (k : List Slot → List Slot → Dom) : Dom :=
  let st := (d.berth b).stack
  if st.length < n then d.trapNow b 1
  else if stackCap < st.length - n + m then d.overStack b
  else k (st.take n) (st.drop n)

/-- As `cells`, with the values of the popped cells read, deepest first. -/
def Dom.values (d : Dom) (b : Ix4) (n m : Nat) (k : Dom → List Cell → List Slot → Dom) : Dom :=
  d.cells b n m (fun top rest =>
    let r := d.readSlots b top.reverse
    k r.1 r.2 rest)

/-- The berth with an operand stack. -/
def Berth.withStack (x : Berth) (st : List Slot) : Berth := { x with stack := st }

/-! ## Stack group -/

/-- PICK and ROLL (R231): `n` is the top cell. -/
def Dom.pickRoll (d : Dom) (b : Ix4) (roll fed : Bool) : Dom :=
  d.values b 1 1 (fun d' vs rest =>
    let n := (vs.getD 0 0).toNat
    if 30 < n then d'.trapNow b 5
    else if rest.length < n + 1 then d'.trapNow b 1
    else
      let x := rest.getD n (Slot.now 0)
      if roll then d'.done b 1 1 fed (·.withStack (x :: rest.eraseIdx n))
      else
        let r := d'.readSlot b x
        r.1.done b 1 1 fed (·.withStack (Slot.now r.2 :: rest)))

/-- A copy of the cell at depth `i` of `top` is pushed in front of what `f` leaves; copying reads the cell (R226). -/
def Dom.copyCell (d : Dom) (b : Ix4) (n i : Nat) (fed : Bool) (f : List Slot → Slot → List Slot) : Dom :=
  d.cells b n (n + 1) (fun top rest =>
    let r := d.readSlot b (top.getD i (Slot.now 0))
    r.1.done b 1 1 fed (·.withStack (f top (Slot.now r.2) ++ rest)))

def Dom.stackOp (d : Dom) (b : Ix4) (fed : Bool) : StackOp → Dom
  | .dup => d.copyCell b 1 0 fed (fun t c => c :: t)
  | .over => d.copyCell b 2 1 fed (fun t c => c :: t)
  | .tuck => d.copyCell b 2 0 fed (fun t c => t.take 1 ++ t.drop 1 ++ [c])
  | .drop => d.cells b 1 0 (fun _ rest => d.done b 1 1 fed (·.withStack rest))
  | .nip => d.cells b 2 1 (fun top rest => d.done b 1 1 fed (·.withStack (top.take 1 ++ rest)))
  | .swap => d.cells b 2 2 (fun top rest => d.done b 1 1 fed (·.withStack (top.reverse ++ rest)))
  | .rot => d.cells b 3 3 (fun top rest => d.done b 1 1 fed (·.withStack (top.drop 2 ++ top.take 2 ++ rest)))
  | .twoDrop => d.cells b 2 0 (fun _ rest => d.done b 1 1 fed (·.withStack rest))
  | .twoSwap => d.cells b 4 4 (fun top rest => d.done b 1 1 fed (·.withStack (top.drop 2 ++ top.take 2 ++ rest)))
  | .twoDup => d.cells b 2 4 (fun top rest =>
      let r := d.readSlots b top
      r.1.done b 1 1 fed (·.withStack (r.2.map Slot.now ++ top ++ rest)))
  | .pick => d.pickRoll b false fed
  | .roll => d.pickRoll b true fed
  | .depth => d.cells b 0 1 (fun _ rest => d.done b 1 1 fed (·.withStack (Slot.now (cell rest.length) :: rest)))
  | .dropn => d.values b 1 0 (fun d' vs rest =>
      let k := (vs.getD 0 0).toNat
      if rest.length < k then d'.trapNow b 1 else d'.done b 1 1 fed (·.withStack (rest.drop k)))
  | .clear => d.done b 1 1 fed (·.withStack [])

/-! ## Arithmetic, logic, comparison -/

def Dom.aluOp (d : Dom) (b : Ix4) (op : AluOp) (fed : Bool) : Dom :=
  d.values b op.arity 1 (fun d' vs rest =>
    let r := if op.outside vs then
        let x := d'.q.free
        ({ d' with q := x.2 }, x.1)
      else (d', op.eval vs)
    r.1.done b (Short.len (.alu op)) op.cost fed (·.withStack (Slot.now r.2 :: rest)))

/-! ## Undefined results (R12, R224, R247, R276) -/

/-- A breach of R276 against the instructions `ids` in flight: what they and those that derive from them read or write is free, landed or
not, and so are the weight planes of the group. -/
def Dom.breach (d : Dom) (b : Ix4) (ids : List Nat) : Dom :=
  d.on (fun q =>
    let q1 := match (q.berths.get b).run with
      | some r => q.junkPlanes r.base r.mills
      | none => q
    q1.spoil b ids true)

/-- The earlier instructions whose accesses in flight a write that lands in cycle `t` must not meet: a write that lands in the same cycle,
or a read not made by then (R272). -/
def Berth.clashes (x : Berth) (a n t : Nat) : List Nat :=
  (x.flights.filter (fun f => f.meets a n && (if f.write then decide (f.at_ = t) else decide (t ≤ f.at_)))).map (·.id)

/-- A list of ranges (first, past the end) without a range. -/
def cutRange (rs : List (Nat × Nat)) (lo hi : Nat) : List (Nat × Nat) :=
  rs.flatMap (fun r =>
    ([(r.1, min r.2 lo), (max r.1 hi, r.2)]).filter (fun x => decide (x.1 < x.2)))

/-- The parts of a list of ranges that lie in a range. -/
def clipRange (rs : List (Nat × Nat)) (lo hi : Nat) : List (Nat × Nat) :=
  (rs.map (fun r => (max r.1 lo, min r.2 hi))).filter (fun x => decide (x.1 < x.2))

/-- Memory of the polder that a berth may write: the bins of its mask, the Counter below the staging areas and HBM below the
sluice-pool region, less what the fences refuse it (R13, R76, R330, R339). -/
def Polder.writable (q : Polder) (b : Ix4) : List (Nat × Nat) :=
  let bins := match (q.berths.get b).run with
    | some r => ((List.range r.mills).map (· + r.base)).filter (fun i => !q.isCommons i)
    | none => []
  let all := (bins.map (fun i => (i * 0x200000, (i + 1) * 0x200000))) ++
    [(counterBase, counterBase + 0x180000), (hbmBase, q.poolBase)]
  let on := (List.range 32).filter q.fenceOn
  let span (n : Nat) := (q.stored64 (Off.fence n), q.stored64 (Off.fence n + 8) + 1)
  on.foldl (fun rs n => cutRange rs (span n).1 (span n).2) all ++
    ((on.filter (fun n => let c := q.stored (Off.fence n + 0x10); bitOf c b.toNat && bitOf c 17)).flatMap (fun n =>
      clipRange all (span n).1 (span n).2))

/-- What an undefined instruction may leave: it has issued, and the mill cycles it takes, the berth's own state, the planes of its mills
and the memory it may write are free (R12, R13, R15). Log entry 19. -/
def Dom.havoc (d : Dom) (b : Ix4) (fed : Bool := false) : Dom :=
  let v (k i : Nat) := Config.junk d.q.fuses.index.toNat d.q.fresh k i
  let d1 := ((d.on (fun q => { q with fresh := q.fresh + 1 })).on (fun q =>
    let q1 := match (q.berths.get b).run with
      | some r => q.junkPlanes r.base r.mills
      | none => q
    (q.writable b).foldl (fun q r => q.scramble r.1 (r.2 - r.1)) (q1.spoil b ((q1.berths.get b).flights.map (·.id)) false))).issued b
    (1 + (v 0 5).toNat) fed
  d1.onBerth b (fun x => { x with
    stack := (List.range ((v 0 0).toNat % (stackCap + 1))).map (fun i => Slot.now (v 1 i))
    rstack := (List.range ((v 0 1).toNat % (rstackCap + 1))).map (fun i => Slot.now (v 2 i))
    tallies := (List.range 16).map (fun i => (v 3 i).setWidth 32)
    tarm := ((List.range 16).filter (fun i => (v 5 i).getLsbD 32)).map (fun i => (i, (v 5 i).setWidth 32))
    shapes := (List.range 32).map (fun i =>
      (i, shapeEntry (v 4 (4 * i) ++ v 4 (4 * i + 1) ++ v 4 (4 * i + 2) ++ v 4 (4 * i + 3) : BitVec 256)))
    shapePend := []
    ie := (v 0 2).getLsbD 0
    mask := (v 0 2).extractLsb' 4 4
    pend := (v 0 2).extractLsb' 8 4
    ivbase := (v 0 3).toNat % 2 ^ 17
    pc := (v 0 4).toNat % 2 ^ 17 })

/-! ## Branches, calls and returns -/

/-- The target of a relative transfer: an offset from the following instruction (R223), in the 17 bits of the PC (R222). DEDUCED: log
entry 31. -/
def relTarget (pc len : Nat) (rel : Int) : Nat := ((((pc + len : Nat) : Int) + rel) % 2 ^ 17).toNat

/-- The immediate bytes of an opcode (R223, R229), and the body of an escape. -/
def immBytes (o : Nat) : Nat :=
  if [0x1F, 0x3B, 0x3C, 0x3D, 0x50, 0x54, 0x74, 0x75, 0x98].contains o then 1
  else if [0x38, 0x39, 0x3A, 0x3E, 0x51, 0x55, 0x60, 0x76].contains o then 2
  else if o = 0x61 ∨ o = 0x68 then 3
  else if o = 0x52 ∨ o = 0x56 then 4
  else if o = 0x53 then 8
  else if 0xF0 ≤ o ∧ o ≤ 0xF7 then 32
  else 0

/-- Whether an offset lies inside the body of a wide instruction, the image read from `a` on. DEDUCED: log entry 121. -/
def inBody (target : Nat) : (fuel a : Nat) → List Byte → Bool
  | 0, _, _ => false
  | _, _, [] => false
  | f + 1, a, o :: rest =>
    let n := immBytes o.toNat
    if target ≤ a + n then decide (a < target) && decide (n = 32)
    else inBody target f (a + 1 + n) (rest.drop n)

/-- The code of the active half. -/
def Berth.code (x : Berth) : List Byte := (if x.half then x.code1 else x.code0).take x.codeLen

/-- A branch or call; one into a body gives an undefined result (R224). -/
def Dom.branch (d : Dom) (b : Ix4) (target cost : Nat) (f : Berth → Berth) : Dom :=
  let t := target % 2 ^ 17
  if inBody t (t + 1) 0 (d.berth b).code then d.havoc b else d.jump b t cost f

/-- BR, BZ, BNZ and DJNZ: taken or not, with what is left on the stack. -/
def Dom.flowOp (d : Dom) (b : Ix4) (op : FlowOp) (rel : Int) (width : Nat) : Dom :=
  let len := 1 + width
  let dest := relTarget (d.berth b).pc len rel
  match op with
  | .br => d.branch b dest 2 id
  | .bz => d.values b 1 0 (fun d' vs rest =>
      if vs.getD 0 0 = 0 then d'.branch b dest 2 (·.withStack rest) else d'.done b len 1 false (·.withStack rest))
  | .bnz => d.values b 1 0 (fun d' vs rest =>
      if vs.getD 0 0 = 0 then d'.done b len 1 false (·.withStack rest) else d'.branch b dest 2 (·.withStack rest))
  | .djnz => d.values b 1 1 (fun d' vs rest =>
      let n := vs.getD 0 0 - 1
      if n = 0 then d'.done b len 1 false (·.withStack rest)
      else d'.branch b dest 2 (·.withStack (Slot.now n :: rest)))

/-- A return cell (R232). -/
def returnCell (ofs : Nat) (ie int : Bool) : Cell := cell (ofs % 2 ^ 17 + 2 ^ 62 * bit ie + 2 ^ 63 * bit int)

/-- The return cell pushed, control to `dest`. -/
def Dom.callTo (d : Dom) (b : Ix4) (dest len : Nat) (f : Berth → Berth) : Dom :=
  let x := d.berth b
  if rstackCap ≤ x.rstack.length then d.overStack b
  else d.branch b dest 2 (fun y => f { y with rstack := Slot.now (returnCell (x.pc + len) x.ie false) :: y.rstack })

/-- RET and RETI (R232, R242). -/
def Dom.retOp (d : Dom) (b : Ix4) (int : Bool) : Dom :=
  match (d.berth b).rstack with
  | [] => d.trapNow b 2
  | c :: rs =>
    let r := d.readSlot b c
    if r.2.getLsbD 63 = int then
      r.1.jump b r.2.toNat 2 (fun y => { y with rstack := rs, ie := if int then r.2.getLsbD 62 else y.ie })
    else r.1.trapNow b 4

/-- Entry of an interrupt (R242): 3 mc, a return cell with INT and IE, IE and the pending bit cleared. -/
def Dom.enterInterrupt (d : Dom) (b : Ix4) (src : Nat) : Dom :=
  let x := d.berth b
  if rstackCap ≤ x.rstack.length then d.overStack b
  else
    (d.tick b 3 false).onBerth b (fun y => { y with
      rstack := Slot.now (returnCell y.pc true true) :: y.rstack
      ie := false
      pend := y.pend &&& ~~~(1#4 <<< src)
      phase := .running
      longOp := false
      pc := (y.ivbase + 16 * src) % 2 ^ 17 })

/-! ## Short loads and stores (R226 to R228) -/

def LoadOp.width : LoadOp → Nat
  | .d64 => 8 | .u32 | .s32 => 4 | .u16 | .s16 => 2 | .u8 | .s8 => 1

/-- A loaded value extended to a cell. -/
def LoadOp.extend (op : LoadOp) (v : Nat) : Cell :=
  match op with
  | .s32 => (BitVec.ofNat 32 v).signExtend 64
  | .s16 => (BitVec.ofNat 16 v).signExtend 64
  | .s8 => (BitVec.ofNat 8 v).signExtend 64
  | _ => cell v

/-- The address a cell supplies (R221). -/
def addrOf (c : Cell) : Nat := c.toNat % 2 ^ 48

/-- A short store of the berth in flight to some byte of a range (R227). -/
def Berth.storePending (x : Berth) (a n : Nat) : Bool :=
  x.flights.any (fun f => f.write && f.short && decide (x.mc < f.at_) && f.meets a n)

/-- The berth with one more access in flight. -/
def Berth.fly (x : Berth) (f : Flight) : Berth := { x with flights := f :: x.flights, lastLand := max x.lastLand f.at_ }

/-- The berth when something that it waits for at its end lands in cycle `t`. -/
def Berth.landing (x : Berth) (t : Nat) : Berth := { x with lastLand := max x.lastLand t }

/-- The first cause that the 8-byte accesses of a range meet, with the address (R234, R239). -/
def Polder.shortCause (q : Polder) (b : Ix4) (a n : Nat) (write : Bool) : Option (Nat × Nat) :=
  (List.range (ceilDiv n 8)).findSome? (fun i =>
    (q.berthCause b true (a + 8 * i) (min 8 (n - 8 * i)) write).map (fun c => (c, a + 8 * i)))

/-- A misaligned short access is logged and marked (R228). -/
def Dom.badAlign (d : Dom) (b : Ix4) (a : Nat) : Dom :=
  (d.accLog (.berth b) .badalign a).stick (Off.berth b.toNat + 0x18) 2

/-- A short read of `n` bytes: `k` gets the value, undefined where a short store of the berth is in flight to it (R227). -/
def Dom.shortRead (d : Dom) (b : Ix4) (a n : Nat) (k : Dom → Nat → Dom) : Dom :=
  match d.q.shortCause b a n false with
  | some c => d.berthViolation b 0 c.1 c.2 false 0
  | none =>
    let e := d.eccRead ((d.q.region a).getD .counter) a n
    if e.2 then e.1.memue b
    else if (d.berth b).storePending a n then
      let x := e.1.q.freeBytes n
      k { e.1 with q := x.2 } (leNat x.1)
    else k e.1 (leNat (e.1.q.readMem a n))

/-- The bytes of a write that lands in cycle `t`: free ones where it meets an access in flight against R272. -/
def Dom.sound (d : Dom) (b : Ix4) (a : Nat) (bs : List Byte) (t : Nat) : Dom × List Byte :=
  let ids := (d.berth b).clashes a bs.length t
  if ids.isEmpty then (d, bs)
  else
    let x := (d.breach b ids).q.freeBytes bs.length
    ({ d with q := x.2 }, x.1)

/-- A short write of bytes, which lands `lat` mc after issue. -/
def Dom.shortWrite (d : Dom) (b : Ix4) (a : Nat) (bs : List Byte) (lat : Nat) (k : Dom → Dom) : Dom :=
  match d.q.shortCause b a bs.length true with
  | some c => d.berthViolation b 0 c.1 c.2 true (BitVec.ofNat 64 (leNat ((bs.drop (c.2 - a)).take 8)))
  | none =>
    let e := d.eccMerge ((d.q.region a).getD .counter) a bs.length
    if e.2 then e.1.memue b
    else
      let t := (d.berth b).mc + lat
      let x := e.1.sound b a bs t
      k (x.1.onBerth b (fun y => y.fly ⟨a, bs.length, true, true, t, x.2, y.mc, .none⟩))

/-- A pending cell of a load from `a` (R226). -/
def Dom.pendingCell (d : Dom) (b : Ix4) (a : Nat) (v : Cell) : Slot := ⟨v, (d.berth b).mc + d.q.shortLat a⟩

/-- A load; `post` is left above the loaded cell (LDP64). -/
def Dom.loadOp (d : Dom) (b : Ix4) (op : LoadOp) (incr fed : Bool) : Dom :=
  d.values b 1 (if incr then 2 else 1) (fun d' vs rest =>
    let c := vs.getD 0 0
    let a := addrOf c
    let w := op.width
    let above := if incr then [Slot.now (c + 8)] else []
    if a % w ≠ 0 then (d'.badAlign b a).done b 1 1 fed (·.withStack (above ++ Slot.now (-1) :: rest))
    else d'.shortRead b a w (fun d'' v =>
      d''.done b 1 1 fed (fun x => (x.withStack (above ++ d''.pendingCell b a (op.extend v) :: rest)).landing (x.mc + d''.q.shortLat a))))

/-- A store of the low `w` bytes; STP64 leaves the next address. -/
def Dom.storeOp (d : Dom) (b : Ix4) (w : Nat) (incr fed : Bool) : Dom :=
  d.values b 2 (if incr then 1 else 0) (fun d' vs rest =>
    let c := vs.getD 1 0
    let a := addrOf c
    let st := (if incr then [Slot.now (c + 8)] else []) ++ rest
    if a % w ≠ 0 then (d'.badAlign b a).done b 1 1 fed (·.withStack st)
    else d'.shortWrite b a (natLe w (vs.getD 0 0).toNat) (d'.q.shortLat a) (fun d'' =>
      d''.done b 1 1 fed (·.withStack st)))

/-- CADD and CSWAP, which land in order with the berth's stores (R227): `n` operands, the address last; `f` gives the new value from the operands and the old one (R229, R255). -/
def Dom.atomicOp (d : Dom) (b : Ix4) (n : Nat) (fed : Bool) (f : List Cell → Cell → Option Cell) : Dom :=
  d.values b n 1 (fun d' vs rest =>
    let a := addrOf (vs.getD (n - 1) 0)
    if a % 8 ≠ 0 ∨ d'.q.region a = some .granary then
      ((d'.accLog (.berth b) .badwidth a).stick (Off.berth b.toNat + 0x18) 4).done b 1 1 fed
        (·.withStack (Slot.now (-1) :: rest))
    else
      match d'.q.berthCause b true a 8 true with
      | some c => d'.berthViolation b 0 c a true (match f vs 0 with
          | some v => v
          | none => 0)
      | none =>
        d'.shortRead b a 8 (fun d'' v =>
          let old := cell v
          let t := (d''.berth b).mc + d''.q.shortLat a
          let d3 := match f vs old with
            | some new =>
              let x := (d''.on (·.landUpTo b t)).sound b a (natLe 8 new.toNat) t
              (x.1.eccWrite .counter a 8).1.on (·.putMem (some b) a x.2)
            | none => d''
          d3.done b 1 1 fed (fun x => (x.withStack (d''.pendingCell b a old :: rest)).landing t)))

/-- Mill cycles until the berth's last short store has landed (FENCEST). -/
def Berth.remaining (x : Berth) : Nat :=
  ((x.flights.filter (fun f => f.write && f.short)).map (fun f => f.at_ - x.mc)).foldl max 0

/-! ## Shape group (R233, R234) -/

/-- Bit offset, width and signedness of a field code, none above 9 (R233). -/
def shapeField (f : Nat) : Option (Nat × Nat × Bool) :=
  match f with
  | 0 => some (0, 48, false)
  | 1 => some (48, 8, false)
  | 2 => some (64, 16, false)
  | 3 => some (80, 16, false)
  | 4 => some (96, 16, false)
  | 5 => some (112, 16, false)
  | 6 => some (128, 32, true)
  | 7 => some (160, 32, true)
  | 8 => some (192, 32, true)
  | 9 => some (224, 32, false)
  | _ => none

/-- A field of an entry as SHGET pushes it; a stride is signed. -/
def getShapeField (e : BitVec 256) (ofs w : Nat) (signed : Bool) : Cell :=
  let v := e.toNat / 2 ^ ofs % 2 ^ w
  if signed then (BitVec.ofNat 32 v).signExtend 64 else cell v

/-- The entry with a field replaced, the value truncated to its width. -/
def setShapeField (e : BitVec 256) (ofs w : Nat) (v : Nat) : BitVec 256 :=
  BitVec.ofNat 256 (e.toNat - e.toNat / 2 ^ ofs % 2 ^ w * 2 ^ ofs + v % 2 ^ w * 2 ^ ofs)

/-- BASE of an entry set. -/
def Berth.setBase (x : Berth) (i v : Nat) : Berth := x.setShape i (setShapeField (x.shape i) 0 48 v)

/-- SHLD and SHST take an entry as four 8-byte accesses; an address that is not 8-byte aligned is a misaligned access (R228, R234). -/
def Dom.shldOp (d : Dom) (b : Ix4) (fed : Bool) : Dom :=
  d.values b 2 0 (fun d' vs rest =>
    let a := addrOf (vs.getD 0 0)
    let i := (vs.getD 1 0).toNat % 32
    if a % 8 ≠ 0 then
      (d'.badAlign b a).done b 1 1 fed (fun x => ({ x with shapePend := x.shapePend ++
        [(i, BitVec.allOnes 256, x.mc + d'.q.shortLat a + 4)] }).withStack rest)
    else d'.shortRead b a 32 (fun d'' v =>
      d''.done b 1 1 fed (fun x => (({ x with shapePend := x.shapePend ++
        [(i, BitVec.ofNat 256 v, x.mc + d''.q.shortLat a + 4)] }).withStack rest).landing (x.mc + d''.q.shortLat a + 4))))

def Dom.shstOp (d : Dom) (b : Ix4) (fed : Bool) : Dom :=
  d.values b 2 0 (fun d' vs rest =>
    let a := addrOf (vs.getD 0 0)
    let e := (d'.berth b).shape ((vs.getD 1 0).toNat % 32)
    if a % 8 ≠ 0 then (d'.badAlign b a).done b 1 1 fed (·.withStack rest)
    else d'.shortWrite b a (natLe 32 e.toNat) (d'.q.shortLat a + 4) (fun d'' => d''.done b 1 1 fed (·.withStack rest)))

/-- SHGET and SHSET; a reserved field code reads a free value and writes one into the entry (R15, R233). -/
def Dom.shgetOp (d : Dom) (b : Ix4) (fed : Bool) : Dom :=
  d.values b 2 1 (fun d' vs rest =>
    match shapeField (vs.getD 1 0).toNat with
    | some (o, w, s) =>
      d'.done b 1 1 fed (fun x => x.withStack (Slot.now (getShapeField (x.shape ((vs.getD 0 0).toNat % 32)) o w s) :: rest))
    | none =>
      let r := d'.q.free
      { d' with q := r.2 }.done b 1 1 fed (·.withStack (Slot.now r.1 :: rest)))

def Dom.shsetOp (d : Dom) (b : Ix4) (fed : Bool) : Dom :=
  d.values b 3 0 (fun d' vs rest =>
    let i := (vs.getD 1 0).toNat % 32
    match shapeField (vs.getD 2 0).toNat with
    | some (o, w, _) =>
      d'.done b 1 1 fed (fun x => (x.setShape i (setShapeField (x.shape i) o w (vs.getD 0 0).toNat)).withStack rest)
    | none =>
      let r := d'.q.free
      { d' with q := r.2 }.done b 1 1 fed (fun x =>
        (x.setShape i (setShapeField (x.shape i) 0 64 r.1.toNat)).withStack rest))

/-! ## Long operations (R238 to R240) -/

/-- The top cells of a long operation after `k` bytes are committed; `acc` is the checksum so far. -/
def LongOp.progress (op : LongOp) (x y n : Cell) (k : Nat) (acc : Word) : List Cell :=
  match op with
  | .bmove => [x + cell k, y + cell k, n - cell k]
  | .bfill => [x, y + cell k, n - cell k]
  | .crc => [acc.setWidth 64, y + cell k, n - cell k]

/-- The accesses of a long operation (R239): its latencies, where it reads and writes, the pattern of BFILL, its bytes up to where it
stops. -/
structure LongPlan where
  ls : Nat
  ld : Nat
  src : Option Nat
  dst : Option Nat
  pattern : Cell
  n : Nat
deriving DecidableEq, Repr

/-- How many 8-byte accesses there are, and the bytes of each. -/
def LongPlan.count (p : LongPlan) : Nat := ceilDiv p.n 8

def LongPlan.width (p : LongPlan) (i : Nat) : Nat := min 8 (p.n - 8 * i)

/-- What ends a long operation before its time. -/
inductive LongEnd where
  | violation (cause addr : Nat) (write : Bool) (data : BitVec 64)
  | error
deriving DecidableEq, Repr

/-- Bytes of access `i`, read 2 + `i` mc after issue as they are then: those of a short store in flight are undefined (R227). -/
def LongPlan.bytes (p : LongPlan) (q : Polder) (x : Berth) (i : Nat) : List Byte :=
  match p.src with
  | none => natLe 8 p.pattern.toNat
  | some a =>
    let t := x.mc + 2 + i
    (List.range (p.width i)).map (fun k =>
      let at_ := a + 8 * i + k
      if x.flights.any (fun f => f.write && f.short && decide (t < f.at_) && f.meets at_ 1) then
        Config.freeByte (4 * q.fresh + q.fuses.index.toNat) at_
      else seenByte q.mem x.flights t at_)

def Dom.longRead (d : Dom) (b : Ix4) (a n : Nat) : Dom × Option LongEnd :=
  match d.q.berthCause b true a n false with
  | some c => (d, some (.violation c a false 0))
  | none =>
    let e := d.eccRead ((d.q.region a).getD .counter) a n
    (e.1, if e.2 then some .error else none)

def Dom.longWrite (d : Dom) (b : Ix4) (a : Nat) (bs : List Byte) : Dom × Option LongEnd :=
  match d.q.berthCause b true a bs.length true with
  | some c => (d, some (.violation c a true (BitVec.ofNat 64 (leNat bs))))
  | none =>
    let e := d.eccMerge ((d.q.region a).getD .counter) a bs.length
    (e.1, if e.2 then some .error else none)

/-- The accesses in the order of their cycles, the first 2 mc after issue: each store Ls after its read (R239). The answer is the cycle, from
there, of the first that fails. -/
def Dom.longScan (b : Ix4) (p : LongPlan) (data : Nat → List Byte) : (fuel c : Nat) → Dom → Dom × Option (Nat × LongEnd)
  | 0, _, d => (d, none)
  | f + 1, c, d =>
    let w := match p.dst with
      | some a => if p.ls ≤ c then d.longWrite b (a + 8 * (c - p.ls)) (data (c - p.ls)) else (d, none)
      | none => (d, none)
    match w.2 with
    | some e => (w.1, some (c, e))
    | none =>
      let r := match p.src with
        | some a => if c < p.count then w.1.longRead b (a + 8 * c) (p.width c) else (w.1, none)
        | none => (w.1, none)
      match r.2 with
      | some e => (r.1, some (c, e))
      | none => Dom.longScan b p data f (c + 1) r.1

/-- The first `m` stores in flight: all free where one of them meets an access in flight against R272, or `blur` says so. -/
def Dom.longStores (d : Dom) (b : Ix4) (p : LongPlan) (data : Nat → List Byte) (m : Nat) (blur : Bool) : Dom :=
  match p.dst with
  | none => d
  | some a =>
    let x := d.berth b
    let lands (i : Nat) := x.mc + 2 + i + p.ls + p.ld
    let ids := (List.range m).flatMap (fun i => x.clashes (a + 8 * i) (p.width i) (lands i))
    let d1 := if ids.isEmpty then d else d.breach b ids
    let free := d1.q.freeBytes p.n
    let d2 := if blur || !ids.isEmpty then { d1 with q := free.2 } else d1
    d2.onBerth b (fun y => (List.range m).foldl (fun y i =>
      let bs := if blur || !ids.isEmpty then (free.1.drop (8 * i)).take (p.width i) else data i
      y.fly ⟨a + 8 * i, p.width i, true, true, lands i, bs, y.mc, .none⟩) y)

/-- Bytes after which a long operation stops, whole chunks of 64 but for its last (R240, R253). -/
def stopBytes (n : Nat) : LongStop → Nat
  | .whole => n
  | .interrupted c => min n (64 * (c + 1))
  | .cut k => min n (64 * k)

/-- A long operation of `n` bytes, its operands `x` and `y` on the stack. It runs on to where it stops, or an access that fails ends it with
the stack as the last chunk committed left it (R240, R255). -/
def Dom.longRun (d : Dom) (b : Ix4) (op : LongOp) (p : LongPlan) (x y : Cell) (n : Nat) (rest : List Slot) (blur fed : Bool) : Dom :=
  let d0 := d.on (fun q => { q with fresh := q.fresh + 1 })
  let data := p.bytes d.q (d.berth b)
  let acc (k : Nat) : Word := crcFold (x.setWidth 32) (((List.range (ceilDiv k 8)).flatMap data).take k)
  let stack (k : Nat) : List Slot := (op.progress x y (cell n) k (if op = .crc then acc k else 0)).reverse.map Slot.now ++ rest
  let end_ := addrOf y + n
  let left (z : Berth) (k : Nat) : List (Nat × Nat) :=
    (if op = .crc then [] else [(end_ - (n - k), n - k)]) ++ z.longRest.filter (fun r => decide (r.1 + r.2 ≠ end_))
  let s := Dom.longScan b p data (if p.dst.isSome then p.count + p.ls else p.count) 0 d0
  match s.2 with
  | some (c, e) =>
    let issued := match e with
      | .violation _ _ true _ => c - p.ls
      | _ => min p.count (c + 1 - p.ls)
    let k := min p.n (64 * ((c + 1 - p.ls - p.ld) / 8))
    let d1 := ((s.1.longStores b p data issued blur).onBerth b (fun z => (z.withStack (stack k)))).issued b (2 + c) fed
    match e with
    | .violation cause a w v => d1.berthViolation b 0 cause a w v
    | .error => (d1.onBerth b (fun z => { z with longRest := left z k })).memue b
  | none =>
    let d1 := s.1.longStores b p data p.count blur
    let cost := if p.n = 0 then 2 else 2 + p.count + p.ls + p.ld
    if p.n = n then
      d1.done b 1 cost fed (fun z => ({ z with
        longOp := false, longRest := z.longRest.filter (fun r => decide (r.1 + r.2 ≠ end_)) } : Berth).withStack
        ((if op = .crc then [Slot.now ((acc n).setWidth 64)] else []) ++ rest))
    else (d1.onBerth b (fun z => { (z.withStack (stack p.n)) with longOp := true, longRest := left z p.n })).issued b cost fed

def Dom.longOp (d : Dom) (b : Ix4) (op : LongOp) (stop : LongStop) (fed : Bool) : Dom :=
  d.values b 3 (if op = .crc then 1 else 0) (fun d' vs rest =>
    let x := vs.getD 0 0
    let y := vs.getD 1 0
    let n := (vs.getD 2 0).toNat
    let src := match op with
      | .bmove => some (addrOf x)
      | .crc => some (addrOf y)
      | .bfill => none
    let misaligned := match op with
      | .bmove => decide (addrOf x % 8 ≠ 0) || decide (addrOf y % 8 ≠ 0) || decide (n % 8 ≠ 0)
      | .bfill => decide (addrOf y % 8 ≠ 0) || decide (n % 8 ≠ 0)
      | .crc => false
    if misaligned then d'.trapNow b 6
    else
      let p : LongPlan :=
        { ls := match src with
            | some a => d'.q.shortLat a
            | none => 0
          ld := if op = .crc then 0 else d'.q.shortLat (addrOf y)
          src := src
          dst := if op = .crc then none else some (addrOf y)
          pattern := x
          n := stopBytes n (if fed then .whole else stop) }
      let blur := decide (op = .bmove) && decide (addrOf x < addrOf y) && decide (addrOf y < addrOf x + n)
      d'.longRun b op p x y n rest blur fed)

/-! ## Waits, system group, reserved codes -/

/-- WAITT: completes at once where the tally has reached the value, or else waits with its operands on the stack (R236). -/
def Dom.waitOp (d : Dom) (b : Ix4) (t : BitVec 4) (v : Word) (pops len : Nat) : Dom :=
  if reached ((d.berth b).tally t) v then d.done b len 1 false (fun x => x.withStack (x.stack.drop pops))
  else (d.onBerth b (fun x => { x with phase := .waitt t v pops len })).issued b 1 false

/-- END: the berth drains until all that it has issued has landed, `drain` more where the row says so, and finishes then where no operation
is outstanding (R244). -/
def Dom.endBerth (d : Dom) (b : Ix4) (drain : Nat) : Dom :=
  let x := d.berth b
  ((d.onBerth b (fun x => { x with phase := .draining, pend := 0 })).issued b (1 + max drain (x.lastLand - x.mc)) false).drained b

/-- SIGNAL (R256). -/
def Dom.signalOp (d : Dom) (b : Ix4) (v : Byte) : Dom :=
  (((d.onBerth b (fun x => { x with sigVal := v, sigValid := true })).msix (24 + b.toNat)).source (20 + b.toNat)).log
    0x0A b.toNat (natLe 1 v.toNat)

/-! ## The instruction -/

/-- An instruction's effect once it has been fetched. -/
def Dom.shortEffect (d : Dom) (b : Ix4) (fed : Bool) (i : Short) : Dom :=
  let len := i.len
  let push (v : Dom → Cell) : Dom := d.cells b 0 1 (fun _ rest => d.done b len 1 fed (·.withStack (Slot.now (v d) :: rest)))
  match i with
  | .nop => d.done b len 1 fed id
  | .stack op => d.stackOp b fed op
  | .alu op => d.aluOp b op fed
  | .flow op rel w => d.flowOp b op rel w
  | .jmp => d.values b 1 0 (fun d' vs rest => d'.branch b (vs.getD 0 0).toNat 2 (·.withStack rest))
  | .jmpl rel => d.branch b (relTarget (d.berth b).pc len rel) 2 id
  | .load op => d.loadOp b op false fed
  | .store w => d.storeOp b w false fed
  | .ldp64 => d.loadOp b .d64 true fed
  | .stp64 => d.storeOp b 8 true fed
  | .fencest => d.done b len (1 + (d.berth b).remaining) fed id
  | .cadd => d.atomicOp b 2 fed (fun vs old => some (old + vs.getD 0 0))
  | .cswap => d.atomicOp b 3 fed (fun vs old => if old = vs.getD 1 0 then some (vs.getD 0 0) else none)
  | .lit v _ => push (fun _ => v)
  | .litpc => push (fun d => cell (((d.berth b).pc + 1) % 2 ^ 17))
  | .call rel _ => d.callTo b (relTarget (d.berth b).pc len rel) len id
  | .calli => d.values b 1 0 (fun d' vs rest => d'.callTo b (vs.getD 0 0).toNat len (·.withStack rest))
  | .ret => d.retOp b false
  | .reti => d.retOp b true
  | .toR => d.cells b 1 0 (fun top rest =>
      if rstackCap ≤ (d.berth b).rstack.length then d.overStack b
      else d.done b len 1 fed (fun x => { x with stack := rest, rstack := top ++ x.rstack }))
  | .rFrom =>
    match (d.berth b).rstack with
    | [] => d.trapNow b 2
    | c :: rs => d.cells b 0 1 (fun _ rest =>
        d.done b len 1 fed (fun x => { x with stack := c :: rest, rstack := rs }))
  | .rFetch =>
    match (d.berth b).rstack with
    | [] => d.trapNow b 2
    | c :: _ => d.cells b 0 1 (fun _ rest =>
        let r := d.readSlot b c
        r.1.done b len 1 fed (·.withStack (Slot.now r.2 :: rest)))
  | .rdepth => push (fun d => cell (d.berth b).rstack.length)
  | .tread => d.values b 1 1 (fun d' vs rest =>
      d'.done b len 1 fed (·.withStack (Slot.now (((d'.berth b).tally ((vs.getD 0 0).setWidth 4)).setWidth 64) :: rest)))
  | .twrite co => d.values b 2 0 (fun d' vs rest =>
      let t := (vs.getD 1 0).setWidth 4
      let d2 := if co then d'.loseIncrement b t else d'
      (d2.setTally b t ((vs.getD 0 0).setWidth 32)).done b len 1 fed (·.withStack rest))
  | .tadd => d.values b 2 0 (fun d' vs rest =>
      let t := (vs.getD 1 0).setWidth 4
      (d'.setTally b t ((d'.berth b).tally t + (vs.getD 0 0).setWidth 32)).done b len 1 fed (·.withStack rest))
  | .waitt => d.values b 2 2 (fun d' vs _ =>
      d'.waitOp b ((vs.getD 1 0).setWidth 4) ((vs.getD 0 0).setWidth 32) 2 len)
  | .waitt8 imm => d.waitOp b (imm.extractLsb' 4 4) ((imm.extractLsb' 0 4).setWidth 32) 0 len
  | .idle8 imm => d.done b len (imm.toNat + 1) fed id
  | .idle16 imm => d.done b len (imm.toNat + 1) fed id
  | .idle => d.values b 1 0 (fun d' vs rest => d'.done b len (max 1 (vs.getD 0 0).toNat) fed (·.withStack rest))
  | .tarm => d.values b 2 0 (fun d' vs rest =>
      d'.done b len 1 fed (fun x =>
        ({ x with stack := rest, tarm := Store.insert x.tarm ((vs.getD 1 0).toNat % 16) ((vs.getD 0 0).setWidth 32) }).fireArms))
  | .shld => d.shldOp b fed
  | .shst => d.shstOp b fed
  | .shget => d.shgetOp b fed
  | .shset => d.shsetOp b fed
  | .shbase => d.values b 2 0 (fun d' vs rest =>
      d'.done b len 1 fed (fun x => (x.setBase ((vs.getD 1 0).toNat % 32) (vs.getD 0 0).toNat).withStack rest))
  | .shaddb => d.values b 2 0 (fun d' vs rest =>
      d'.done b len 1 fed (fun x =>
        let j := (vs.getD 1 0).toNat % 32
        (x.setBase j ((getShapeField (x.shape j) 0 48 false) + vs.getD 0 0).toNat).withStack rest))
  | .shclr => d.values b 1 0 (fun d' vs rest =>
      d'.done b len 1 fed (fun x => (x.setShape ((vs.getD 0 0).toNat % 32) 0).withStack rest))
  | .shcopy => d.values b 2 0 (fun d' vs rest =>
      d'.done b len 1 fed (fun x =>
        (x.setShape ((vs.getD 1 0).toNat % 32) (x.shape ((vs.getD 0 0).toNat % 32))).withStack rest))
  | .endOp drain => d.endBerth b drain
  | .yieldOp => d.done b len 1 fed (fun x => { x with phase := .yielded })
  | .ei => d.done b len 1 fed (fun x => { x with ie := true })
  | .di => d.done b len 1 fed (fun x => { x with ie := false })
  | .setiv => d.values b 1 0 (fun d' vs rest =>
      d'.done b len 1 fed (fun x => { x with stack := rest, ivbase := (vs.getD 0 0).toNat % 2 ^ 17 / 16 * 16 }))
  | .imask => d.values b 1 0 (fun d' vs rest =>
      d'.done b len 1 fed (fun x => { x with stack := rest, mask := (vs.getD 0 0).setWidth 4 }))
  | .ipend => push (fun d => (d.berth b).pend.setWidth 64)
  | .trap imm => (d.issued b 1 fed).trap b (if imm.toNat < 0x10 then 0x0F else imm.toNat)
  | .tide => push (fun d => cell d.q.wharf.tide)
  | .berth => push (fun d => match (d.berth b).run with
      | some r => cell (b.toNat + 256 * r.base + 65536 * r.wb.size.toNat)
      | none => 0)
  | .mc => push (fun d => cell (d.berth b).mc)
  | .signal => d.values b 1 0 (fun d' vs rest =>
      (d'.done b len 1 fed (·.withStack rest)).signalOp b ((vs.getD 0 0).setWidth 8))
  | .long op stop => d.longOp b op stop fed
  | .reserved _ => d.havoc b fed

/-- An instruction of the berth's own program: PCRANGE where its bytes reach CODE_LEN (R222), its effect otherwise. -/
def Dom.short (d : Dom) (b : Ix4) (i : Short) : Dom :=
  if (d.berth b).codeLen < (d.berth b).pc + i.len then d.trapNow b 3 else d.shortEffect b false i

/-- The state after berth `b` of polder `p` issues an instruction; unchanged where it issues none now (log entry 4). -/
def State.short (s : State) (p b : Ix4) (i : Short) : State :=
  if (s.pol p).issues b then s.act p (·.short b i) else s

end Sys2Proof.Machine
end

