-- ==== Sys2Proof/Machine/ClockOps.lean ====
section
/-!
DEFINITION. Machine/ClockOps.lean: the Root PLL of a polder, its relocks, its divider steps and the loss of its reference
(05_clocks.md, R123 to R147).
-/
namespace Sys2Proof.Machine

def Dom.onClocks (d : Dom) (f : Clocks → Clocks) : Dom := d.on (fun q => { q with clocks := f q.clocks })

/-- A relock asked for by one of the causes of R129; a divider step still scheduled is taken at its release (R131). -/
def Clocks.askRelock (c : Clocks) : Clocks := { c with relock := .requested, want := none }

/-- RELOCK_REQUEST: steps 1 to 3 of R130. The outputs join SAFE and the PLL leaves lock. The step needs the reference, since SAFE is the
reference: a relock asked for while it is absent (a write to CLK_TEST) waits on the coasting dividers until it is back (log entry 104). -/
def Clocks.joinSafe (c : Clocks) : Clocks :=
  if c.relock = .requested ∧ c.refPresent ∧ !c.refStop then { c with relock := .tuning, safe := true, locked := false } else c

/-- LOCK_DECLARED: step 4 of R130. -/
def Clocks.declareLock (c : Clocks) : Clocks :=
  if c.relock = .tuning ∧ c.refPresent ∧ !c.refStop then { c with relock := .counting } else c

/-- DIVIDER_RELEASE: steps 5 and 6 of R130, with the dividers and N as they stand (R131, R135), and a new window (R160). -/
def Dom.releaseDividers (d : Dom) : Dom :=
  let c := d.q.clocks
  if c.relock = .counting ∧ c.refPresent ∧ !c.refStop then
    let d1 := d.onClocks (fun c => { c with
      relock := .none, boot := false, locked := true, safe := false, want := none
      divCur := BitVec.ofNat 2 (d.q.stored Off.millDiv), testActive := bitOf (d.q.stored Off.clkTest) 0
      window := c.window.restart })
    if c.boot then d1 else (d1.bump Off.relockCount 1).stick Off.clkSticky 2
  else d

/-- LOCK_RETRY (R136): a boot lock not released in time starts again at step 3. -/
def Dom.retryLock (d : Dom) : Dom :=
  let c := d.q.clocks
  if c.boot ∧ (c.relock = .tuning ∨ c.relock = .counting) ∧ !c.refStop then
    (d.onClocks (fun c => { c with relock := .tuning })).bump Off.lockRetryCount 1
  else d

/-- A divider step scheduled is taken at its coincidence point, with a new window (R127, R160). -/
def Clocks.takeStep (c : Clocks) : Clocks :=
  match c.want with
  | some v => { c with divCur := v, want := none, window := c.window.restart }
  | none => c

/-- REF_LOST (R137, R138, R141, R143): a locked PLL coasts, and a divider step in progress completes; outputs on SAFE stop, and a relock in
progress starts again later. A relock asked for that has not yet joined SAFE is taken as one in progress: the outputs stop (log entry 105). -/
def Dom.loseRef (d : Dom) : Dom :=
  let c := d.q.clocks
  if c.refPresent then
    let c1 := { c with refPresent := false, coasting := true, coastLong := false }
    let c2 :=
      if c.locked ∧ c.relock = .none then c1.takeStep
      else { c1 with refStop := true, relock := if c.relock = .none then .none else .requested }
    ((d.onClocks (fun _ => c2)).bump Off.refLossCount 1).stick Off.clkSticky 1
  else d

/-- COAST_LONG: 10 ms of a coast are over (R138). -/
def Dom.coastOn (d : Dom) : Dom :=
  let c := d.q.clocks
  if c.coasting ∧ !c.coastLong then
    (d.onClocks (fun c => { c with coastLong := true })).stick Off.clkSticky 8
  else d

/-- REF_REACQUIRED (R139 to R141): in place with a realignment, by a relock, or, where the loss stopped the outputs, back on SAFE. Outputs that
THERMTRIP# holds stay stopped (R120, R159). `inRange` says whether the 1024 periods were within ±1000 ppm. -/
def Dom.regainRef (d : Dom) (inRange : Bool) : Dom :=
  let c := d.q.clocks
  if c.refPresent then d
  else
    let c1 := { c with refPresent := true, coasting := false, coastLong := false }
    if c.refStop then
      d.onClocks (fun _ => { c1 with
        refStop := false, safe := true, locked := false, relock := if c.relock = .none then .none else .tuning })
    else if inRange ∧ !c.coastLong then ((d.onClocks (fun _ => c1)).bump Off.realignCount 1).stick Off.clkSticky 4
    else d.onClocks (fun _ => c1.askRelock)

/-- A write to MILL_DIV schedules a divider step (R126); during a relock its value is taken at the release (R131). -/
def Dom.scheduleDiv (d : Dom) (v : Nat) : Dom :=
  d.onClocks (fun c => if c.relock = .none ∧ c.locked then { c with want := some (BitVec.ofNat 2 v) } else c)

/-- DIVIDER_STEP (R127, R142). -/
def Clocks.stepDivider (c : Clocks) : Clocks :=
  if c.coasting ∨ c.stopped ∨ c.relock ≠ .none then c else c.takeStep

def execRelockRequest (p : Ix4) (s : State) : Host.Outcome State Fault Refusal :=
  .next (s.act p (fun d => d.onClocks Clocks.joinSafe))

def execLockDeclared (p : Ix4) (s : State) : Host.Outcome State Fault Refusal :=
  .next (s.act p (fun d => d.onClocks Clocks.declareLock))

def execDividerRelease (p : Ix4) (s : State) : Host.Outcome State Fault Refusal := .next (s.act p Dom.releaseDividers)

def execLockRetry (p : Ix4) (s : State) : Host.Outcome State Fault Refusal := .next (s.act p Dom.retryLock)

def execRefLost (p : Ix4) (s : State) : Host.Outcome State Fault Refusal := .next (s.act p Dom.loseRef)

def execCoastLong (p : Ix4) (s : State) : Host.Outcome State Fault Refusal := .next (s.act p Dom.coastOn)

def execRefReacquired (p : Ix4) (inRange : Bool) (s : State) : Host.Outcome State Fault Refusal :=
  .next (s.act p (·.regainRef inRange))

def execDividerStep (p : Ix4) (s : State) : Host.Outcome State Fault Refusal :=
  .next (s.act p (fun d => d.onClocks Clocks.stepDivider))

end Sys2Proof.Machine
end

