-- ==== Sys2Proof/Machine/WharfOps.lean ====
section
/-!
DEFINITION. Machine/WharfOps.lean: the Wharf's reads, checks, admission, preload and code loads, the timeout, slack and doze
(07_tides_and_wharf.md, R181 to R218; 18_watchhouse.md, R548), and what passing time does to a polder.
-/
namespace Sys2Proof.Machine

def Dom.onWharf (d : Dom) (f : Wharf → Wharf) : Dom := d.on (fun q => { q with wharf := f q.wharf })

/-! ## Time -/

/-- Basin time after `dt` ns; a slew runs at 1 − 200 ppm until it is absorbed (R441). -/
def BasinTime.pass (t : BasinTime) (dt : Nat) : BasinTime :=
  if t.valid then
    let lag := min t.slew ((t.slewNs + dt) / 5000 - t.slewNs / 5000)
    { t with now := t.now + (dt - lag), slew := t.slew - lag, slewNs := if t.slew = 0 then 0 else t.slewNs + dt }
  else t

/-- The pulse positions of `dt` ns, from a free number: at most those of the fastest mill clock, and from an epoch on at least one window,
which the slowest, SAFE, covers in 640 ns (R123, R131). Log entry 3. -/
def pulsesIn (dt free : Nat) : Nat :=
  if dt < 1000 then free % (2 * dt + 1) else 64 + free % (2 * dt - 63)

/-- The clocks of a polder over `dt` ns: its windows, the berths that stall, and the counters of mill cycles delivered, of pulses skipped and
of fabric cycles in doze (R160, R549). Log entry 100. -/
def Polder.clockPass (q : Polder) (dt : Nat) : Polder :=
  if q.clocks.stopped then q
  else
    let x := q.free
    if q.dozing.isSome then x.2.event 16 (x.1.toNat % (2 * dt + 1)) none
    else
      let n := pulsesIn dt x.1.toNat
      let q1 := x.2.pulse n
      let done := q1.clocks.window.mills - q.clocks.window.mills
      ((if q.boot = .run then q1.stallAll done else q1).event 1 done none).event 2 (n - done) none

/-- Whether mtime counts: from the entry into CHARTER on (R500), while the polder's clocks run. -/
def Polder.mtimeRuns (q : Polder) : Bool :=
  !q.clocks.stopped && decide (q.boot ≠ .powered) && decide (q.boot ≠ .absent)

/-- A polder after `dt` ns of die time: basin time, the time the Wharf has been idle (R548), and the clocks. -/
def Polder.pass (q : Polder) (now dt : Nat) : Polder :=
  Polder.clockPass { q with
    basin := q.basin.pass dt
    clerks := { q.clerks with
      mtime := if q.mtimeRuns then (q.clerks.mtime + ((now + dt) / 10 - now / 10)) % 2 ^ 64 else q.clerks.mtime }
    wharf := { q.wharf with idleNs := if q.boot = .run ∧ q.wharfIdle then q.wharf.idleNs + dt else 0 } } dt

/-- The die after `dt` ns: the die timebase and every basin time advance (R149). Log entry 3. -/
def State.elapse (s : State) (dt : Nat) : State :=
  { s with polders := s.polders.map (·.pass s.warden.dieTime dt), warden := { s.warden with dieTime := s.warden.dieTime + dt } }

/-- Nanoseconds of a tide. -/
def Polder.tideNs (q : Polder) : Nat := q.stored Off.tidePeriod % 2 ^ 17 * 1000

/-- The tide number at a time (R108). -/
def Polder.tideAt (q : Polder) (ns : Nat) : Nat := ns / q.tideNs

/-! ## Doorbells (R115, R186, R187) -/

/-- The Wharf reads MTAIL of a ring. Where a producer has advanced it to MHEAD, what it reads is undefined (R186). -/
def Dom.readTail (d : Dom) (n : Nat) : Dom :=
  let t := d.readPtr n 0
  let h := d.q.ptr n 1
  let r := d.q.wharf.ring n
  if t.2 = h ∧ (r.mtail % d.q.ringSize n ≠ h ∨ r.moved) then
    let f := t.1.q.free
    { t.1 with q := f.2.onRing n (fun r => { r with mtail := f.1.toNat % d.q.ringSize n, moved := false }) }
  else t.1.on (·.onRing n (fun r => { r with mtail := t.2, moved := false }))

/-- A write of n to DOORBELL: held before OPEN, and the tail read from OPEN on, EN or not. -/
def Dom.ringBell (d : Dom) (n : Nat) : Dom :=
  match d.q.boot with
  | .basinjoin => d.onWharf (fun w => { w with bells := if w.bells.contains n then w.bells else w.bells ++ [n] })
  | .opened | .run => d.readTail n
  | _ => d

/-- The doorbells held until OPEN (R115). -/
def Dom.freeBells (d : Dom) : Dom :=
  (d.each d.q.wharf.bells (fun n d => d.readTail n)).onWharf (fun w => { w with bells := [] })

/-! ## Reading waybills (R182, R183, R188) -/

/-- A waybill as 128 bytes spell it. -/
def Waybill.parse (bs : List Byte) (ring order tide : Nat) : Waybill where
  id := BitVec.ofNat 64 (fieldAt bs 0 8)
  cls := BitVec.ofNat 2 (fieldAt bs 8 1)
  prio := BitVec.ofNat 2 (fieldAt bs 8 1 / 4)
  hold := bitOf (fieldAt bs 8 1) 4
  kind := BitVec.ofNat 6 (fieldAt bs 9 1)
  pclass := BitVec.ofNat 4 (fieldAt bs 0xA 1)
  size := BitVec.ofNat 2 (fieldAt bs 0xA 1 / 16)
  rel := BitVec.ofNat 4 (fieldAt bs 0xB 1)
  noDeadline := bitOf (fieldAt bs 0xB 1) 4
  energy := word (fieldAt bs 0xC 4)
  codeAddr := cell (fieldAt bs 0x10 8)
  codeLen := word (fieldAt bs 0x18 4)
  entry := word (fieldAt bs 0x1C 4)
  ctxAddr := cell (fieldAt bs 0x20 8)
  ctxLen := word (fieldAt bs 0x28 4)
  seedCount := fieldAt bs 0x2C 1
  seeds := (List.range 8).map (fun i => cell (fieldAt bs (0x30 + 8 * i) 8))
  format := BitVec.ofNat 8 (fieldAt bs 0x2D 1)
  ring := ring
  order := order
  readTide := tide
  age := 0
  aged := false
  backfilled := false

/-- The first check of R183 that a waybill fails. -/
def Waybill.malformed (w : Waybill) : Option Nat :=
  let len := w.codeLen.toNat
  if w.format ≠ 1 then some 1
  else if w.noDeadline ∧ w.cls.toNat < 2 then some 2
  else if len < 8 ∨ 131072 < len ∨ len % 8 ≠ 0 ∨ len ≤ w.entry.toNat then some 3
  else if w.codeAddr.toNat % 8 ≠ 0 ∨ w.ctxAddr.toNat % 8 ≠ 0 then some 4
  else if (w.ctxLen ≠ 0 ∧ w.ctxLen ≠ 1024) ∨ 8 < w.seedCount then some 5
  else if w.energy = 0 then some 6
  else none

/-- Whether the Wharf reads a waybill from a ring now (R188, R218). -/
def Polder.ringReady (q : Polder) (n : Nat) : Bool :=
  let r := q.wharf.ring n
  q.ringEn n && decide (r.mtail % q.ringSize n ≠ q.ptr n 1) && q.slotFree n && r.held.isEmpty && !r.stalled &&
    decide (q.wharf.pool.length < 64)

/-- The ring that the Wharf serves next, round robin. -/
def Polder.nextRing (q : Polder) : Option Nat :=
  ((List.range 16).map (fun i => (q.wharf.rr + i) % 16)).find? q.ringReady

/-- A preload whose waybill is no longer first in the order is discarded (R196). -/
def Polder.tidyPreloads (q : Polder) : Polder :=
  let first := q.ordered.head?.map (·.order)
  Ix4.all.foldl (fun q b => q.onBerth b (fun x => match x.pre with
    | some w => if first = some w.order then x else { x with pre := none, preCtx := [] }
    | none => x)) q

/-- A waybill read goes into the pool, or is completed at once (R183). `fit` is its polder's floor plus the pool P of R150. -/
def Dom.takeWaybill (d : Dom) (w : Waybill) (fit : Nat) : Dom :=
  match w.malformed with
  | some k => (d.wharfStick 2).completeUnstarted w .malformed k
  | none =>
    if fit < d.q.wbCurrent w then d.completeUnstarted w .unfit 0
    else (d.onWharf (fun x => { x with pool := x.pool ++ [w], idleNs := 0 })).on (·.tidyPreloads)

/-- WAYBILL_READ. A ring in the host window stalls while the link is down (R218). A waybill that cannot be read otherwise has seeds that
could not be fetched, and completes with FETCHFAIL (R217, R349); its bytes are free (log entry 20). -/
def Dom.readWaybill (d : Dom) (fit : Nat) : Dom :=
  if d.q.boot ≠ .opened ∧ d.q.boot ≠ .run then d
  else match d.q.nextRing with
  | none => d
  | some n =>
    let h := d.readPtr n 1
    let a := d.q.ringBase n + 128 * h.2
    if d.q.region a = some .host ∧ !d.hostUp then
      ((h.1.fetch a 128).1.on (·.onRing n (fun r => { r with stalled := true }))).wharfStick 8
    else
      let x := (h.1.readPtr n 3).1.fetch a 128
      let bs := match x.2 with
        | some bs => (bs, x.1.q)
        | none => x.1.q.freeBytes 128
      let w := Waybill.parse bs.1 n d.q.wharf.orders d.q.wharf.tide
      let d1 := (({ x.1 with q := bs.2.onRing n (fun r => { r with reserved := r.reserved + 1 }) } : Dom).writeCtr32 (d.q.ringPtr n 1)
        ((h.2 + 1) % d.q.ringSize n)).onWharf (fun x => { x with orders := x.orders + 1, rr := (n + 1) % 16 })
      if x.2.isSome then d1.takeWaybill w fit else (d1.wharfStick 1).completeUnstarted w .fetchfail 0

/-! ## Starting a waybill (R182, R195 to R197) -/

/-- The shape table that a context image spells (R182, R233). -/
def ctxShapes (bs : List Byte) : Store (BitVec 256) :=
  (List.range (bs.length / 32)).foldl (fun m i =>
    Store.put m i (shapeEntry (BitVec.ofNat 256 (leNat ((bs.drop (32 * i)).take 32)))) 0) []

/-- Code and context of a waybill; the inner none where a fetch fails (R217). -/
def Dom.fetchCode (d : Dom) (w : Waybill) : Dom × Option (List Byte × List Byte) :=
  let c := d.fetch w.codeAddr.toNat w.codeLen.toNat
  match c.2 with
  | none => (c.1, none)
  | some code =>
    if w.ctxLen = 0 then (c.1, some (code, []))
    else
      let x := c.1.fetch w.ctxAddr.toNat 1024
      (x.1, x.2.map (fun ctx => (code, ctx)))

/-- A waybill's berth and group taken; it does not run yet. -/
def Polder.seat (q : Polder) (b : Ix4) (w : Waybill) (base : Nat) : Polder :=
  q.onBerth b (fun x => { x with
    phase := .loading
    run := some { wb := w, base := base, mills := millsOf w.size, startTide := q.wharf.tide, started := false, enNum := 0, enDen := 1 } })

/-- The half that holds the code becomes active, and the waybill's first instruction follows (R182, R197). -/
def Berth.start (x : Berth) (ctx : List Byte) (tide : Nat) : Berth :=
  match x.run with
  | none => x
  | some r =>
    { x with
      phase := .running
      half := !x.half
      run := some { r with started := true, startTide := tide }
      codeLen := r.wb.codeLen.toNat
      pc := r.wb.entry.toNat
      stack := ((r.wb.seeds.take r.wb.seedCount).map (fun v => (⟨v, 0⟩ : Slot))).reverse
      rstack := []
      shapes := ctxShapes ctx
      tallies := List.replicate 16 0
      halted := x.armed
      armed := false
      pre := none
      preCtx := [] }

/-- Code in the inactive half. -/
def Berth.loadHalf (x : Berth) (code : List Byte) : Berth :=
  if x.half then { x with code0 := code } else { x with code1 := code }

/-- The waybill of a berth starts, its tallies zero in the mirror too (R235, R237). -/
def Dom.startRun (d : Dom) (b : Ix4) (ctx : List Byte) : Dom :=
  (d.onBerth b (·.start ctx d.q.wharf.tide)).mirrorNew b (d.berth b).tallies

/-- The START record (R546), and the HALT record where an armed halt takes the berth (R539). -/
def Dom.startRecord (d : Dom) (b : Ix4) : Dom :=
  match (d.berth b).run with
  | none => d
  | some r =>
    let d1 := d.log 5 8 (natLe 8 r.wb.id.toNat ++ natLe 1 b.toNat ++ natLe 1 (r.base + 64 * r.wb.size.toNat))
    if (d.berth b).halted then d1.log 8 b.toNat (natLe 4 (d.berth b).pc) else d1

/-- The waybill removed from the pool and from every other berth's preload. -/
def Polder.unpool (q : Polder) (b : Ix4) (w : Waybill) : Polder :=
  let q1 := { q with wharf := { q.wharf with pool := q.wharf.pool.filter (fun x => decide (x.order ≠ w.order)) } }
  Ix4.all.foldl (fun q i => if i = b then q else q.onBerth i (fun x => match x.pre with
    | some v => if v.order = w.order then { x with pre := none, preCtx := [] } else x
    | none => x)) q1

/-- ADMISSION: one waybill, in order or backfilled (R190 to R197). -/
def Dom.admitNext (d : Dom) : Dom :=
  if d.q.wharf.admitting && d.q.dozing.isNone then
    match d.q.pick with
    | none => d
    | some (w0, back) =>
      let w := { w0 with backfilled := back }
      match d.q.berthFor w, d.q.freeGroup (millsOf w.size) with
      | some b, some base =>
        let held := match (d.berth b).pre with
          | some v => decide (v.order = w.order)
          | none => false
        let ctx := (d.berth b).preCtx
        let d1 := (d.on (fun q => (q.unpool b w).seat b w base)).bump Off.admitCount 1
        let d2 := (if back then d1.bump Off.backfillCount 1 else d1).event 0x0F 1 none
        if held then (d2.startRun b ctx).startRecord b
        else d2.onBerth b (fun x => { x with pre := none, preCtx := [] })
      | _, _ => d
  else d

/-- A waybill that holds a berth ends FETCHFAIL (R217). -/
def Dom.fetchFail (d : Dom) (b : Ix4) : Dom := (d.wharfStick 1).cancelRun b .fetchfail 0

/-- CODE_LOAD_DONE (R197, R217). -/
def Dom.codeLoaded (d : Dom) (b : Ix4) : Dom :=
  let x := d.berth b
  match x.phase, x.run with
  | .loading, some r =>
    if d.q.boot ≠ .run ∨ x.impounded then d
    else
      let c := d.fetchCode r.wb
      match c.2 with
      | none => c.1.fetchFail b
      | some (code, ctx) =>
        ((c.1.onBerth b (·.loadHalf code)).startRun b ctx).startRecord b
  | _, _ => d

/-- PRELOAD (R196): the first candidate of the order, while it is blocked, into the lowest-numbered busy berth with no preload. A berth whose
own code still loads has no half for one. -/
def Dom.preload (d0 : Dom) : Dom :=
  let d := d0.on (·.tidyPreloads)
  if d.q.boot ≠ .run then d
  else match d.q.ordered with
  | [] => d
  | w :: _ =>
    let holds := d.q.berths.toList.any (fun x => match x.pre with
      | some v => decide (v.order = w.order)
      | none => false)
    let free := Ix4.all.find? (fun b => let x := d.berth b; x.run.isSome && x.pre.isNone && !x.impounded && decide (x.phase ≠ .loading))
    match free with
    | none => d
    | some b =>
      if holds || d.q.admissible w then d
      else
        let c := d.fetchCode w
        match c.2 with
        | some (code, ctx) =>
          c.1.onBerth b (fun x => { x.loadHalf code with pre := some w, preCtx := ctx })
        | none =>
          ((c.1.wharfStick 1).on (fun q => { q with wharf := { q.wharf with
            pool := q.wharf.pool.filter (fun x => decide (x.order ≠ w.order)) } })).completeUnstarted w .fetchfail 0

/-! ## Timeout (R207, R212) -/

/-- Whether the waybill of a berth can reach WATCH_LIMIT now: it waits, or its count is there. -/
def Polder.canTimeOut (q : Polder) (b : Ix4) : Bool :=
  let x := q.berths.get b
  let waits := match x.phase with
    | .waitt _ _ _ _ | .yielded | .wideStall | .draining => true
    | _ => false
  q.millsRun && !x.impounded && !x.halted && (match x.run with
    | some r => r.started
    | none => false) && (waits || decide (q.watchLimit ≤ x.used))

/-- TIMEOUT: the count is brought up to WATCH_LIMIT, the cycles of a stall counted (R229, R277). -/
def Dom.timeOut (d : Dom) (b : Ix4) : Dom :=
  if d.q.canTimeOut b then
    (((d.stall b (d.q.watchLimit - (d.berth b).used)).onBerth b (fun x => { x with used := d.q.watchLimit })).bump Off.timeoutCount 1).cancelRun
      b .timeout 0
  else d

/-! ## Slack (R206) -/

/-- Whether the slack interrupt falls due: in RUN, not frozen, from SLACK_US before the next boundary up to it; of a boundary that is skipped
none falls due (R208). -/
def Dom.slackDue (d : Dom) : Bool :=
  let sl := d.q.stored Off.slack % 2 ^ 17 * 1000
  decide (d.q.boot = .run) && !d.q.wharf.frozen && !d.q.wharf.slackFired && decide (sl ≠ 0) &&
    decide ((d.q.wharf.tide + 1) * d.q.tideNs ≤ d.basinNs + sl) &&
    decide (d.basinNs < (d.q.wharf.tide + 1) * d.q.tideNs)

/-- An interrupt source of every berth that runs a waybill (R241). -/
def Polder.raiseAll (q : Polder) (src : Nat) : Polder :=
  Ix4.all.foldl (fun q b => q.onBerth b (fun x => match x.run with
    | some r => if r.started then x.raise src else x
    | none => x)) q

def Dom.slackFire (d : Dom) : Dom :=
  if d.slackDue then
    (((d.onWharf (fun w => { w with slackFired := true })).msix 2).source 2).on (·.raiseAll 0)
  else d

/-! ## Doze (R163, R548, R552) -/

/-- DOZE: no grant, or a Wharf idle for DOZE_IDLE µs with no berth halted. DOZING is no boot state: vector 0 is not sent (log entry 116). -/
def Dom.doze (d : Dom) : Dom :=
  let q := d.q
  let noGrant := decide (q.wharf.grant = 0)
  let lim := q.stored Off.dozeIdle % 2 ^ 16 * 1000
  let noWork := q.wharfIdle && decide (lim ≠ 0) && decide (lim ≤ q.wharf.idleNs) && q.berths.toList.all (fun x => !x.halted)
  if q.boot = .run ∧ q.dozing = none ∧ (noGrant || noWork) then
    ((d.onWharf (fun w => { w with admitting := false })).log 3 8
      (natLe 1 (bit noGrant) ++ [0] ++ natLe 2 q.wharf.grant ++ natLe 2 q.req)).on (fun q =>
        { q with dozing := some noGrant, watch := { q.watch with dozeStart := d.now } })
  else d

/-- WAKE: work arrived with a grant, or a grant returned. -/
def Dom.wake (d : Dom) : Dom :=
  match d.q.dozing with
  | none => d
  | some noGrant =>
    if d.q.wharf.grant ≠ 0 ∧ (noGrant ∨ !d.q.wharf.pool.isEmpty) then
      (((d.onClocks (fun c => { c with window := c.window.restart })).log 4 8
        (natLe 1 (bit noGrant) ++ zeros 7 ++ natLe 8 (d.now - d.q.watch.dozeStart))).sync.on (fun q => { q with dozing := none })).onWharf (fun w => { w with admitting := true, idleNs := 0 })
    else d

/-! ## The commands -/

def execAdmission (p : Ix4) (s : State) : Host.Outcome State Fault Refusal := .next (s.actOn p Dom.admitNext)

def execPreload (p : Ix4) (s : State) : Host.Outcome State Fault Refusal := .next (s.actOn p Dom.preload)

def execCodeLoadDone (p b : Ix4) (s : State) : Host.Outcome State Fault Refusal := .next (s.actOn p (·.codeLoaded b))

def execSlack (p : Ix4) (dt : Nat) (s : State) : Host.Outcome State Fault Refusal :=
  .next ((s.elapse dt).actOn p Dom.slackFire)

def execDoze (p : Ix4) (s : State) : Host.Outcome State Fault Refusal := .next (s.actOn p Dom.doze)

def execWake (p : Ix4) (s : State) : Host.Outcome State Fault Refusal := .next (s.actOn p Dom.wake)

end Sys2Proof.Machine
end

