-- ==== Sys2Proof/Machine/WardenOps.lean ====
section
/-!
DEFINITION. Machine/WardenOps.lean: the Warden's epoch, its sensors, regulators and pins (06_warden.md, R148 to R180).
-/
namespace Sys2Proof.Machine

/-! ## Sticky bits, counters, messages of PF4 -/

def State.onPf4 (s : State) (f : HostFn → HostFn) : State := { s with pf4 := f s.pf4 }

/-- The event of a vector of PF4 (R519). -/
def State.msix4 (s : State) (v : Nat) : State := s.onPf4 (·.raise v)

def State.msix4Times (s : State) (v : Nat) : (n : Nat) → State
  | 0 => s
  | n + 1 => (s.msix4 v).msix4Times v n

def wSticky : Nat := 0x0C

def Warden.wreg (w : Warden) (o : Nat) : Nat := (Store.getD w.wregs o 0).toNat

def Warden.setWreg (w : Warden) (o v : Nat) : Warden := { w with wregs := Store.put w.wregs o (word v) 0 }

/-- WARDEN_STICKY bits set; each that goes from 0 to 1 sends vector 0. -/
def State.wstick (s : State) (m : Nat) : State :=
  let old := s.warden.wreg wSticky
  (s.onWarden (·.setWreg wSticky (old ||| m))).msix4Times 0 (popcount 32 (m - (m &&& old)))

/-- A 48-bit counter of the Warden incremented (R74). -/
def Warden.bump (w : Warden) (o n : Nat) : Warden :=
  let hi := w.wreg (o + 4)
  let v := w.wreg o + 2 ^ 32 * (hi % 2 ^ 16) + n
  let fl := hi / 2 ^ 16 % 4
  (w.setWreg o (v % 2 ^ 32)).setWreg (o + 4) (v / 2 ^ 32 % 2 ^ 16 + 2 ^ 16 * (if v < 2 ^ 48 then fl else fl ||| 1))

def State.wbump (s : State) (o n : Nat) : State := s.onWarden (·.bump o n)

/-! ## Inputs of the polders -/

/-- LIVE (R154). -/
def Polder.live (q : Polder) : Nat :=
  match q.boot with
  | .run => 1
  | .stranded | .absent => 2
  | _ => 0

/-- P (R150), from the LIVE states last sampled. -/
def Warden.pool (w : Warden) : Nat :=
  w.budget - (Ix4.all.map (fun n => if w.live.get n = 2 then 0 else w.floors.get n)).sum

/-! ## Temperature (R158, R176) -/

/-- T in 1/16 °C: the highest reading, or T_HARD where a sensor is not valid. -/
def Warden.tempOf (w : Warden) (ts : List (Option Int)) : Int :=
  if ts.all (·.isSome) then (ts.filterMap id).foldl max (-4096) else 16 * (w.tHard : Int)

/-- P′ before the halving of R165. -/
def Warden.derated (w : Warden) (p : Nat) (t : Int) : Nat :=
  let soft : Int := 16 * w.tSoft
  let hard : Int := 16 * w.tHard
  if t < soft then p
  else if hard ≤ t then 0
  else ((p : Int) * (hard - t) / (hard - soft)).toNat

/-! ## Division (R155, R170) -/

/-- The largest level L at which the shares fit. -/
def levelOf (es : List Nat) (p : Nat) : Nat :=
  ((List.range (p + 1)).reverse.find? (fun l => decide ((es.map (fun e => min e l)).sum ≤ p))).getD 0

/-- Shares of the pool: all excesses where they fit, or else equal shares with the remainder from polder `start` on. -/
def shares (es : Quad Nat) (p start : Nat) : Quad Nat :=
  if es.toList.sum ≤ p then es
  else
    let l := levelOf es.toList p
    let base := es.map (fun e => min e l)
    ((List.range 4).foldl (fun acc i =>
      let n := Ix4.of (start + i)
      if 0 < acc.2 ∧ acc.1.get n < es.get n then (acc.1.set n (acc.1.get n + 1), acc.2 - 1) else acc)
      (base, p - base.toList.sum)).1

/-- The grants of an epoch (R151, R155, R170); none to a polder that is not in RUN, and none before WARDEN_LOCK, before which no polder
leaves POWERED (R179). -/
def Warden.divide (w : Warden) (live req : Quad Nat) (p pEff epoch : Nat) : Quad Nat :=
  let ex (n : Ix4) : Nat := if live.get n = 1 then min (req.get n) (p + w.floors.get n) - w.floors.get n else 0
  let sh := shares ⟨ex .i0, ex .i1, ex .i2, ex .i3⟩ pEff (epoch % 4)
  let g (n : Ix4) : Nat := if live.get n = 1 ∧ !w.thermtrip ∧ w.lock then w.floors.get n + sh.get n else 0
  ⟨g .i0, g .i1, g .i2, g .i3⟩

/-! ## Governors (R157, R162, R164, R177) -/

/-- The skip level from the estimate and the grant (R162). An estimate is below 0 where more current has ended than the monitor showed. -/
def governor (s : Nat) (e : Int) (g : Nat) : Nat :=
  if (g : Int) < e then min 56 (s + ceilDiv (64 * (e.toNat - g)) e.toNat)
  else if e < (g : Int) - 4 ∧ 0 < s then s - 1
  else s

/-- A monitor reading as the Warden uses it: scaled (R157), or the declared current plus 25 % where it is invalid (R176). Where the product is
no whole number of grant units the spec names no rounding: both round down (log entry 106). -/
def Warden.corrected (w : Warden) (raw : Option Nat) (declared : Nat) : Nat :=
  match raw with
  | some v => v * w.scaleNum / w.scaleDen
  | none => declared * 5 / 4

/-! ## Energy (R198) -/

/-- A run's energy after an epoch: IMON × d ÷ Σd × 3/8 µJ is added. -/
def Run.charge (r : Run) (imon d total : Nat) : Run :=
  if total = 0 then r
  else
    let num := r.enNum * (8 * total) + 3 * imon * d * r.enDen
    let den := r.enDen * (8 * total)
    let k := Nat.gcd num den
    if k = 0 then r else { r with enNum := num / k, enDen := den / k }

/-- The waybills that run on a polder, charged with an epoch's current. -/
def Polder.charge (q : Polder) (imon : Nat) : Polder :=
  let total := q.runCurrent
  Ix4.all.foldl (fun q b => q.onBerth b (fun x => match x.running with
    | some r => if r.started then { x with run := some (r.charge imon (q.wbCurrent r.wb) total) } else x
    | none => x)) q

/-! ## The epoch (R153, R172) -/

/-- THERMTRIP# asserts (R159): clocks stop, grants are withdrawn. -/
def State.trip (s : State) : State :=
  if s.warden.thermtrip then s
  else
    ({ s with
      polders := s.polders.map (fun (q : Polder) => ({ q with clocks := ({ q.clocks with tripped := true } : Clocks), wharf := { q.wharf with grant := 0 } } : Polder))
      warden := { s.warden with
        thermtrip := true, tripHeld := true, grant := Quad.const 0, nextGrant := Quad.const 0 } }).msix4 1

/-- A skip level delivered to a governor: its next window takes it (R160). -/
def Polder.giveSkip (q : Polder) (n : Nat) : Polder := { q with clocks := { q.clocks with window := { q.clocks.window with next := n } } }

/-- Step 4 of the epoch before: the grants delivered take effect, and each governor's next window takes its skip level (R153, R160). -/
def State.takeGrants (s : State) : State :=
  let w := s.warden
  let g (n : Ix4) : Nat := if (s.pol n).live = 1 ∧ !w.thermtrip then w.nextGrant.get n else 0
  let gs : Quad Nat := ⟨g .i0, g .i1, g .i2, g .i3⟩
  let pol (n : Ix4) : Polder := { (s.pol n).giveSkip (w.nextSkip.get n) with wharf := { (s.pol n).wharf with grant := gs.get n } }
  { s with
    polders := ⟨pol .i0, pol .i1, pol .i2, pol .i3⟩
    warden := { w with grant := gs, skip := w.nextSkip } }

/-- Steps 1 and 2, at the start of an epoch. -/
def State.evaluate (s : State) (x : Sample) : State :=
  let w := s.warden
  let live := s.polders.map Polder.live
  let req := s.polders.map (fun q => if q.boot = .run then q.req else 0)
  let run := s.polders.map Polder.runCurrent
  let w1 := { w with live := live }
  let p := w1.pool
  let bad := x.temps.any (·.isNone)
  let t := w.tempOf x.temps
  let soft : Int := 16 * w.tSoft
  let hard : Int := 16 * w.tHard
  let d := w.derated p t
  let pEff := if w.vrHalved.toList.any id then d / 2 else d
  let imon (n : Ix4) : Nat := w.corrected (x.imon.get n) (run.get n)
  let imons : Quad Nat := ⟨imon .i0, imon .i1, imon .i2, imon .i3⟩
  let rawSum := (Ix4.all.map (fun n => (x.imon.get n).getD (imon n))).sum
  let total := imons.toList.sum
  let ob := w.overB && decide (w.budget ≤ total)
  let grants := w.divide live req p pEff w.epoch
  let skip (n : Ix4) : Nat :=
    if w.vrForce then 48
    else if live.get n ≠ 1 then 0
    else
      let e : Int := if w.rawWindow then imon n else imon n + (run.get n : Int) - w.declared.get n
      let s0 := governor (w.nextSkip.get n) e (grants.get n)
      if ob ∧ grants.get n < imon n then min 56 (s0 + 4) else s0
  let w2 := { w1 with
    req := req, imon := imons, imonBad := x.imon.map (·.isNone), temp := t, pEff := pEff, derating := decide (soft ≤ t)
    declared := run, rawSum := rawSum, nextGrant := grants, nextSkip := ⟨skip .i0, skip .i1, skip .i2, skip .i3⟩
    overRun := if w.budget < total then w.overRun + 1 else 0, overB := ob }
  let pol (n : Ix4) : Polder := (s.pol n).charge (imon n)
  let s1 := { s with polders := ⟨pol .i0, pol .i1, pol .i2, pol .i3⟩, warden := w2 }
  let s2 := if pEff < p then s1.wbump 0x98 1 else s1
  s2.wstick (4 * bit (decide (soft ≤ t) && decide (w.temp < soft)) + 8 * bit (decide (hard ≤ t) && decide (w.temp < hard))
    + 32 * bit bad)

/-- WARDEN_EPOCH: time reaches the next epoch, grants take effect, and the pool is divided. -/
def State.wardenEpoch (s : State) (x : Sample) : State :=
  let s1 := s.elapse (1000 - s.warden.dieTime % 1000)
  let s2 := (s1.onWarden (fun w => { w with epoch := w.epoch + 1 })).takeGrants
  let s3 := s2.evaluate x
  if x.temps.all (·.isNone) then s3.trip else s3

/-! ## Pins and regulators (R164 to R167) -/

/-- VR_HOT# asserts: quarter rate everywhere. -/
def State.vrHot (s : State) : State :=
  (({ s with
    polders := s.polders.map (fun (q : Polder) => q.giveSkip 48)
    warden := { s.warden with vrHotPin := true, vrForce := true, skip := Quad.const 48, nextSkip := Quad.const 48 } }).wbump
      0x90 1).wstick 1

/-- VR_HOT# has stayed deasserted for 10 epochs: a governor resumes from its level, and a polder that is not in RUN goes back to 0 (R162,
R164). -/
def State.coolDown (s : State) : State :=
  if s.warden.vrForce then
    let lv (n : Ix4) (k : Nat) : Nat := if s.warden.live.get n = 1 then k else 0
    let w := s.warden
    let pol (n : Ix4) : Polder := (s.pol n).giveSkip (lv n (s.pol n).clocks.window.next)
    { s with
      polders := ⟨pol .i0, pol .i1, pol .i2, pol .i3⟩
      warden := { w with
        vrHotPin := false, vrForce := false
        skip := ⟨lv .i0 w.skip.a0, lv .i1 w.skip.a1, lv .i2 w.skip.a2, lv .i3 w.skip.a3⟩
        nextSkip := ⟨lv .i0 w.nextSkip.a0, lv .i1 w.nextSkip.a1, lv .i2 w.nextSkip.a2, lv .i3 w.nextSkip.a3⟩ } }
  else s

/-- 7-bit address of regulator n as configured; 0 is unused. -/
def Warden.configured (w : Warden) (n : Ix4) : Bool := decide (w.pmbusAddr.get n ≠ 0)

/-- A regulator answers or not: the third failure in a row sets PMBUS_ERR and stops the correction (R167). -/
def State.answered (s : State) (n : Ix4) (ok : Bool) : State :=
  let m := s.warden.misses.get n + 1
  if ok then s.onWarden (fun w => { w with misses := w.misses.set n 0 })
  else if m < 3 then s.onWarden (fun w => { w with misses := w.misses.set n m })
  else
    ((s.onWarden (fun w => { w with misses := w.misses.set n 0, corrOff := true })).wbump 0xA8 1).wstick 16

/-- Every configured regulator's answer to a poll. -/
def State.polled (s : State) (ans : Quad (Option (BitVec 16))) : State :=
  Ix4.all.foldl (fun s n => if s.warden.configured n then s.answered n (ans.get n).isSome else s) s

/-- LINEAR11 as a multiple of 2^−16. -/
def linear11 (v : BitVec 16) : Int :=
  let e : Int := (v.extractLsb' 11 5).toInt
  (v.extractLsb' 0 11).toInt * 2 ^ (e + 16).toNat

/-- Answers of configured regulators. -/
def Warden.readings (w : Warden) (ans : Quad (Option (BitVec 16))) : List Int :=
  Ix4.all.filterMap (fun n => if w.configured n then (ans.get n).map linear11 else none)

/-- The scale factor of R157: READ_IOUT over the monitors' sum, in 0.75 to 1.25. -/
def Warden.rescale (w : Warden) (sum : Int) : Warden :=
  let num := sum.toNat
  let den := 32768 * w.rawSum
  if w.rawSum = 0 then w
  else if 4 * num < 3 * den then { w with scaleNum := 3, scaleDen := 4 }
  else if 5 * den < 4 * num then { w with scaleNum := 5, scaleDen := 4 }
  else { w with scaleNum := num, scaleDen := den }

/-- READ_IOUT (R157, R166). The factor follows a poll that every configured regulator answered. -/
def State.readIout (s : State) (ans : Quad (Option (BitVec 16))) : State :=
  let s1 := s.polled ans
  let rs := s1.warden.readings ans
  let full := Ix4.all.all (fun n => !s1.warden.configured n || (ans.get n).isSome)
  s1.onWarden (fun w =>
    let w1 := { w with iout := (rs.sum / 4096).toNat }
    if full && !w.corrOff && !rs.isEmpty then w1.rescale rs.sum else w1)

/-- READ_TEMPERATURE_1 (R166): the highest reading, in 1/16 °C. -/
def State.readTemp (s : State) (ans : Quad (Option (BitVec 16))) : State :=
  let s1 := s.polled ans
  s1.onWarden (fun w => match w.readings ans with
    | [] => w
    | r :: rs => { w with vrTemp := (rs.foldl max r) / 4096 })

/-- VR_ALERT# asserts: STATUS_WORD of every configured regulator is to be read (R165). -/
def State.vrAlert (s : State) : State :=
  (s.onWarden (fun w => { w with vrAlertPin := true, vrUnread := Quad.const true })).wstick 2

/-- STATUS_WORD of regulator `n` read clean: CLEAR_FAULTS ends its alert. The line stays asserted while another configured regulator is still
to be read or still reports (R165). -/
def Warden.clearFaults (w : Warden) (n : Ix4) : Warden :=
  let w1 := { w with vrUnread := w.vrUnread.set n false, vrHalved := w.vrHalved.set n false }
  { w1 with vrAlertPin := w1.vrAlertPin && Ix4.all.any (fun m => w1.configured m && (w1.vrUnread.get m || w1.vrHalved.get m)) }

/-- CAL_LOST (R148). -/
def State.calLost (s : State) : State :=
  ({ s with peRefclk := false, warden := { s.warden with clkCal := false } }).wstick 128

/-- PCIE_REFCLK_RETURN (R148). -/
def State.calBack (s : State) : State := { s with peRefclk := true, warden := { s.warden with clkCal := true } }

/-- OVERBUDGET (R177): eight epochs in a row over the budget. -/
def State.overBudget (s : State) : State :=
  if 8 ≤ s.warden.overRun ∧ !s.warden.overB then
    ((s.onWarden (fun w => { w with overB := true })).wbump 0xA0 1).wstick 64
  else s

def execWardenEpoch (x : Sample) (s : State) : Host.Outcome State Fault Refusal := .next (s.wardenEpoch x)

def execOverbudget (s : State) : Host.Outcome State Fault Refusal := .next s.overBudget

def execVrHot (s : State) : Host.Outcome State Fault Refusal := .next s.vrHot

def execVrHotRelease (s : State) : Host.Outcome State Fault Refusal := .next s.coolDown

def execVrAlert (s : State) : Host.Outcome State Fault Refusal := .next s.vrAlert

def execReadIout (ans : Quad (Option (BitVec 16))) (s : State) : Host.Outcome State Fault Refusal := .next (s.readIout ans)

def execReadTemperature1 (ans : Quad (Option (BitVec 16))) (s : State) : Host.Outcome State Fault Refusal :=
  .next (s.readTemp ans)

def execCalLost (s : State) : Host.Outcome State Fault Refusal := .next s.calLost

def execPcieRefclkReturn (s : State) : Host.Outcome State Fault Refusal := .next s.calBack

def execRawWindowEnd (s : State) : Host.Outcome State Fault Refusal :=
  .next (s.onWarden (fun w => { w with rawWindow := false }))

def execThermtrip (s : State) : Host.Outcome State Fault Refusal := .next s.trip

/-- WAYBILL_READ (R183): the polder's floor and the pool decide UNFIT. -/
def execWaybillRead (p : Ix4) (s : State) : Host.Outcome State Fault Refusal :=
  .next (s.actOn p (·.readWaybill (s.warden.floors.get p + s.warden.pool)))

end Sys2Proof.Machine
end

