-- ==== Sys2Proof/Machine/LockOps.lean ====
section
/-!
DEFINITION. Machine/LockOps.lean: frames and tags (R424 to R428), routes and the roster (R457 to R461), streams and acknowledgement
(R466 to R470), landing (R469), reduce (R472, R473), stale frames (R474, R475), and what an accepted DATA, URGENT or ACK frame does.
-/
namespace Sys2Proof.Machine

/-! ## Frames -/

/-- The 32 bytes of a header (R426). -/
def frameHeader (f : Frame) : List Byte :=
  natLe 1 (f.typ.toNat + 16 * f.version.toNat) ++ natLe 1 (bit f.part + 2 * bit f.relayed + 4 * bit f.multicast)
    ++ natLe 2 f.xmit.toNat ++ natLe 2 f.src.toNat ++ natLe 2 f.dst.toNat ++ natLe 1 f.sgrid.toNat ++ natLe 1 f.dgrid.toNat
    ++ natLe 2 f.payload.length ++ natLe 4 f.tide.toNat ++ natLe 4 f.seq.toNat ++ natLe 4 f.opinfo.toNat
    ++ natLe 2 (f.slot.toNat + 256 * f.wave.toNat) ++ natLe 2 f.sf.toNat ++ zeros 4

/-- The key slot at an offset of the Charter block, byte 0 first. An empty slot holds zeros. -/
def Polder.keyAt (q : Polder) (o n : Nat) : List Byte := (List.range (n / 4)).flatMap (fun i => natLe 4 (q.stored (o + 4 * i)))

/-- The tag of a frame under the polder's keys (R428), as the number its 8 bytes spell. -/
def Polder.tagOf (q : Polder) (f : Frame) : BitVec 64 :=
  BitVec.ofNat 64 (leNat ((cmac (q.keyAt (if f.part then 0x10090 else 0x10080) 16) (frameHeader f ++ f.payload)).take 8))

/-- A frame's bytes with its tag. -/
def Polder.frameBytes (q : Polder) (f : Frame) : List Byte := frameHeader f ++ f.payload ++ natLe 8 (q.tagOf f).toNat

/-- A frame from bytes of a harbour entry, and its tag (R479). -/
def parseFrame (bs : List Byte) : Frame × BitVec 64 :=
  let len := fieldAt bs 10 2 % 4096
  ({ typ := BitVec.ofNat 4 (fieldAt bs 0 1), version := BitVec.ofNat 4 (fieldAt bs 0 1 / 16), part := bitOf (fieldAt bs 1 1) 0
     relayed := bitOf (fieldAt bs 1 1) 1, multicast := bitOf (fieldAt bs 1 1) 2, xmit := BitVec.ofNat 12 (fieldAt bs 2 2)
     src := BitVec.ofNat 12 (fieldAt bs 4 2), dst := BitVec.ofNat 12 (fieldAt bs 6 2), sgrid := BitVec.ofNat 6 (fieldAt bs 8 1)
     dgrid := BitVec.ofNat 6 (fieldAt bs 9 1), tide := word (fieldAt bs 12 4), seq := word (fieldAt bs 16 4)
     opinfo := word (fieldAt bs 20 4), slot := BitVec.ofNat 6 (fieldAt bs 24 2), wave := BitVec.ofNat 4 (fieldAt bs 24 2 / 256)
     sf := BitVec.ofNat 16 (fieldAt bs 26 2), payload := (bs.drop 32).take len },
   BitVec.ofNat 64 (fieldAt bs (32 + len) 8))

/-- OP of OPINFO (R466). -/
def frameOp (f : Frame) : Nat := f.opinfo.toNat % 16

/-- The kind of the stream a frame belongs to (R467). -/
def frameKind (f : Frame) : Nat :=
  if frameOp f = 3 then 3 else if frameOp f = 2 then 2 else if f.multicast then 1 else 0

/-- The segment header (R465). -/
def segHeader (raddr : Nat) (rnote tag : Word) : List Byte := natLe 8 raddr ++ natLe 4 rnote.toNat ++ natLe 4 tag.toNat

def segRaddr (f : Frame) : Nat := fieldAt f.payload 0 8 % 2 ^ 48

def segRnote (f : Frame) : Word := word (fieldAt f.payload 8 4)

def segTag (f : Frame) : Word := word (fieldAt f.payload 12 4)

def segData (f : Frame) : List Byte := f.payload.drop 16

/-! ## Addresses, roster, groups -/

def Polder.addr (q : Polder) : BitVec 12 := BitVec.ofNat 12 (q.stored 0xC)

def Polder.grid (q : Polder) : BitVec 6 := BitVec.ofNat 6 (q.stored 0xC / 2 ^ 12)

def rowOf (a : BitVec 12) : Nat := a.toNat / 64

def colOf (a : BitVec 12) : Nat := a.toNat % 64

def Polder.inRoster (q : Polder) (a : BitVec 12) (g : BitVec 6) : Bool := q.lock.roster.contains (g ++ a)

def Polder.groupRows (q : Polder) (g : Nat) : Nat := q.stored64 (Off.lock + 0x100 + 16 * g)

def Polder.groupCols (q : Polder) (g : Nat) : Nat := q.stored64 (Off.lock + 0x108 + 16 * g)

/-- Whether a polder of the grid is a member of group `g` (R471). -/
def Polder.member (q : Polder) (g : Nat) (a : BitVec 12) : Bool := bitOf (q.groupRows g) (rowOf a) && bitOf (q.groupCols g) (colOf a)

/-- The members of a group. -/
def Polder.members (q : Polder) (g : Nat) : List (BitVec 12) :=
  ((List.range 4096).map (BitVec.ofNat 12)).filter (q.member g)

/-- GROUP_OK (R461): every polder of each group is in the roster. -/
def Polder.computeGroupOk (q : Polder) : Polder :=
  let ok (g : Nat) : Bool := (q.members g).all (fun a => q.inRoster a q.grid)
  { q with lock := { q.lock with
    groupOk := BitVec.ofNat 64 ((List.range 64).map (fun g => if ok g then 2 ^ g else 0)).sum } }

/-- The first hop of a unicast frame (R457, R460, R479): none for the polder itself. -/
def Polder.route (q : Polder) (dst : BitVec 12) (dgrid : BitVec 6) (alt : Bool) : Option Via :=
  if dgrid ≠ q.grid then some .harbour
  else if dst = q.addr then none
  else if rowOf dst = rowOf q.addr then some (.cell .r)
  else if colOf dst = colOf q.addr then some (.cell .c)
  else some (.cell (if alt then .c else .r))

/-- The side a multicast frame of the polder also goes out on, with RELAYED set (R471): the other one, where the group reaches there. -/
def Polder.spreads (q : Polder) (g : Nat) (sd : Side) : Bool :=
  match sd with
  | .r => bitOf (q.groupCols g) (colOf q.addr) && decide (q.groupRows g % 2 ^ 64 ≠ 2 ^ rowOf q.addr) && decide (q.groupRows g ≠ 0)
  | .c => bitOf (q.groupRows g) (rowOf q.addr) && decide (q.groupCols g % 2 ^ 64 ≠ 2 ^ colOf q.addr) && decide (q.groupCols g ≠ 0)

/-! ## Tides of frames (R474, R475) -/

/-- Whether a frame's deadline tide is below tide `t`. -/
def staleAt (tide opinfo : Word) (t : Nat) : Bool :=
  let d : Nat := (tide.toNat + opinfo.toNat / 16 % 16) % 2 ^ 32
  let x := (t % 2 ^ 32 + 2 ^ 32 - d) % 2 ^ 32
  !opinfo.getLsbD 8 && decide (1 ≤ x) && decide (x < 2 ^ 31)

/-- The tide that 32 bits of it stand for, near tide `t` (R475). -/
def tideNear (t : Nat) (w : Word) : Nat :=
  let x := (t % 2 ^ 32 + 2 ^ 32 - w.toNat) % 2 ^ 32
  if x < 2 ^ 31 then t - x else t + (2 ^ 32 - x)

/-- A frame as it is first launched, in tide `t`: TIDE is that of the launch, and DLOFS still gives the deadline tide (R426, R466, R474). A
frame whose deadline has passed goes out as it was formed. A GLROW frame says in OPINFO[22:16] how many tides ago its rows were read (log
entry 25). -/
def launched (f : Frame) (t : Nat) : Frame :=
  let age := (t % 2 ^ 32 + 2 ^ 32 - f.tide.toNat) % 2 ^ 32
  let ofs := f.opinfo.toNat / 16 % 16
  if !f.part then { f with tide := word t }
  else if !f.opinfo.getLsbD 8 && decide (ofs < age) then f
  else
    let info := f.opinfo.toNat - (if f.opinfo.getLsbD 8 then 0 else 16 * age) + (if frameOp f = 5 then 2 ^ 16 * min age 127 else 0)
    { f with tide := word t, opinfo := word info }

/-- OPINFO's DLOFS and NODL for a deadline tide (R466). -/
def deadlineInfo (deadline : Option Nat) (t : Nat) : Nat :=
  match deadline with
  | some d => 16 * ((d - t) % 16)
  | none => 256

def Dom.onLock (d : Dom) (f : Lock → Lock) : Dom := d.on (fun q => { q with lock := f q.lock })

/-- LOCK_STICKY and a Lock counter. -/
def Dom.lockEvent (d : Dom) (m sticky : Nat) : Dom := (d.bump (Off.lockCount m) 1).stick Off.lockSticky sticky

/-! ## Receive streams (R467, R468) -/

/-- Whether a frame has landed. -/
def RxStream.has (r : RxStream) (seq : Word) : Bool :=
  let x := (seq - r.base).toNat
  decide (2 ^ 31 ≤ x) || (decide (1 ≤ x) && decide (x ≤ 64) && r.bitmap.getLsbD (x - 1))

/-- BASE moved past the frames that have landed. -/
def slideBase : (fuel : Nat) → Word → BitVec 64 → Word × BitVec 64
  | 0, b, m => (b, m)
  | n + 1, b, m => if m.getLsbD 0 then slideBase n (b + 1) (m >>> 1) else (b + 1, m >>> 1)

/-- A frame landed. -/
def RxStream.mark (r : RxStream) (seq : Word) : RxStream :=
  let x := (seq - r.base).toNat
  if x = 0 then
    let s := slideBase 65 r.base r.bitmap
    { r with base := s.1, bitmap := s.2 }
  else if x ≤ 64 then { r with bitmap := r.bitmap ||| (1#64 <<< (x - 1)) }
  else r

def RxStream.is (r : RxStream) (origin : BitVec 12) (ogrid : BitVec 6) (target : BitVec 12) (kind : Nat) : Bool :=
  decide (r.origin = origin) && decide (r.ogrid = ogrid) && decide (r.target = target) && decide (r.kind = kind)

/-- The receive stream of a key; one never seen starts at SEQ 0 (log entry 22). -/
def Polder.rxOf (q : Polder) (origin : BitVec 12) (ogrid : BitVec 6) (target : BitVec 12) (kind : Nat) : RxStream :=
  (q.lock.rx.find? (·.is origin ogrid target kind)).getD ⟨origin, ogrid, target, kind, 0, 0, none, none⟩

def Polder.setRx (q : Polder) (r : RxStream) : Polder :=
  { q with lock := { q.lock with rx := r :: q.lock.rx.filter (fun x => !x.is r.origin r.ogrid r.target r.kind) } }

def Polder.rxFrame (q : Polder) (f : Frame) : RxStream := q.rxOf f.src f.sgrid f.dst (frameKind f)

/-- The stream's window (R467, R468): a SYNC frame restarts it; a frame beyond it or already landed is dropped. The answer says whether the
frame is to be taken. -/
def Dom.rxAdmit (d : Dom) (sd : Side) (f : Frame) (sf : Nat) : Dom × Bool :=
  let r0 := d.q.rxFrame f
  let r := if f.opinfo.getLsbD 9 then { r0 with base := f.seq, bitmap := 0, reject := none } else r0
  let d1 := d.on (·.setRx r)
  if r.has f.seq then ((d1.on (·.setRx { r with due := some sf })).bump (Off.xfCount sd 5) 1, false)
  else if 65 ≤ (f.seq - r.base).toNat then (d1.bump (Off.xfCount sd 6) 1, false)
  else (d1, true)

/-- A frame of a stream landed, or was rejected: its next ACK says so. -/
def Polder.rxDone (q : Polder) (origin : BitVec 12) (ogrid : BitVec 6) (target : BitVec 12) (kind : Nat) (seq : Word) (ok : Bool)
    (sf : Nat) : Polder :=
  let r := q.rxOf origin ogrid target kind
  q.setRx (if ok then { r.mark seq with due := some sf } else { r with reject := some 0, due := some sf })

def Polder.rxFrameDone (q : Polder) (f : Frame) (ok : Bool) (sf : Nat) : Polder :=
  q.rxDone f.src f.sgrid f.dst (frameKind f) f.seq ok sf

/-- A frame refused for a reason that its ACK gives: 1 an uncorrectable error, 2 a table that is not usable (R383; log entry 123). -/
def Polder.rxRefuse (q : Polder) (f : Frame) (why : Nat) (sf : Nat) : Polder :=
  q.setRx { q.rxFrame f with reject := some why, due := some sf }

/-! ## Landing (R469, R483, R484) -/

/-- Whether an enabled inbound window takes a segment, and its region does. -/
def Polder.landable (q : Polder) (a n : Nat) : Bool :=
  (List.range 4).any (fun i =>
    let base := q.stored64 (Off.lock + 0x40 + 16 * i)
    bitOf base 63 && decide (base % 2 ^ 48 ≤ a) && decide (a + n ≤ q.stored64 (Off.lock + 0x48 + 16 * i) % 2 ^ 48 + 1)) &&
  (match q.populated a n true with
    | some .granary | some .counter => true
    | some .hbm => decide (a + n ≤ q.poolBase)
    | _ => false)

/-- What becomes of a segment. -/
inductive Landing where
  | landed | rejected | lost
deriving DecidableEq, Repr

/-- The RNOTE cell rises by the byte count (R469, R483); nothing where it is uncorrectable. -/
def Dom.rnoteAdd (d : Dom) (rnote : Word) (n : Nat) : Dom × Bool :=
  if rnote.getLsbD 31 then
    let a := counterBase + rnote.toNat / 8 % 2 ^ 18 * 8
    let x := d.eccRead .counter a 8
    if x.2 then (x.1, false) else ((x.1.writeCtr a (natLe 8 ((d.q.mem.readNat a 8 + n) % 2 ^ 64))).1, true)
  else (d, true)

/-- A segment written through the engine port, and its RNOTE (R469). Where a unit it meets is uncorrectable, nothing is written there and the
frame stays unacknowledged (R349, R487). -/
def Dom.landSegment (d : Dom) (raddr : Nat) (rnote : Word) (data : List Byte) : Dom × Landing :=
  if d.q.landable raddr data.length then
    let x := d.deposit raddr data
    if x.2 then
      let y := x.1.rnoteAdd rnote data.length
      (y.1, if y.2 then .landed else .lost)
    else (x.1, .lost)
  else (d.lockEvent 7 16, .rejected)

/-- A frame of a stream taken to memory. -/
def Dom.landFrame (d : Dom) (sd : Side) (f : Frame) (sf : Nat) : Dom :=
  let x := d.rxAdmit sd f sf
  if x.2 then
    let l := x.1.landSegment (segRaddr f) (segRnote f) (segData f)
    match l.2 with
    | .landed => l.1.on (·.rxFrameDone f true sf)
    | .rejected => l.1.on (·.rxFrameDone f false sf)
    | .lost => l.1
  else x.1

/-- A reserved OP (R466, R15): what the segment leaves in the memory it names is unspecified. -/
def Dom.landReserved (d : Dom) (sd : Side) (f : Frame) (sf : Nat) : Dom :=
  let x := d.rxAdmit sd f sf
  let n := (segData f).length
  if x.2 && x.1.q.landable (segRaddr f) n then
    x.1.on (fun q => (q.scramble (segRaddr f) n).rxFrameDone f true sf)
  else x.1

/-! ## Transmit streams -/

def TxStream.is (t : TxStream) (target : BitVec 12) (tgrid : BitVec 6) (kind : Nat) : Bool :=
  decide (t.target = target) && decide (t.tgrid = tgrid) && decide (t.kind = kind)

def Polder.txOf (q : Polder) (target : BitVec 12) (tgrid : BitVec 6) (kind : Nat) : TxStream :=
  (q.lock.tx.find? (·.is target tgrid kind)).getD ⟨target, tgrid, kind, 0, true, []⟩

def Polder.setTx (q : Polder) (t : TxStream) : Polder :=
  { q with lock := { q.lock with tx := t :: q.lock.tx.filter (fun x => !x.is t.target t.tgrid t.kind) } }

/-- A retained frame as it goes out: SYNC is set until its stream has had its first ACK (R467). -/
def Polder.synced (q : Polder) (f : Frame) : Frame :=
  { f with opinfo := if (q.txOf f.dst f.dgrid (frameKind f)).sync then f.opinfo ||| 512#32 else f.opinfo &&& ~~~512#32 }

/-- A token no operation or set has. -/
def Polder.token (q : Polder) : Nat × Polder :=
  (q.lock.tokens, { q with lock := { q.lock with tokens := q.lock.tokens + 1 } })

/-- A DATA or URGENT frame of the polder, before its cell is known (R426, R465, R466). -/
def Polder.mkFrame (q : Polder) (typ : BitVec 4) (dst : BitVec 12) (dgrid : BitVec 6) (multicast sync : Bool) (seq : Word)
    (info : Nat) (payload : List Byte) : Frame where
  typ := typ
  version := 1
  part := true
  relayed := false
  multicast := multicast
  xmit := q.addr
  src := q.addr
  dst := dst
  sgrid := q.grid
  dgrid := dgrid
  tide := word q.wharf.tide
  seq := seq
  opinfo := word (info + 512 * bit sync)
  slot := 0
  wave := 0
  sf := 0
  payload := payload

/-- A new frame on a stream: it takes the next SEQ and is retained until `waits` have acknowledged it. -/
def Polder.retain (q : Polder) (typ : BitVec 4) (target : BitVec 12) (tgrid : BitVec 6) (kind info token : Nat) (via : Via)
    (waits : List (BitVec 12)) (payload : List Byte) : Polder :=
  let t := q.txOf target tgrid kind
  let f := q.mkFrame typ target tgrid (decide (kind = 1)) t.sync t.next info payload
  q.setTx { t with
    next := t.next + 1
    frames := t.frames ++ [⟨f, token, if via = .inside then 1 else 0, decide (via ≠ .inside), via, waits, 0⟩] }

/-- Frames of a token dropped from the retain pools. -/
def Polder.freeFrames (q : Polder) (token : Nat) : Polder :=
  { q with lock := { q.lock with
    tx := q.lock.tx.map (fun t => { t with frames := t.frames.filter (fun f => decide (f.token ≠ token)) }) } }

/-- The trap that ends an operation of the Gleaner whose frames fail with a RESULT code, for the reason that an ACK gives (R383). -/
def GlOp.failure (o : GlOp) (code why : Nat) : Nat :=
  if code = 1 then 0xC else if why = 1 ∨ (why ≠ 2 ∧ o.func < 0x20) then 0xA else if why = 2 then 0xB else 0xD

/-- An operation of the XFER unit or the Gleaner fails with a RESULT code (R464, R383). -/
def Dom.failToken (d : Dom) (token code why : Nat) : Dom :=
  let gl := d.q.gleaner.ops.any (fun o => decide (o.token = token))
  let d1 := d.on (fun q =>
    let q1 := q.freeFrames token
    { q1 with
      lock := { q1.lock with xfer := q1.lock.xfer.map (fun o =>
        if o.token = token then { o with code := some (o.code.getD code) } else o) }
      gleaner := { q1.gleaner with ops := q1.gleaner.ops.map (fun o =>
        if o.token = token then { o with fail := some (o.fail.getD (o.failure code why)) } else o) } })
  if gl && decide (code = 1) then d1.stick Off.glSticky 16 else d1

/-! ## Reduce (R472, R473) -/

def ReduceSet.is (x : ReduceSet) (final : Bool) (dst : BitVec 12) (tag : Word) (raddr : Nat) : Bool :=
  decide (x.final = final) && decide (x.dst = dst) && decide (x.tag = tag) && decide (x.raddr = raddr)

/-- Bytes a set takes in the relay pool. -/
def ReduceSet.size (x : ReduceSet) : Nat := (x.contribs.map (fun c => 40 + 16 + c.data.length)).sum

/-- Bytes in the Lock relay pool (R476). -/
def Polder.relayUsed (q : Polder) : Nat :=
  (q.lock.relayQ.fst.map (fun h => frameSize h.frame)).sum + (q.lock.relayQ.snd.map (fun h => frameSize h.frame)).sum
    + (q.lock.sets.map (·.size)).sum

def relayPool : Nat := 0x200000

/-- The five pools of the sluice-pool region (R338). -/
inductive Pool where
  | rx (sd : Side) | retain (sd : Side) | relay
deriving DecidableEq, Repr

/-- A pool's offset in the region, and its size. -/
def Pool.span : Pool → Nat × Nat
  | .rx .r => (0, 0x600000)
  | .rx .c => (0x600000, 0x600000)
  | .retain .r => (0xC00000, 0x140000)
  | .retain .c => (0xD40000, 0x140000)
  | .relay => (0xE80000, relayPool)

/-- An entry written to a pool: where in it the rules do not say, so that what the pool's range of the region holds is unspecified (R338,
R339). Log entry 132. -/
def Polder.usePool (q : Polder) (k : Pool) : Polder := q.unspecified (q.poolBase + k.span.1) k.span.2

/-- An entry read from a pool. An uncorrectable error, or a stack that is DOWN, costs the entry where it meets it (R349, R351, R487); which
entry that is, the rules leave open with its place. Log entry 132. -/
def Dom.poolRead (d : Dom) (k : Pool) : Dom × Bool :=
  let a := d.q.poolBase + k.span.1
  if d.q.hbmWaits .hbm a k.span.2 then ({ d with waits := true }, false)
  else if d.q.stackDown .hbm a k.span.2 || (d.q.badUnits .hbm a k.span.2).any (fun e => decide (e.2 ≠ 1)) then
    ({ d with q := d.q.free.2 }, d.q.free.1.getLsbD 0)
  else (d, true)

/-- The lanes of a set summed in ascending source order (aggregators of a column rise with their rows). -/
def ReduceSet.sum (x : ReduceSet) (int32 : Bool) : List Byte :=
  let cs := x.contribs.foldr (insertBy (fun a b => decide (a.src.toNat ≤ b.src.toNat))) []
  let lanes (c : Contribution) : List Word := (pieces 4 (c.data.length + 1) c.data).map (fun p => word (leNat p))
  match cs with
  | [] => []
  | c :: rest =>
    ((rest.foldl (fun acc k => (acc.zip (lanes k)).map (fun p => if int32 then p.1 + p.2 else f32add p.1 p.2)) (lanes c)).flatMap
      (fun w => natLe 4 w.toNat))

def ReduceSet.isInt (x : ReduceSet) : Bool := x.int32.getD (Config.reduceInt x.opinfo x.tag)

def Polder.dropSet (q : Polder) (x : ReduceSet) : Polder :=
  { q with lock := { q.lock with sets := q.lock.sets.filter (fun y => !y.is x.final x.dst x.tag x.raddr) } }

def Polder.putSet (q : Polder) (x : ReduceSet) : Polder :=
  let q1 := q.dropSet x
  { q1 with lock := { q1.lock with sets := q1.lock.sets ++ [x] } }

/-- The polder's own contribution acknowledged, or refused. -/
def Dom.ackOwn (d : Dom) (dst : BitVec 12) (kind : Nat) (seq : Word) (ok : Bool) : Dom :=
  let t := d.q.txOf dst d.q.grid kind
  match t.frames.find? (fun f => decide (f.frame.seq = seq)) with
  | none => d
  | some f =>
    if ok then d.on (·.setTx { t with sync := false, frames := t.frames.filter (fun g => decide (g.frame.seq ≠ seq)) })
    else d.failToken f.token 2 0

/-- The contributions of an aggregator's set are acknowledged, or refused, and the set is gone (R473). -/
def Dom.settleSet (d : Dom) (x : ReduceSet) (ok : Bool) (sf : Nat) : Dom :=
  (x.contribs.foldl (fun d c =>
    if c.src = d.q.addr then d.ackOwn x.dst 2 c.seq ok
    else d.on (·.rxDone c.src d.q.grid x.dst 2 c.seq ok sf)) d).on (·.dropSet x)

/-- A destination's set is complete: the sum lands, and the row-sums are acknowledged. -/
def Dom.finishSet (d : Dom) (x : ReduceSet) (sf : Nat) : Dom :=
  let l := d.landSegment x.raddr x.rnote (x.sum x.isInt)
  match l.2 with
  | .lost => l.1.on (·.dropSet x)
  | r =>
    let ok := decide (r = .landed)
    (x.contribs.foldl (fun d c =>
      if c.src = d.q.addr then
        match d.q.lock.sets.find? (·.is false x.dst x.tag x.raddr) with
        | some y => d.settleSet y ok sf
        | none => d
      else d.on (·.rxDone c.src d.q.grid x.dst 3 c.seq ok sf)) l.1).on (·.dropSet x)

/-- A set with a contribution added; none where they disagree and the set is discarded. -/
def ReduceSet.add (x : ReduceSet) (nrow ncol : Nat) (c : Contribution) : Option ReduceSet :=
  if x.nrow = nrow ∧ x.ncol = ncol then
    some (if x.contribs.any (fun k => decide (k.src = c.src)) then x else { x with contribs := x.contribs ++ [c] })
  else none

/-- A row-sum reaches the destination's set. -/
def Dom.addRowSum (d : Dom) (x0 : ReduceSet) (c : Contribution) (sf : Nat) : Dom :=
  let x := (d.q.lock.sets.find? (·.is true x0.dst x0.tag x0.raddr)).getD { x0 with final := true, contribs := [], sent := none }
  if relayPool < d.q.relayUsed + 56 + c.data.length then d.lockEvent 1 1
  else match x.add x.nrow x0.ncol c with
  | none => (d.on (·.dropSet x)).lockEvent 4 4
  | some y =>
    if y.contribs.length < y.ncol then d.on (·.putSet y)
    else (d.bump (Off.lockCount 3) 1).finishSet y sf

/-- An aggregator's set is complete: its row-sum goes to the destination, on the column basin or internally. -/
def Dom.sendRowSum (d : Dom) (x : ReduceSet) (sf : Nat) : Dom :=
  let data := x.sum x.isInt
  let d1 := d.bump (Off.lockCount 3) 1
  if rowOf x.dst = rowOf d.q.addr then (d1.on (·.putSet x)).addRowSum x ⟨d.q.addr, 0, data⟩ sf
  else
    let dl : Nat := (x.tide.toNat + x.opinfo.toNat / 16 % 16 + 2 ^ 32 - d.q.wharf.tide % 2 ^ 32) % 16
    let info := 3 + 16 * dl + 256 * bit (x.opinfo.getLsbD 8) + x.ncol * 2 ^ 23
    d1.on (fun q =>
      let tk := q.token
      let seq := (tk.2.txOf x.dst q.grid 3).next
      (tk.2.putSet { x with sent := some seq }).retain 0 x.dst q.grid 3 info tk.1 (.cell .c) [x.dst]
        (segHeader x.raddr x.rnote x.tag ++ data))

/-- A contribution reaches its aggregator. -/
def Dom.addContribution (d : Dom) (x0 : ReduceSet) (c : Contribution) (sf : Nat) : Dom :=
  let x := (d.q.lock.sets.find? (·.is false x0.dst x0.tag x0.raddr)).getD x0
  if relayPool < d.q.relayUsed + 56 + c.data.length then d.lockEvent 1 1
  else match x.add x0.nrow x0.ncol c with
  | none => (d.on (·.dropSet x)).lockEvent 4 4
  | some y =>
    let z := if y.int32.isNone then { y with int32 := x0.int32 } else y
    if z.sent.isSome || decide (z.contribs.length < z.nrow) then d.on (·.putSet z) else d.sendRowSum z sf

/-- The set a reduce frame opens. -/
def frameSet (f : Frame) (final : Bool) (born : Nat) : ReduceSet where
  final := final
  dst := f.dst
  tag := segTag f
  raddr := segRaddr f
  rnote := segRnote f
  nrow := f.opinfo.toNat / 2 ^ 16 % 128
  ncol := f.opinfo.toNat / 2 ^ 23 % 128
  int32 := none
  tide := f.tide
  opinfo := f.opinfo
  contribs := []
  sent := none
  born := born

/-- Reduce sets whose deadline tide has passed are discarded; each counts in STALE of the sluice that its frames come by (R474, R475). -/
def Dom.purgeSets (d : Dom) : Dom :=
  let dead (x : ReduceSet) : Bool := staleAt x.tide x.opinfo d.q.wharf.tide
  let n (final : Bool) : Nat := d.q.lock.sets.countP (fun x => dead x && decide (x.final = final))
  ((d.onLock (fun l => { l with sets := l.sets.filter (fun x => !dead x) })).bump (Off.xfCount .r 4) (n false)).bump (Off.xfCount .c 4) (n true)

/-! ## Accepted frames (R458 to R461) -/

/-- Queues a frame for the other basin (R459, R476). -/
def Dom.relay (d : Dom) (sd : Side) (h : Heard) : Dom :=
  if d.q.boot ≠ .opened ∧ d.q.boot ≠ .run then d
  else if !d.q.inRoster h.frame.src h.frame.sgrid || !(h.frame.multicast || d.q.inRoster h.frame.dst h.frame.dgrid) then
    d.lockEvent 2 2
  else if relayPool < d.q.relayUsed + frameSize h.frame then d.lockEvent 1 1
  else (d.on (·.usePool .relay)).onLock (fun l => { l with
    relayQ := l.relayQ.set sd.other (l.relayQ.get sd.other ++ [{ h with frame := { h.frame with relayed := true } }]) })

/-- Whether a unicast frame heard on a side is to be relayed here (R458). -/
def Polder.relays (q : Polder) (sd : Side) (f : Frame) : Bool :=
  !f.relayed &&
    (match sd with
      | .r => decide (colOf f.dst = colOf q.addr) && decide (rowOf f.dst ≠ rowOf q.addr)
      | .c => decide (rowOf f.dst = rowOf q.addr) && decide (colOf f.dst ≠ colOf q.addr))

/-- Whether the frame is for this polder (R458). -/
def Polder.forUs (q : Polder) (f : Frame) : Bool :=
  if f.multicast then q.member (f.dst.toNat % 64) q.addr && decide (f.src ≠ q.addr) else decide (f.dst = q.addr)

/-- Delivery of a DATA or URGENT frame. -/
def Dom.deliver (d : Dom) (sd : Side) (f : Frame) (sf : Nat) : Dom :=
  if !d.q.inRoster f.src f.sgrid then d.lockEvent 7 16
  else if frameOp f ≤ 1 then d.landFrame sd f sf
  else if 7 ≤ frameOp f then d.landReserved sd f sf
  else d

/-- A reduce contribution or row-sum that is for this polder. -/
def Dom.reduceFrame (d : Dom) (sd : Side) (f : Frame) (sf : Nat) : Dom :=
  if !d.q.inRoster f.src f.sgrid then d.lockEvent 7 16
  else
    let x := d.rxAdmit sd f sf
    if !x.2 then x.1
    else
      let y := x.1.on (·.usePool .relay)
      if frameOp f = 2 then y.addContribution (frameSet f false y.now) ⟨f.src, f.seq, segData f⟩ sf
      else y.addRowSum (frameSet f true y.now) ⟨f.src, f.seq, segData f⟩ sf

/-- Whether a multicast frame heard on a side is to be relayed here (R471). -/
def Polder.spreadsHeard (q : Polder) (sd : Side) (f : Frame) : Bool :=
  !f.relayed && decide (f.src ≠ q.addr) && q.spreads (f.dst.toNat % 64) sd

/-- Whether an accepted frame is passed on to the other basin (R458, R471). -/
def Polder.passesOn (q : Polder) (sd : Side) (f : Frame) : Bool := if f.multicast then q.spreadsHeard sd f else q.relays sd f

/-- Whether an accepted DATA or URGENT frame heard on a side concerns this polder at all (R458, R472). -/
def Polder.concerns (q : Polder) (sd : Side) (f : Frame) : Bool :=
  if frameOp f = 2 then decide (sd = .r) && decide (colOf f.dst = colOf q.addr)
  else if frameOp f = 3 then decide (f.dst = q.addr)
  else q.forUs f || q.passesOn sd f

/-- What the Lock makes of an accepted DATA or URGENT frame heard on a side. A frame that it neither delivers, relays nor aggregates it
ignores; one that is stale it discards (R458, R474). -/
def Dom.takeFrame (d0 : Dom) (sd : Side) (h : Heard) : Dom :=
  let d := d0.purgeSets
  let f := h.frame
  if !d.q.concerns sd f then d
  else if staleAt f.tide f.opinfo d.q.wharf.tide then d.bump (Off.xfCount sd 4) 1
  else if frameOp f = 2 ∨ frameOp f = 3 then d.reduceFrame sd f h.sf
  else
    let d1 := if d.q.forUs f then d.deliver sd f h.sf else d
    if d.q.passesOn sd f then d1.relay sd h else d1

/-! ## Acknowledgements (R470) -/

/-- The entries of an ACK payload. -/
def ackEntries (bs : List Byte) : List (List Byte) := (pieces 24 86 bs).filter (fun e => decide (e.length = 24))

/-- Whether an entry covers a SEQ. -/
def ackCovers (base : Word) (bitmap : BitVec 64) (seq : Word) : Bool :=
  let x := (seq - base).toNat
  decide (2 ^ 31 ≤ x) || (decide (1 ≤ x) && decide (x ≤ 64) && bitmap.getLsbD (x - 1))

/-- An entry that names this polder, from the receiver `who`. -/
def Dom.ackEntry (d : Dom) (who : BitVec 12) (sgrid : BitVec 6) (sf : Nat) (e : List Byte) : Dom :=
  if BitVec.ofNat 12 (fieldAt e 0 2) ≠ d.q.addr then d
  else
    let target := BitVec.ofNat 12 (fieldAt e 2 2)
    let kind := fieldAt e 4 1 % 4
    let reject := bitOf (fieldAt e 4 1) 7
    let t := d.q.txOf target (if kind = 1 then d.q.grid else sgrid) kind
    let base := word (fieldAt e 8 4)
    let bm := BitVec.ofNat 64 (fieldAt e 16 8)
    let left := t.frames.map (fun f =>
      if ackCovers base bm f.frame.seq then { f with waits := f.waits.filter (fun a => decide (a ≠ who)) } else f)
    let gone := left.filter (fun f => f.waits.isEmpty)
    let keep := left.filter (fun f => !f.waits.isEmpty)
    let d1 := if d.q.lock.tx.any (·.is t.target t.tgrid t.kind) then d.on (·.setTx { t with sync := false, frames := keep }) else d
    let settle (d : Dom) (ok : Bool) (seq : Word) : Dom :=
      match d.q.lock.sets.find? (fun x => !x.final && decide (x.dst = target) && decide (x.sent = some seq)) with
      | some x => d.settleSet x ok sf
      | none => d
    let d2 := if kind = 3 then gone.foldl (fun d f => settle d true f.frame.seq) d1 else d1
    match reject, keep with
    | true, f :: _ =>
      if kind = 3 then (settle d2 false f.frame.seq).on (·.freeFrames f.token) else d2.failToken f.token 2 (fieldAt e 4 1 / 32 % 4)
    | _, _ => d2

/-- An ACK delivered here. -/
def Dom.takeAckHere (d : Dom) (f : Frame) (sf : Nat) : Dom :=
  if !d.q.inRoster f.src f.sgrid then d.lockEvent 7 16
  else (ackEntries f.payload).foldl (fun d e => d.ackEntry f.src f.sgrid sf e) d

/-- What the Lock makes of an accepted ACK frame. -/
def Dom.takeAck (d : Dom) (sd : Side) (h : Heard) : Dom :=
  let f := h.frame
  let d1 := if d.q.forUs f then d.takeAckHere f h.sf else d
  if d.q.passesOn sd f then d1.relay sd h else d1

/-- The entry of a stream in an ACK payload. -/
def RxStream.entry (r : RxStream) : List Byte :=
  natLe 2 r.origin.toNat ++ natLe 2 r.target.toNat ++ natLe 1 (r.kind + (match r.reject with
      | some why => 128 + 32 * (why % 4)
      | none => 0)) ++ zeros 3 ++ natLe 4 r.base.toNat
    ++ zeros 4 ++ natLe 8 r.bitmap.toNat

/-- The oldest frame of a sluice's receive pool that meets a test, and the polder without it. -/
def Polder.popInbox (q : Polder) (sd : Side) (t : Heard → Bool) : Option (Heard × Polder) :=
  let l := (q.sluices.get sd).inbox
  match l.findIdx? t with
  | some i =>
    match l[i]? with
    | some h => some (h, q.onSluice sd (fun x => { x with inbox := l.eraseIdx i }))
    | none => none
  | none => none

/-- A Gleaner frame for this polder: its own commands take it (R478). -/
def Polder.glFrame (q : Polder) (f : Frame) : Bool :=
  decide (4 ≤ frameOp f) && decide (frameOp f ≤ 6) && !f.multicast && decide (f.dst = q.addr)

/-- DATA or URGENT: the oldest accepted frame of that type. -/
def Dom.dataFrame (d : Dom) (sd : Side) (typ : BitVec 4) : Dom :=
  match d.q.popInbox sd (fun h => decide (h.frame.typ = typ) && !d.q.glFrame h.frame) with
  | some (h, q) =>
    let x := ({ d with q := q } : Dom).poolRead (.rx sd)
    if x.2 then x.1.takeFrame sd h else x.1
  | none => d

/-- ACK: the oldest accepted ACK frame. -/
def Dom.ackFrame (d : Dom) (sd : Side) : Dom :=
  match d.q.popInbox sd (fun h => decide (h.frame.typ = 1)) with
  | some (h, q) =>
    let x := ({ d with q := q } : Dom).poolRead (.rx sd)
    if x.2 then x.1.takeAck sd h else x.1
  | none => d

/-- Whether `n` superframes have passed since a die time. -/
def Dom.superframesSince (d : Dom) (t n : Nat) : Bool := decide (t + 12288 * n ≤ d.now)

/-- REDUCE_DROP: the n-th set, incomplete for REDUCE_HOLD superframes (R473). -/
def Dom.reduceDrop (d : Dom) (n : Nat) : Dom :=
  let hold := d.q.stored (Off.lock + 0xC) % 2 ^ 16
  match (d.q.lock.sets.filter (fun x => x.sent.isNone && d.superframesSince x.born hold)).drop n with
  | x :: _ => (d.on (·.dropSet x)).lockEvent 4 4
  | [] => d

/-- Superframes after its last launch at which an unacknowledged frame is sent again: RETX_DIRECT, RETX_RELAY for a relayed route, HARB_RETX
for a harbour frame (R468, R479). A multicast frame is relayed where its group has members off the origin's own basin. -/
def Polder.retxAfter (q : Polder) (f : TxFrame) : Nat :=
  let x := fun sd => q.stored (Off.sluice sd + 0x100)
  let direct (a : BitVec 12) : Bool := decide (rowOf a = rowOf q.addr) || decide (colOf a = colOf q.addr)
  match f.via with
  | .cell sd =>
    if frameOp f.frame = 2 ∨ (if f.frame.multicast then f.waits.all direct else direct f.frame.dst) then x sd % 256 else x sd / 256 % 256
  | .harbour => q.stored (Off.lock + 0xC) / 2 ^ 16
  | .inside => 0

/-- RETRANSMIT or HARB_RETX: the n-th frame sent on a way, and not acknowledged within its interval, is sent again, or fails its operation
(R468). -/
def Dom.resend (d : Dom) (via : Via) (sd : Side) (n : Nat) : Dom :=
  let due := (d.q.lock.tx.flatMap (·.frames)).filter (fun f => decide (f.via = via) && decide (1 ≤ f.sends) && !f.queued &&
    d.superframesSince f.at_ (d.q.retxAfter f))
  match due.drop n with
  | [] => d
  | f :: _ =>
    if d.q.stored (Off.sluice sd + 0x100) / 2 ^ 16 % 256 ≤ f.sends then
      ((d.failToken f.token 1 0).on (fun q => { q.freeFrames f.token with lock := { (q.freeFrames f.token).lock with
        sets := q.lock.sets.filter (fun x => !(decide (frameOp f.frame = 3) && decide (x.dst = f.frame.dst) &&
          decide (x.sent = some f.frame.seq))) } })).stick Off.lockSticky 8
    else
      (d.onLock (fun l => { l with tx := l.tx.map (fun t => { t with frames := t.frames.map (fun g =>
        if g.frame = f.frame ∧ g.token = f.token then { g with queued := true } else g) }) })).bump (Off.xfCount sd 2) 1

def execData (p : Ix4) (sd : Side) (s : State) : Host.Outcome State Fault Refusal := .next (s.actOn p (·.dataFrame sd 0))

def execUrgent (p : Ix4) (sd : Side) (s : State) : Host.Outcome State Fault Refusal := .next (s.actOn p (·.dataFrame sd 4))

def execAck (p : Ix4) (sd : Side) (s : State) : Host.Outcome State Fault Refusal := .next (s.actOn p (·.ackFrame sd))

def execReduceDrop (p : Ix4) (n : Nat) (s : State) : Host.Outcome State Fault Refusal := .next (s.actOn p (·.reduceDrop n))

end Sys2Proof.Machine
end

