-- ==== Sys2Proof/Machine/Basin.lean ====
section
/-!
DEFINITION. Machine/Basin.lean: the sluices (14_basin_medium.md, R417 to R456): classification, contention, joins, maps, mastership,
basin time, calibration, and the sending of cells (R477).
-/
namespace Sys2Proof.Machine

def Dom.sluice (d : Dom) (sd : Side) : Sluice := d.q.sluices.get sd

def Dom.onSluice (d : Dom) (sd : Side) (f : Sluice → Sluice) : Dom := d.on (·.onSluice sd f)

/-- A sticky bit of a sluice. -/
def Dom.slStick (d : Dom) (sd : Side) (m : Nat) : Dom := d.stick (Off.sluice sd + 4) m

def Dom.slBump (d : Dom) (sd : Side) (m n : Nat) : Dom := d.bump (Off.slCount sd m) n

/-- Medium time of a sluice, and its superframe number (R420, R440). -/
def Dom.mediumNs (d : Dom) (sd : Side) : Nat := ((d.now : Int) + (d.sluice sd).medium).toNat

def superNs : Nat := 12288

def Dom.sfNow (d : Dom) (sd : Side) : Nat := d.mediumNs sd / superNs

/-- The slot that runs (R420). -/
def Dom.slotNow (d : Dom) (sd : Side) : Nat := d.mediumNs sd % superNs / 192

/-- The cell of a wavelength in the slot that runs. -/
def Dom.cellNow (d : Dom) (sd : Side) (wave : Nat) : CellAt := ⟨d.slotNow sd, wave, d.sfNow sd⟩

/-- The die time at which a slot starts at the coupler. -/
def Dom.slotStart (d : Dom) (sd : Side) (sf slot : Nat) : Int := (superNs * sf + 192 * slot : Nat) - (d.sluice sd).medium

/-- One number for a slot of a superframe. -/
def slotNo (sf slot : Nat) : Nat := 64 * sf + slot

/-- Whether modulator `w` is free in a slot: not driven there yet, and fewer than 4 others are (R418, R445). -/
def Sluice.canDrive (x : Sluice) (key w : Nat) : Bool :=
  decide (x.slotKey ≠ key) || (decide (x.driven.length < 4) && !x.driven.contains w)

/-- The position of a polder's port on its basin (R437). -/
def Polder.position (q : Polder) (sd : Side) : Nat :=
  match sd with
  | .r => colOf q.addr
  | .c => rowOf q.addr

/-! ## Maps and cells (R421, R422, R434, R435) -/

/-- The map that governs a superframe. -/
def Sluice.mapFor (x : Sluice) (sf : Nat) : Option BasinMap :=
  [x.mapNow, x.mapNext].findSome? (fun m => match m with
    | some v => if v.sf = sf % 2 ^ 32 then some v else none
    | none => none)

/-- The index a reserved cell is assigned to, 127 for none. -/
def BasinMap.at (m : BasinMap) (slot wave : Nat) : Nat := m.cells.getD ((slot - 5) * 16 + wave) 127

/-- The lowest free index of a port table, if one is free. -/
def freeIndex (ports : Store (BitVec 12)) : Option Nat := (List.range 64).find? (fun i => (Store.find ports i).isNone)

def indexOf (ports : Store (BitVec 12)) (a : BitVec 12) : Option Nat := (ports.find? (fun x => decide (x.2 = a))).map (·.1)

/-- What a port asks for: its latest request; with none heard, one cell in either generation. -/
def Sluice.ask (x : Sluice) (a : BitVec 12) : Ask := Store.getD x.asks a.toNat ⟨1, true, true⟩

/-- The largest L of R434: shares of the demands above one cell. -/
def mapLevel (ds : List Nat) (r : Nat) : Nat :=
  ((List.range 236).reverse.find? (fun l => decide ((ds.map (fun d => min (d - 1) l)).sum ≤ r))).getD 0

/-- Cells of each port by index, in table order, before they are placed (R434). -/
def mapCounts (ps : List (Nat × Nat)) (s1 : Nat) : Store Nat :=
  let n := ps.length
  let r := 944 - n
  let l := mapLevel (ps.map (·.2)) r
  let base := ps.map (fun p => (p.1, 1 + min (p.2 - 1) l))
  let start := s1 % max n 1
  let order := base.filter (fun p => decide (start ≤ p.1)) ++ base.filter (fun p => decide (p.1 < start))
  let spare := r - (ps.map (fun p => min (p.2 - 1) l)).sum
  let want (i : Nat) : Nat := ((ps.find? (fun p => decide (p.1 = i))).map (·.2)).getD 0
  (order.foldl (fun (acc : Store Nat × Nat) p =>
    if 0 < acc.2 ∧ p.2 < want p.1 then (Store.insert acc.1 p.1 (p.2 + 1), acc.2 - 1) else (Store.insert acc.1 p.1 p.2, acc.2))
    ([], spare)).1

/-- Placing state: cells left by port, cells in this slot by port, next index, cells assigned so far (newest first). -/
structure Placing where
  left : Store Nat
  slot : Store Nat
  next : Nat
  out : List Nat
deriving DecidableEq, Repr

/-- One cell placed: the first port in cyclic order with cells left, fewer than 4 in this slot, and support for the generation. -/
def Placing.cell (x : Placing) (ok : Nat → Bool) : Placing :=
  match ((List.range 64).map (fun k => (x.next + k) % 64)).find? (fun i =>
      decide (0 < Store.getD x.left i 0) && decide (Store.getD x.slot i 0 < 4) && ok i) with
  | some i =>
    { left := Store.put x.left i (Store.getD x.left i 0 - 1) 0, slot := Store.insert x.slot i (Store.getD x.slot i 0 + 1)
      next := (i + 1) % 64, out := i :: x.out }
  | none => { x with out := 127 :: x.out }

/-- The map for superframe `s1` (R434). -/
def mapCompute (ports : Store (BitVec 12)) (ask : BitVec 12 → Ask) (gen : BitVec 16) (s1 : Nat) : BasinMap :=
  let ps := ports.map (fun p => (p.1, (ask p.2).demand))
  let ok (w i : Nat) : Bool := match Store.find ports i with
    | some a => if gen.getLsbD w then (ask a).b2 else (ask a).b1
    | none => false
  let start : Placing := ⟨mapCounts ps s1, [], s1 % max ps.length 1, []⟩
  let fin := (List.range 59).foldl (fun x _ =>
    (List.range 16).foldl (fun y w => y.cell (ok w)) { x with slot := [] }) start
  ⟨s1 % 2 ^ 32, fin.out.reverse⟩

/-- The MAP field of a beacon as one number, and back. -/
def mapNumber : List Nat → Nat
  | [] => 0
  | c :: cs => c % 128 + 128 * mapNumber cs

def mapCells (v : Nat) : List Nat := (List.range 944).map (fun e => v / 2 ^ (7 * e) % 128)

/-- The BEACON payload (R435). -/
def beaconBytes (btime master root hops flags next gen basin : Nat) (ports : Store (BitVec 12)) (m : BasinMap) : List Byte :=
  natLe 8 btime ++ natLe 2 master ++ natLe 2 root ++ natLe 1 hops ++ natLe 1 flags ++ natLe 2 next ++ natLe 2 gen ++ natLe 1 basin
    ++ natLe 1 ports.length ++ natLe 4 m.sf ++ zeros 8
    ++ (List.range 64).flatMap (fun i => natLe 2 (match Store.find ports i with
      | some a => a.toNat + 0x8000
      | none => 0))
    ++ natLe 826 (mapNumber m.cells) ++ zeros 38

/-- PORTS of a beacon. -/
def beaconPorts (bs : List Byte) : Store (BitVec 12) :=
  (List.range 64).filterMap (fun i =>
    let v := fieldAt bs (0x20 + 2 * i) 2
    if bitOf v 15 then some (i, BitVec.ofNat 12 v) else none)

/-! ## Backoff draws (R431) -/

def lfsrStep (s : Word) : Word := if s.getLsbD 0 then (s >>> 1) ^^^ 0x80200003#32 else s >>> 1

def lfsrSteps : Nat → Word → Word
  | 0, s => s
  | n + 1, s => lfsrSteps n (lfsrStep s)

/-- A draw over `m` values, and the sluice after it. -/
def Sluice.draw (x : Sluice) (m : Nat) : Nat × Sluice :=
  let s := lfsrSteps 32 x.lfsr
  (s.toNat % m, { x with lfsr := s })

/-- Eligible wavelengths: no modulator due for calibration, and not λ0 or λ8 while unranged. Where every one is due, all that remain
are. -/
def Sluice.eligible (x : Sluice) : List Nat :=
  let all := (List.range 16).filter (fun w => x.rtt.isSome || (decide (w ≠ 0) && decide (w ≠ 8)))
  let ok := all.filter (fun w => !x.due.getLsbD w)
  if ok.isEmpty then all else ok

/-- Slot and wavelength drawn, in this order. -/
def Sluice.drawCell (x : Sluice) : Sluice :=
  let a := x.draw 4
  let el := a.2.eligible
  let b := a.2.draw el.length
  { b.2 with contSlot := BitVec.ofNat 2 a.1, contWave := BitVec.ofNat 4 (el.getD b.1 1) }

/-! ## Sending -/

/-- What came back of a superframe is noted; only the newest few are kept. -/
def Sluice.note (x : Sluice) (sf : Nat) (f : EchoLog → EchoLog) : Sluice :=
  if x.echoes.any (fun e => decide (e.sf = sf)) then { x with echoes := x.echoes.map (fun e => if e.sf = sf then f e else e) }
  else { x with echoes := (f ⟨sf, false, false, false⟩ :: x.echoes).take 5 }

/-- A frame goes out in a cell: its echo is awaited, and its modulator is driven. It leaves one-way delay before its cell, half the RTT, or at
the local start of the cell while the port is unranged (R425). A beacon is always sent in B1 (R419). -/
def Sluice.emit (x : Sluice) (f : Frame) (tag : BitVec 64) (c : CellAt) (cont : Bool) (ring : Option (BitVec 4)) : Sluice :=
  let key := slotNo c.sf c.slot
  let start : Int := (superNs * c.sf + 192 * c.slot : Nat)
  { x.note c.sf (fun e => { e with beacon := e.beacon || decide (f.typ = 3) }) with
    sent := x.sent ++ [⟨f, tag, cont, ring, c.sf, decide (f.typ ≠ 3) && x.gen.getLsbD c.wave, start - (x.rtt.getD 0 / 2 : Nat)⟩]
    slotKey := key
    driven := if x.slotKey = key then c.wave :: x.driven else [c.wave] }

/-- A frame sent in a cell: the cell written into it, its tag computed, the frame counted. -/
def Dom.send (d : Dom) (sd : Side) (f : Frame) (c : CellAt) (cont : Bool) (ring : Option (BitVec 4)) : Dom :=
  let g := { f with
    xmit := d.q.addr, slot := BitVec.ofNat 6 c.slot, wave := BitVec.ofNat 4 c.wave, sf := BitVec.ofNat 16 c.sf }
  ((d.onSluice sd (·.emit g (d.q.tagOf g) c cont ring)).bump (Off.xfCount sd 0) 1).event 0xA 1 none

/-- A frame of the medium itself: no stream, basin key. -/
def Polder.basinFrame (q : Polder) (typ : BitVec 4) (payload : List Byte) : Frame :=
  { q.mkFrame typ 0 q.grid false false 0 0 payload with part := false }

/-- The superframe of a try in the drawn contention slot: this one, until that slot is over. -/
def Dom.contSf (d : Dom) (sd : Side) : Nat :=
  if d.slotNow sd ≤ (d.sluice sd).contSlot.toNat then d.sfNow sd else d.sfNow sd + 1

/-- The first contention frame sent in the drawn cell. A try `again` of an URGENT frame keeps the TIDE of its first launch (R459). -/
def Dom.launch (d : Dom) (sd : Side) (again : Bool) : Dom :=
  let x := d.sluice sd
  match x.contQ with
  | [] => d
  | f :: fs =>
    let k := if f.part then d.q.synced f else f
    let g := if f.part && again then k else launched k d.q.wharf.tide
    let d1 := (d.onSluice sd (fun x => { x with contQ := g :: fs })).onLock (fun l => { l with tx := l.tx.map (fun t => { t with
      frames := t.frames.map (fun k => if k.frame = f then { k with frame := g, at_ := d.now } else k) }) })
    d1.send sd g ⟨x.contSlot.toNat, x.contWave.toNat, d.contSf sd⟩ true none

/-- A contention frame added; where none is in play it is sent at once in a cell drawn for it. -/
def Dom.contend (d : Dom) (sd : Side) (f : Frame) : Dom :=
  let x := d.sluice sd
  let d1 := d.onSluice sd (fun x => { x with contQ := x.contQ ++ [f] })
  if x.contQ.isEmpty then (d1.onSluice sd Sluice.drawCell).launch sd false else d1

/-- The REQUEST of a sluice (R432). -/
def Polder.requestFrame (q : Polder) (sd : Side) : Frame :=
  q.basinFrame 2 (natLe 2 (q.stored (Off.sluice sd + 0xC) % 256) ++ natLe 2 3 ++ zeros 4)

/-- Urgent frames that wait to be sent or sent again take part in contention, once the port has joined and is ranged (R425, R480). -/
def Dom.pumpUrgent (d : Dom) (sd : Side) : Dom :=
  let hit (f : TxFrame) : Bool := f.queued && decide (f.via = .cell sd) && decide (f.frame.typ = 4)
  let fs := (d.q.lock.tx.flatMap (·.frames)).filter hit
  if (d.sluice sd).state ≠ .joined ∨ (d.sluice sd).rtt = none then d
  else fs.foldl (fun d f => d.contend sd f.frame)
    (d.onLock (fun l => { l with tx := l.tx.map (fun t => { t with frames := t.frames.map (fun f =>
      if hit f then { f with queued := false, sends := f.sends + 1, at_ := d.now } else f) }) }))

/-! ## Basin time (R440 to R443) -/

/-- Whether a sluice's last beacon is a candidate time source (R443). -/
def Polder.timeCandidate (q : Polder) (sd : Side) : Bool :=
  let x := q.sluices.get sd
  x.mapNext.isSome && decide (x.masterAddr ≠ q.addr) && decide (x.hops < 255)

/-- The source sluice, none at a root. -/
def Polder.timeSource (q : Polder) : Option Side :=
  let r := q.timeCandidate .r
  let c := q.timeCandidate .c
  let key (sd : Side) : Nat := (q.sluices.get sd).root.toNat * 256 + (q.sluices.get sd).hops
  let best : Option Side := if r && c then some (if key .c < key .r then .c else .r) else if r then some .r else if c then some .c
    else none
  match best with
  | some sd => if [Side.r, .c].all (fun i => !q.timeCandidate i || decide (q.addr.toNat < (q.sluices.get i).root.toNat)) then none
      else some sd
  | none => none

/-- TIME_SOURCE follows the choice. -/
def Polder.chooseSource (q : Polder) : Polder :=
  let s := q.timeSource
  (q.onSluice .r (fun x => { x with source := decide (s = some .r) })).onSluice .c (fun x => { x with
    source := decide (s = some .c) })

/-- The correction of basin time by δ (R441, R451). -/
def Dom.correct (d : Dom) (sd : Side) (delta : Int) : Dom :=
  let d1 := d.onSluice sd (fun x => { x with delta := delta })
  let setBasin (d : Dom) (f : BasinTime → BasinTime) : Dom := d.on (fun q => { q with basin := f q.basin })
  if delta < -1000 then ((setBasin d1 (fun t => { t with slew := 0, slewNs := 0 })).slStick sd 1).slBump sd 8 1
  else if delta < -2 then setBasin d1 (fun t => { t with slew := (-delta).toNat, slewNs := 0 })
  else if delta ≤ 2 then setBasin d1 (fun t => { t with slew := 0, slewNs := 0 })
  else ((setBasin d1 (fun t => { t with now := t.now + delta.toNat, slew := 0, slewNs := 0 })).slStick sd 512).slBump sd 9 1

/-! ## The end of BASINJOIN (R106, R107, R442) -/

/-- OPEN: the tide number is that of the moment, so that only a later boundary counts (R114); hart 0 starts at CLERK_BOOT, and the doorbells held are read (R107, R115, R491). -/
def Dom.openUp (d : Dom) : Dom :=
  let d1 := (d.on (fun q => { q with wharf := { q.wharf with tide := q.tideAt d.basinNs } })).boot .opened
  (d1.on (fun q => { q with clerks := { q.clerks with
    harts := q.clerks.harts.set .i0 { Hart.reset with started := true, pc := cell (q.stored64 Off.clerkBoot) } } })).freeBells

/-- BASINJOIN ends when both sluices have joined, or one has and JOIN_SLOW is set. -/
def Dom.checkOpen (d : Dom) : Dom :=
  let r := decide ((d.sluice .r).state = .joined)
  let c := decide ((d.sluice .c).state = .joined)
  if d.q.boot = .basinjoin ∧ ((r && c) || ((r || c) && d.q.joinSlow)) then d.openUp else d

/-- A sluice joined: the first one sets basin time and the tide number (R105, R442). -/
def Dom.joined (d : Dom) (sd : Side) : Dom :=
  let d1 := d.onSluice sd (fun x => { x with state := .joined })
  let d2 := if d1.q.basin.valid || d1.q.alone then d1
    else d1.on (fun q =>
      let now := d1.mediumNs sd
      { q with basin := ⟨true, now, 0, 0⟩, wharf := { q.wharf with tide := q.tideAt now } })
  d2.checkOpen

/-- The superframe of the first REQUEST of a sluice that has now heard a valid beacon: seed[9:0] whole ones pass first, counted from the start
of the next (R104). -/
def Dom.seeded (d : Dom) (sd : Side) : Nat := d.sfNow sd + 1 + ((d.sluice sd).seed.extractLsb' 0 10).toNat

/-- The sluice listens, unranged, and will join or rejoin (R104, R455, R456). `delay` is the superframe of its first REQUEST where it has heard
a beacon. c of R430 and the LFSR stay. -/
def Sluice.relisten (x : Sluice) (sf : Nat) (delay : Option Nat) : Sluice :=
  { x with
    state := .listen, master := false, rtt := none, delay := delay, lastSf := sf, backoff := none, contQ := [], sent := []
    echoes := [], cleanSf := none, inherit := false }

def Dom.listen (d : Dom) (sd : Side) : Dom := d.onSluice sd (·.relisten (d.sfNow sd) none)

/-- The sluice rejoins, having heard a beacon. -/
def Dom.rejoin (d : Dom) (sd : Side) : Dom := d.onSluice sd (·.relisten (d.sfNow sd) (some (d.seeded sd)))

/-! ## FRAME_RECEIVE (R429) -/

/-- Whether R427 permits a frame, by its row of the table, in a cell; `own` says whether the cell is assigned to XMIT, `unassigned`
whether it is to none, each none where no map is known. -/
def permitted (f : Frame) (slot wave payloadMax : Nat) (own unassigned : Option Bool) : Bool :=
  let n := f.payload.length
  let mine := own.getD true
  let top := decide (wave = 0) || decide (wave = 8)
  match f.typ.toNat with
  | 0 => f.part && decide (1 ≤ n) && decide (n ≤ payloadMax) && decide (5 ≤ slot) && mine
  | 1 => f.part && decide (n ≤ payloadMax) && decide (5 ≤ slot) && mine
  | 2 => !f.part && decide (n = 8) && decide (slot < 4)
  | 3 => !f.part && decide (n = 1024) && decide (slot = 4) && top
  | 4 => f.part && decide (1 ≤ n) && decide (n ≤ 256) && decide (slot < 4)
  | 5 => !f.part && decide (n = 0) && ((decide (slot = 4) && !top) || (decide (5 ≤ slot) && (mine || unassigned.getD true)))
  | 6 => !f.part && decide (n = 0) && decide (5 ≤ slot) && mine
  | _ => false

/-- The pool takes a frame where it has room (R476). Of the frames that come while the fabric clock is slowed, those that it cannot accept are
dropped, and which they are is open; while it stands, all are (R133). Log entry 130. -/
def Dom.intoPool (d : Dom) (sd : Side) (h : Heard) : Dom :=
  let slow : Dom × Bool := if d.q.clocks.safe then ({ d with q := d.q.free.2 }, d.q.free.1.getLsbD 0) else (d, false)
  if d.q.clocks.stopped || slow.2 then slow.1
  else if 0x600000 < ((d.sluice sd).inbox.map (fun k => frameSize k.frame)).sum + frameSize h.frame then slow.1.bump (Off.xfCount sd 3) 1
  else ((slow.1.bump (Off.xfCount sd 1) 1).on (·.usePool (.rx sd))).onSluice sd (fun x => { x with inbox := x.inbox ++ [h] })

/-- A heard frame classified. A signal must be of the generation that its wavelength runs, B1 for a beacon (R419); before its first beacon a
sluice takes either. An FEC-clean frame in the cells of its XMIT shows that port alive, whatever its tag (R433). -/
def Dom.hear (d : Dom) (sd : Side) (h : Heard) : Dom :=
  let x := d.sluice sd
  let f := h.frame
  let slot := h.slot.toNat
  let wave := h.wave.toNat
  let entry : Option Nat := if slot < 5 then none else (x.mapFor h.sf).map (fun m => m.at slot wave)
  let own := entry.map (fun e => decide (indexOf x.ports f.xmit = some e))
  let free := entry.map (fun e => decide (e = 127))
  let tagOk := decide (h.tag = d.q.tagOf f)
  let max := if x.gen.getLsbD wave then 2048 else 1024
  let b2 := decide (f.typ ≠ 3) && x.gen.getLsbD wave
  if x.state = .dark then d
  else if !h.clean || (x.mapNext.isSome && decide (h.b2 ≠ b2)) then (d.slBump sd 1 1).slStick sd 8
  else
    let d0 := (d.slBump sd 2 h.corrected).onSluice sd (fun x =>
      if own = some true then { x with alive := Store.insert x.alive f.xmit.toNat (d.sfNow sd) } else x)
    if !tagOk && f.part && (indexOf x.ports f.xmit).isSome && (decide (slot < 4) || decide (own = some true)) then d0.slBump sd 4 1
    else if !tagOk || decide (f.slot ≠ h.slot) || decide (f.wave ≠ h.wave) || decide (f.sf ≠ BitVec.ofNat 16 h.sf) then
      ((d0.onSluice sd (fun x => { x with stranger := word f.xmit.toNat })).slBump sd 3 1).slStick sd 4
    else if !permitted f slot wave max own free || (decide (own = some false) && decide (free = some false)) then
      ((d0.onSluice sd (fun x => { x with trespass := word (f.xmit.toNat + 2 ^ 16 * slot + 2 ^ 24 * wave) })).slBump sd 5 1).slStick
        sd 2
    else
      let d1 := d0.event 0xB 1 none
      match f.typ.toNat with
      | 3 => d1.onSluice sd (fun x => { x with inbox := x.inbox ++ [h], lastSf := d.sfNow sd })
      | 2 => d1.onSluice sd (fun x => { x with inbox := x.inbox ++ [h] })
      | 5 | 6 => d1
      | _ => d1.intoPool sd h

/-! ## BEACON (R436, R440 to R443, R455) -/

/-- The BASIN byte a sluice expects (R436). -/
def Polder.basinByte (q : Polder) (sd : Side) : Nat :=
  match sd with
  | .r => rowOf q.addr
  | .c => 64 + colOf q.addr

/-- What a valid beacon tells the sluice: table, map, master, root, generations, medium time. A map heard twice is one map. `takes` makes the
sluice the successor, which counts the silence of every port from now (R433, R439). -/
def Sluice.learn (x : Sluice) (bs : List Byte) (medium : Int) (takes : Option Nat) : Sluice :=
  let m : BasinMap := ⟨fieldAt bs 0x14 4, mapCells (fieldAt bs 0xA0 826)⟩
  { x with
    ports := beaconPorts bs
    mapNow := if x.mapNext.map (·.sf) = some m.sf then x.mapNow else x.mapNext
    mapNext := some m
    masterAddr := BitVec.ofNat 12 (fieldAt bs 8 2)
    root := BitVec.ofNat 12 (fieldAt bs 0xA 2)
    hops := fieldAt bs 0xC 1
    gen := BitVec.ofNat 16 (fieldAt bs 0x10 2)
    medium := medium
    master := x.master || takes.isSome
    inherit := x.inherit || takes.isSome
    alive := match takes with
      | some sf => (beaconPorts bs).foldl (fun s p => Store.insert s p.2.toNat sf) x.alive
      | none => x.alive }

/-- The state of a sluice after a valid beacon with its table. A candidate that had sent no REQUEST yet returns to LISTEN and waits its seeded
delay, whatever the table holds (R104, R585). -/
def Dom.beaconState (d : Dom) (sd : Side) : Dom :=
  let x := d.sluice sd
  let here := indexOf x.ports d.q.addr
  let setIndex (d : Dom) (i : Nat) : Dom := d.onSluice sd (fun x => { x with index := i })
  let wait (x : Sluice) : Sluice := { x with state := .listen, delay := some (x.delay.getD (d.seeded sd)) }
  match x.state, here with
  | .silent, _ => if x.pllOk then d.rejoin sd else d
  | .listen, _ => d.onSluice sd wait
  | .unranged, some i => (setIndex d i).joined sd
  | .joined, some i => setIndex d i
  | .joined, none => d.rejoin sd
  | .candidate, some i =>
    if x.back = .joined then (setIndex d i).onSluice sd (fun x => { x with state := .joined })
    else if x.back = .listen then d.onSluice sd wait
    else (setIndex d i).joined sd
  | .candidate, none =>
    if x.back = .joined then d.rejoin sd
    else if x.back = .listen then d.onSluice sd wait
    else d.onSluice sd (fun x => { x with state := x.back })
  | _, _ => d

/-- A joined port that holds no map for a superframe counts it once (R422). -/
def Dom.mapMiss (d : Dom) (sd : Side) (sf : Nat) : Dom :=
  if (d.sluice sd).missed = some sf then d
  else ((d.onSluice sd (fun x => { x with missed := some sf })).slBump sd 7 1).slStick sd 256

/-- A valid beacon of another master. The end of its sync word is taken as the moment of the command. -/
def Dom.validBeacon (d : Dom) (sd : Side) (bs : List Byte) : Dom :=
  let x := d.sluice sd
  let medium : Int := (fieldAt bs 0 8 : Int) + 782 + (x.rtt.getD 0 / 2 : Nat) - (d.now : Int)
  let changed := x.mapNext.isSome && decide (x.masterAddr ≠ BitVec.ofNat 12 (fieldAt bs 8 2))
  let takes := bitOf (fieldAt bs 0xD 1) 0 && decide (BitVec.ofNat 12 (fieldAt bs 0xE 2) = d.q.addr) && decide (x.state = .joined)
  let d0 := d.onSluice sd (fun x => { x with medium := medium })
  let sf := d0.sfNow sd
  let missed := decide (x.state = .joined) && (x.mapFor sf).isNone
  let d1 := d0.onSluice sd (fun x => { x.learn bs medium (if takes then some sf else none) with lastSf := sf })
  let d2 := if changed then (d1.slBump sd 10 1).slStick sd 64 else d1
  let d3 := (if missed then d2.mapMiss sd sf else d2).on (·.chooseSource)
  let d4 := if (d3.sluice sd).source && d3.q.basin.valid then
      d3.correct sd (((d3.now : Int) + (d3.sluice sd).medium) - (d3.q.basin.now : Int)) else d3
  d4.beaconState sd

/-- BEACON: the oldest accepted one. Two of a superframe that differ are both invalid (R449). -/
def Dom.beacon (d : Dom) (sd : Side) : Dom :=
  match d.q.popInbox sd (fun h => decide (h.frame.typ = 3)) with
  | none => d
  | some (h, q) =>
    let twins := (q.sluices.get sd).inbox.filter (fun k => decide (k.frame.typ = 3) && decide (k.sf = h.sf))
    let d1 := ({ d with q := q } : Dom).onSluice sd (fun x => { x with
      inbox := x.inbox.filter (fun k => !(decide (k.frame.typ = 3) && decide (k.sf = h.sf))) })
    let bs := h.frame.payload
    if twins.any (fun k => decide (k.frame.payload ≠ bs)) then d1
    else if fieldAt bs 0x12 1 % 128 ≠ d.q.basinByte sd then d1.slStick sd 32
    else if BitVec.ofNat 12 (fieldAt bs 8 2) = d.q.addr then d1
    else d1.validBeacon sd bs

/-! ## REQUEST (R432, R433) -/

/-- A port entered at the lowest free index, from then on counted as heard, or removed. -/
def Sluice.enter (x : Sluice) (a : BitVec 12) (k : Ask) (sf : Nat) : Sluice :=
  let y := { x with asks := if k.demand = 0 then Store.erase x.asks a.toNat else Store.insert x.asks a.toNat k }
  if !x.master then y
  else if k.demand = 0 then { y with ports := y.ports.filter (fun p => decide (p.2 ≠ a)) }
  else if (indexOf x.ports a).isSome then y
  else match freeIndex x.ports with
    | some i => { y with ports := Store.insert y.ports i a, alive := Store.insert y.alive a.toNat sf }
    | none => y

/-- REQUEST: the oldest accepted one. -/
def Dom.request (d : Dom) (sd : Side) : Dom :=
  match d.q.popInbox sd (fun h => decide (h.frame.typ = 2)) with
  | none => d
  | some (h, q) =>
    let g := fieldAt h.frame.payload 2 2
    ({ d with q := q } : Dom).onSluice sd (·.enter h.frame.xmit
      ⟨min 236 (fieldAt h.frame.payload 0 2 % 256), bitOf g 0, bitOf g 1⟩ (d.sfNow sd))

/-! ## ECHO (R425, R430) -/

/-- A collision in superframe `sf`: c rises, and the wait, the slot and the wavelength are drawn. The next try is w whole superframes later
(R430). -/
def Sluice.collide (x : Sluice) (sf : Nat) : Sluice :=
  let c := min 15 (x.coll + 1)
  let w := { x with coll := c }.draw (min (2 ^ c) 1024)
  { w.2.drawCell with backoff := some (sf + w.1 + 2) }

/-- A contention frame got through: the next one is sent. -/
def Dom.contDone (d : Dom) (sd : Side) : Dom :=
  let d1 := d.onSluice sd (fun x => { x with coll := 0, backoff := none, contQ := x.contQ.drop 1 })
  if (d1.sluice sd).contQ.isEmpty then d1 else (d1.onSluice sd Sluice.drawCell).launch sd false

/-- A candidate hears its own beacon and is master (R585). Where its polder has held no basin time since its reset, the die timebase becomes
that, and the medium time with it (R442). Every port's silence counts from here (R433). -/
def Dom.mastered (d : Dom) (sd : Side) : Dom :=
  let sf := d.sfNow sd
  let d1 := d.onSluice sd (fun x => { x with
    master := true, delay := none, alive := x.ports.foldl (fun s p => Store.insert s p.2.toNat (sf - 1)) x.alive })
  let d2 := if d1.q.basin.valid then d1
    else d1.onSluice sd (fun x => { x with
      medium := 0, mapNext := x.mapNext.map (fun m => { m with sf := (d.now / superNs + 1) % 2 ^ 32 }) })
  (d2.joined sd).on (·.chooseSource)

/-- The echo of the oldest frame sent. -/
def Dom.echo (d : Dom) (sd : Side) (e : EchoOf) : Dom :=
  let x := d.sluice sd
  match x.sent with
  | [] => d
  | s :: rest =>
    let beacon := decide (s.frame.typ = 3)
    let d1 := d.onSluice sd (fun x =>
      let y := x.note s.sf (fun l => { l with heard := l.heard || !e.lost, clean := l.clean || (beacon && e.equal) })
      { y with
        sent := rest, rtt := if e.equal then some e.rtt else x.rtt
        cleanSf := if beacon && e.equal then some s.sf else x.cleanSf
        lastSf := if beacon && e.equal then s.sf else x.lastSf })
    if e.equal then
      let d2 := match s.ring with
        | some r => d1.onSluice sd (fun x => { x with
          due := x.due &&& ~~~(1#16 <<< r.toNat), calAt := Store.insert x.calAt r.toNat d.now })
        | none => d1
      if s.cont then d2.contDone sd
      else if beacon ∧ x.state = .candidate then d2.mastered sd
      else d2
    else if s.cont then ((d1.onSluice sd (·.collide s.sf)).slBump sd 0 1).event 0xC 1 none
    else d1

/-- BACKOFF_EXPIRY, once the superframes of the backoff have passed. -/
def Dom.backoffEnd (d : Dom) (sd : Side) : Dom :=
  match (d.sluice sd).backoff with
  | some sf => if sf ≤ d.sfNow sd then (d.onSluice sd (fun x => { x with backoff := none })).launch sd true else d
  | none => d

/-! ## Joining (R104, R106) -/

/-- JOIN_DELAY_EXPIRY: the first REQUEST, in the cell the seed gives, once its superframe has come. -/
def Dom.joinRequest (d : Dom) (sd : Side) : Dom :=
  let x := d.sluice sd
  match x.state, x.delay with
  | .listen, some sf =>
    if d.sfNow sd < sf then d
    else
      let y := { x with
        state := .unranged, delay := none, rtt := none, contQ := [d.q.requestFrame sd], contSlot := x.seed.extractLsb' 10 2 }
      let el := y.eligible
      let w := (x.seed.extractLsb' 12 4).toNat % el.length
      (d.onSluice sd (fun _ => { y with contWave := BitVec.ofNat 4 (el.getD w 1) })).launch sd false
  | _, _ => d

/-- JOIN_SLOW: 100 ms of BASINJOIN have passed. -/
def Dom.joinLate (d : Dom) : Dom :=
  if d.q.boot = .basinjoin ∧ d.q.joinFrom + 100000000 ≤ d.now then (d.on (fun q => { q with joinSlow := true })).checkOpen else d

/-- A change of SL_DEMAND sends a new REQUEST (R432). -/
def Dom.demandChanged (d : Dom) (sd : Side) : Dom :=
  if (d.sluice sd).state = .joined ∨ (d.sluice sd).state = .unranged then d.contend sd (d.q.requestFrame sd) else d

/-! ## The master (R434 to R439) -/

/-- A master's table with itself in it. -/
def Sluice.withSelf (x : Sluice) (a : BitVec 12) : Sluice :=
  match indexOf x.ports a with
  | some i => { x with index := i }
  | none => match freeIndex x.ports with
    | some i => { x with index := i, ports := Store.insert x.ports i a }
    | none => x

/-- The medium time of a master, or of a candidate, is its polder's basin time, which BTIME gives (R435, R443). Superframes counted before
keep their distance. -/
def Dom.masterClock (d : Dom) (sd : Side) : Dom :=
  if d.q.basin.valid then
    let d1 := d.onSluice sd (fun x => { x with medium := (d.q.basin.now : Int) - (d.now : Int) })
    d1.onSluice sd (fun x => { x with lastSf := x.lastSf + d1.sfNow sd - d.sfNow sd })
  else d

/-- A beacon sent on λ0 and λ8 with a map for the next superframe; a lower address in the table is named successor (R439). -/
def Dom.sendBeacon (d : Dom) (sd : Side) (map : Option BasinMap) : Dom :=
  let sf := d.sfNow sd
  let d0 := d.onSluice sd (·.withSelf d.q.addr)
  let x := d0.sluice sd
  let q := d0.q
  let gen := BitVec.ofNat 16 (q.stored (Off.sluice sd + 8))
  let ask (a : BitVec 12) : Ask := if a = q.addr then ⟨min 236 (q.stored (Off.sluice sd + 0xC) % 256), true, true⟩ else x.ask a
  let m := match map with
    | some v => { v with sf := (sf + 1) % 2 ^ 32 }
    | none => mapCompute x.ports ask gen (sf + 1)
  let lower := (x.ports.map (·.2)).filter (fun a => decide (a.toNat < q.addr.toNat))
  let next := lower.foldl (fun b a => if a.toNat < b.toNat then a else b) q.addr
  let (root, hops) := match q.timeSource with
    | some s => ((q.sluices.get s).root, (q.sluices.get s).hops + 1)
    | none => (q.addr, 0)
  let bs := beaconBytes (sf * superNs) q.addr.toNat root.toNat hops (bit (!lower.isEmpty)) (if lower.isEmpty then 0 else next.toNat)
    gen.toNat (q.basinByte sd) x.ports m
  let f := q.basinFrame 3 bs
  ((d0.onSluice sd (fun x => { x with
    mapNow := x.mapNext, mapNext := some m, gen := gen, masterAddr := q.addr, root := root, hops := hops, inherit := false
    master := x.master && lower.isEmpty })).send sd f ⟨4, 0, sf⟩ false none).send sd f ⟨4, 8, sf⟩ false none

/-- Whether a beacon can go out now: in slot 4, and not twice. -/
def Dom.beaconSlot (d : Dom) (sd : Side) : Bool :=
  decide (d.slotNow sd = 4) && (d.sluice sd).canDrive (slotNo (d.sfNow sd) 4) 0 && (d.sluice sd).canDrive (slotNo (d.sfNow sd) 4) 8

/-- BEACON_SEND of superframe `sf`, in slot 4. The first beacon of a successor publishes the map that it took over (R439). -/
def Dom.masterBeacon (d : Dom) (sd : Side) (sf : Nat) : Dom :=
  let d1 := d.masterClock sd
  let x := d1.sluice sd
  if x.master ∧ x.state = .joined ∧ d1.sfNow sd = sf ∧ d1.beaconSlot sd then d1.sendBeacon sd (if x.inherit then x.mapNext else none) else d

/-- CANDIDATE (R437): a sluice that has heard no beacon in 3 superframes. -/
def Dom.candidate (d : Dom) (sd : Side) : Dom :=
  let x := d.sluice sd
  if !x.master ∧ (x.state = .listen ∨ x.state = .unranged ∨ x.state = .joined) ∧ x.lastSf + 3 < d.sfNow sd then
    (d.onSluice sd (fun x => { x with back := x.state, state := .candidate, delay := none })).masterClock sd
  else d

/-- The newest superframes whose echoes have all come back or been lost. -/
def Sluice.judged (x : Sluice) : List EchoLog := x.echoes.filter (fun e => !x.sent.any (fun s => decide (s.sf = e.sf)))

/-- CANDIDATE_BEACON (R437): in slot 4 of superframe k + 4 + p, and of those after it while its beacons fail (R438), with the last table and
map advanced, or an empty table with itself; `sf` is the superframe of the row. -/
def Dom.candidateBeacon (d : Dom) (sd : Side) (sf : Nat) : Dom :=
  let x := d.sluice sd
  let first := x.lastSf + 4 + d.q.position sd
  let failing := x.echoes.any (fun e => e.beacon && decide (first ≤ e.sf) && decide (e.sf + 1 = d.sfNow sd))
  if x.state = .candidate ∧ d.sfNow sd = sf ∧ d.beaconSlot sd ∧ (sf = first ∨ failing) then d.sendBeacon sd x.mapNext else d

/-- MASTER_ECHO_FAIL (R438): both echoes of the beacon failed in 3 superframes in a row. k is the superframe of the last clean one; of a
candidate that has had none, the one that runs (log entry 129). -/
def Dom.masterFails (d : Dom) (sd : Side) : Dom :=
  let x := d.sluice sd
  match x.judged with
  | a :: b :: c :: _ =>
    if (x.master ∨ x.state = .candidate) ∧ [a, b, c].all (fun e => e.beacon && !e.clean) ∧ a.sf = b.sf + 1 ∧ b.sf = c.sf + 1 then
      d.onSluice sd (fun x => { x with
        master := false, state := .candidate, back := if x.state = .candidate then x.back else .joined, echoes := []
        lastSf := x.cleanSf.getD (d.sfNow sd) })
    else d
  | _ => d

/-- PORT_REMOVE (R433): no FEC-clean frame of the port in its cells for 8 superframes. -/
def Dom.removePort (d : Dom) (sd : Side) (a : BitVec 12) : Dom :=
  let x := d.sluice sd
  if x.master ∧ a ≠ d.q.addr ∧ Store.getD x.alive a.toNat 0 + 8 < d.sfNow sd then
    d.onSluice sd (fun x => { x with ports := x.ports.filter (fun p => decide (p.2 ≠ a)), asks := Store.erase x.asks a.toNat })
  else d

/-- SILENT (R454). -/
def Sluice.hush (x : Sluice) : Sluice :=
  { x with
    state := .silent, master := false, inherit := false, backoff := none, contQ := [], sent := [], echoes := [], delay := none }

/-- SILENT: every echo was lost in the last 3 superframes in which the sluice sent. -/
def Dom.silence (d : Dom) (sd : Side) : Dom :=
  let x := d.sluice sd
  if (x.state = .unranged ∨ x.state = .joined ∨ x.state = .candidate) ∧ 3 ≤ x.judged.length ∧ (x.judged.take 3).all (fun e => !e.heard) then
    (d.onSluice sd Sluice.hush).slStick sd 16
  else d

/-- SLUICE_PLL_UNLOCK (R145, R454). -/
def Dom.pllLost (d : Dom) (sd : Side) : Dom :=
  let bitNo := match sd with
    | .r => 64
    | .c => 128
  let d1 := (d.onSluice sd (fun x => { x with pllOk := false })).stick Off.clkSticky bitNo
  if (d.sluice sd).state = .dark then d1 else d1.onSluice sd Sluice.hush

/-- SLUICE_PLL_RELOCK: the SILENT period ends, and the sluice listens. -/
def Dom.pllBack (d : Dom) (sd : Side) : Dom :=
  let d1 := d.onSluice sd (fun x => { x with pllOk := true })
  if !(d.sluice sd).pllOk && decide ((d.sluice sd).state = .silent) then d1.listen sd else d1

/-- SLEW_END (R441): the slew has absorbed its δ, or has run for 5 ms. -/
def Polder.endSlew (q : Polder) : Polder :=
  if q.basin.slew = 0 ∨ 5000000 ≤ q.basin.slewNs then { q with basin := { q.basin with slew := 0, slewNs := 0 } } else q

/-! ## Calibration (R444) -/

/-- Whether a CAL frame of a ring may go out in the slot that runs, which the map leaves unassigned (R422, R427). In slot 4 a master keeps two
modulators for its beacons (R445). -/
def Dom.calFree (d : Dom) (sd : Side) (ring : Nat) : Bool :=
  let x := d.sluice sd
  let slot := d.slotNow sd
  let key := slotNo (d.sfNow sd) slot
  let others := if x.slotKey = key then x.driven.countP (fun w => decide (w ≠ 0 ∧ w ≠ 8)) else 0
  match x.mapFor (d.sfNow sd) with
  | some m =>
    x.canDrive key ring &&
      ((decide (slot = 4) && decide (ring ≠ 0) && decide (ring ≠ 8) && (!x.master || decide (others < 2))) ||
       (decide (5 ≤ slot) && decide (m.at slot ring = 127)))
  | none => false

/-- CAL_DUE: CAL_INTERVAL after its last calibration the ring is due; it calibrates where the cell is free for CAL. The row is one of
slot `slot`. -/
def Dom.calDue (d : Dom) (sd : Side) (ring : BitVec 4) (slot : Nat) : Dom :=
  let x := d.sluice sd
  let r := ring.toNat
  let at_ := Store.getD x.calAt r 0 + d.q.stored (Off.sluice sd + 0x10) % 2 ^ 16 * 1000
  if d.now < at_ ∨ d.slotNow sd ≠ slot then d
  else
    let d1 := d.onSluice sd (fun x =>
      if x.due.getLsbD r then x else { x with due := x.due ||| (1#16 <<< r), dueAt := Store.insert x.dueAt r at_ })
    if x.state = .joined ∧ x.rtt.isSome ∧ d1.calFree sd r then d1.send sd (d1.q.basinFrame 5 []) (d1.cellNow sd r) false (some ring) else d1

/-- CAL_FORCED in slot `slot`: a ring due for 1 ms takes a cell of its own port. -/
def Dom.calForced (d : Dom) (sd : Side) (ring : BitVec 4) (slot : Nat) : Dom :=
  let x := d.sluice sd
  let r := ring.toNat
  let c := d.cellNow sd r
  let mine := decide (c.slot = slot) && decide (5 ≤ slot) && x.canDrive (slotNo c.sf c.slot) r &&
    (match x.mapFor c.sf with
      | some m => decide (m.at c.slot r = x.index)
      | none => false)
  if x.due.getLsbD r && decide (Store.getD x.dueAt r 0 + 1000000 ≤ d.now) && mine && decide (x.state = .joined) && x.rtt.isSome then
    ((d.send sd (d.q.basinFrame 5 []) c false (some ring)).slBump sd 6 1).slStick sd 128
  else d

/-! ## CELL_SEND (R422, R459, R470, R477) -/

/-- The first hop of an ACK entry's frame. -/
def Polder.ackVia (q : Polder) (r : RxStream) : Option Via :=
  if r.kind = 1 then some (.cell .r) else q.route r.origin r.ogrid false

/-- Entries of the ACK frame that a due stream opens: those of its group, or those of its origin. -/
def Polder.ackGroup (q : Polder) (r : RxStream) (sf : Nat) : List RxStream :=
  q.lock.rx.filter (fun x => (match x.due with
      | some s => decide (s < sf)
      | none => false) &&
    (if r.kind = 1 then decide (x.kind = 1) && decide (x.target = r.target)
     else decide (x.kind ≠ 1) && decide (x.origin = r.origin) && decide (x.ogrid = r.ogrid)))

/-- The streams named in an ACK are no longer due. -/
def Polder.acked (q : Polder) (rs : List RxStream) : Polder :=
  { q with lock := { q.lock with
    rx := q.lock.rx.map (fun x => if rs.contains x then { x with due := none, reject := none } else x) } }

/-- The ACK frame that is due first on a sluice. -/
def Dom.ackNext (d : Dom) (sd : Side) (sf max : Nat) : Option (List RxStream × Frame) :=
  match d.q.lock.rx.find? (fun r => decide (d.q.ackVia r = some (.cell sd)) && (match r.due with
      | some s => decide (s < sf)
      | none => false)) with
  | none => none
  | some r =>
    let rs := (d.q.ackGroup r sf).take (max / 24)
    some (rs, { d.q.mkFrame 1 (if r.kind = 1 then r.target else r.origin) r.ogrid (decide (r.kind = 1)) false 0 256
      (rs.flatMap RxStream.entry) with seq := 0 })

/-- A copy for the other basin of a multicast frame the polder sends (R471). -/
def Dom.spread (d : Dom) (sd : Side) (f : Frame) : Dom :=
  if f.multicast && d.q.spreads (f.dst.toNat % 64) sd then
    (d.on (·.usePool .relay)).onLock (fun l => { l with relayQ := l.relayQ.set sd.other (l.relayQ.get sd.other ++
      [⟨true, 0, { f with relayed := true }, 0, 0, 0, 0, false⟩]) })
  else d

/-- Relay-pool entries whose deadline tide has passed are discarded (R474). -/
def Dom.purgeRelay (d : Dom) (sd : Side) : Dom :=
  let l := d.q.lock.relayQ.get sd
  let dead := l.filter (fun h => staleAt h.frame.tide h.frame.opinfo d.q.wharf.tide)
  (d.onLock (fun k => { k with
    relayQ := k.relayQ.set sd (l.filter (fun h => !staleAt h.frame.tide h.frame.opinfo d.q.wharf.tide)) })).bump
    (Off.xfCount sd 4) dead.length

/-- An own cell with nothing else to send (R433). -/
def Dom.idle (d : Dom) (sd : Side) (c : CellAt) : Dom := d.send sd (d.q.basinFrame 6 []) c false none

/-- A retained frame goes out: sent once more, no longer waiting; its first launch fixes its TIDE. Where its pool entry is lost to an error,
the cell stays idle (R487). -/
def Dom.sendRetained (d : Dom) (sd : Side) (f : TxFrame) (c : CellAt) : Dom :=
  let x := d.poolRead (.retain sd)
  let k := d.q.synced f.frame
  let g := if f.sends = 0 then launched k d.q.wharf.tide else k
  let d1 := x.1.onLock (fun l => { l with tx := l.tx.map (fun t => { t with frames := t.frames.map (fun k =>
    if k = f then { k with frame := g, sends := k.sends + 1, queued := false, at_ := d.now } else k) }) })
  if x.2 then (d1.spread sd g).send sd g c false none else d1.idle sd c

/-- Frames of a way that wait to be sent, within each stream's window of 64 (R468). -/
def Polder.waiting (q : Polder) (sd : Side) : List TxFrame :=
  (q.lock.tx.flatMap (fun t => t.frames.take 64)).filter (fun f => f.queued && decide (f.via = .cell sd) && decide (f.frame.typ ≠ 4))

/-- The way and stream of an operation's frames: target, grid, kind, first hop, receivers. -/
def Polder.xferWay (q : Polder) (o : XferOp) (c : XferCtl) : BitVec 12 × BitVec 6 × Nat × Option Via × List (BitVec 12) :=
  let dst : BitVec 12 := c.dst.setWidth 12
  let grid : BitVec 6 := c.dgrid.setWidth 6
  if o.func = 1 then
    let g : BitVec 12 := BitVec.ofNat 12 (c.dst.toNat % 64)
    (g, q.grid, 1, some (.cell (if c.alt then .c else .r)), (q.members (c.dst.toNat % 64)).filter (fun a => decide (a ≠ q.addr)))
  else if o.func = 2 then
    let agg : BitVec 12 := BitVec.ofNat 12 (rowOf q.addr * 64 + colOf dst)
    (dst, q.grid, 2, some (if colOf dst = colOf q.addr then .inside else .cell .r), [agg])
  else (dst, grid, 0, q.route dst grid c.alt, [dst])

/-- Whether an operation's frames are URGENT ones (R480): a PUT of at most 240 bytes on a direct route. -/
def Polder.urgentXfer (q : Polder) (o : XferOp) (c : XferCtl) : Bool :=
  c.urgent && decide (o.func = 0) && decide (o.bytes.length ≤ 240) &&
    decide (rowOf (c.dst.setWidth 12) = rowOf q.addr ∨ colOf (c.dst.setWidth 12) = colOf q.addr)

/-- The next frame of an operation formed with up to `max` data bytes and retained (R465, R466). A source changed since issue leaves the
data free. -/
def Dom.formFrame (d : Dom) (o : XferOp) (c : XferCtl) (max : Nat) : Dom :=
  let w := d.q.xferWay o c
  let n := min (if o.func = 2 then 1008 else max) (o.bytes.length - o.formed)
  let raw := (o.bytes.drop o.formed).take n
  let x := if d.changed o.berth o.stale o.src o.bytes then d.q.freeBytes n else (raw, d.q)
  let q0 := x.2
  let data := x.1
  let tag : Word := if o.func = 2 then word c.raddr else 0
  let info := o.func + deadlineInfo o.deadline d.q.wharf.tide + (if o.func = 2 then c.nrow * 2 ^ 16 + c.ncol * 2 ^ 23 else 0)
  let typ : BitVec 4 := if q0.urgentXfer o c then 4 else 0
  let pool (q : Polder) : Polder := match w.2.2.2.1 with
    | some (.cell sd) => q.usePool (.retain sd)
    | _ => q
  let q1 := (pool q0).retain typ w.1 w.2.1 w.2.2.1 info o.token (w.2.2.2.1.getD .inside) w.2.2.2.2
    (segHeader ((c.raddr + o.formed) % 2 ^ 48) c.rnote tag ++ data)
  { d with q := { q1 with lock := { q1.lock with
    xfer := q1.lock.xfer.map (fun x => if x.token = o.token then { x with formed := o.formed + n } else x) } } }

/-- The operation of a berth that forms the next frame on a sluice, an URGENT one or one for a cell: its stream's window and the retain pool
have room (R468, R476). -/
def Polder.formsNext (q : Polder) (sd : Side) (urgent : Bool) (b : Ix4) : Option (XferOp × XferCtl) :=
  (q.lock.xfer.filter (fun o => decide (o.berth = b))).findSome? (fun o => match o.ctl with
    | some c =>
      let w := q.xferWay o c
      if o.code.isNone && decide (o.formed < o.bytes.length) && decide (w.2.2.2.1 = some (.cell sd)) && (q.urgentXfer o c == urgent) &&
        decide ((q.txOf w.1 w.2.1 w.2.2.1).frames.length < 64) && decide (q.retained sd + 2088 ≤ 0x140000) then some (o, c) else none
    | none => none)

/-- URGENT frames formed on a sluice while there is room for them, and sent in contention cells (R480). `fuel` bounds them. -/
def Dom.formUrgent (d : Dom) (sd : Side) : (fuel : Nat) → Dom
  | 0 => d
  | n + 1 =>
    match Ix4.all.findSome? (d.q.formsNext sd true) with
    | some (o, c) => ((d.formFrame o c 240).pumpUrgent sd).formUrgent sd n
    | none => d

/-- A new frame in the cell, taken round robin from the berths' queues and the Gleaner; none where there is none. -/
def Dom.sendNew (d : Dom) (sd : Side) (c : CellAt) (max : Nat) : Option Dom :=
  let src (i : Nat) : Option Dom :=
    let d0 := d.onLock (fun l => { l with rr := (i + 1) % 5 })
    let first (d : Dom) : Option Dom := ((d.q.waiting sd).find? (fun f => decide (f.sends = 0))).map (fun f => d.sendRetained sd f c)
    if i = 4 then first d0
    else match d.q.formsNext sd false (Ix4.of i) with
      | some (o, k) =>
        let d1 := d0.formFrame o k (max - 16)
        match (d1.q.waiting sd).find? (fun f => decide (f.sends = 0) && decide (f.token = o.token)) with
        | some f => some (d1.sendRetained sd f c)
        | none => some d1
      | none => none
  (List.range 5).findSome? (fun k => src ((d.q.lock.rr + k) % 5))

/-- The relayed frame that leaves first: its cell starts at least 192 ns after the end of the slot in which it was heard (R459). -/
def Dom.relayNext (d : Dom) (sd : Side) (c : CellAt) (max : Nat) : Option Nat :=
  (d.q.lock.relayQ.get sd).findIdx? (fun h =>
    decide (d.slotStart sd.other h.sf (h.slot.toNat + 1) + 192 ≤ d.slotStart sd c.sf c.slot) && decide (h.frame.payload.length ≤ max))

/-- Whether the pools can be read: the fabric clock runs and their stacks serve (R133, R350). -/
def Polder.poolsServe (q : Polder) : Bool := !q.clocks.stopped && !q.hbmWaits .hbm q.poolBase 0x1080000

/-- What goes out in an own cell: ACK, relayed and RSUM, retransmissions, new frames, or IDLE, which is all there is while the pools do not
serve. -/
def Dom.fillCell (d0 : Dom) (sd : Side) (c : CellAt) (max : Nat) : Dom :=
  let d1 := (d0.purgeRelay sd).purgeSets
  let d := if d1.q.poolsServe then d1.formUrgent sd 64 else d1
  match d.ackNext sd c.sf max with
  | some (rs, f) =>
    if d.q.clocks.stopped then d.idle sd c
    else (((d.on (·.acked rs)).bump (Off.xfCount sd 7) (rs.countP (·.reject.isSome))).spread sd f).send sd f c false none
  | none =>
    if !d.q.poolsServe then d.idle sd c
    else match d.relayNext sd c max with
    | some i =>
      let x := (d.onLock (fun l => { l with relayQ := l.relayQ.set sd ((l.relayQ.get sd).eraseIdx i) })).poolRead .relay
      match (d.q.lock.relayQ.get sd)[i]?, x.2 with
      | some h, true => (x.1.bump (Off.lockCount 0) 1).send sd h.frame c false none
      | _, _ => x.1.idle sd c
    | none =>
      let fits (f : TxFrame) : Bool := decide (f.frame.payload.length ≤ max)
      match (d.q.waiting sd).find? (fun f => fits f && decide (frameOp f.frame = 3) && decide (f.frame.typ = 0)) with
      | some f => d.sendRetained sd f c
      | none =>
        match (d.q.waiting sd).find? (fun f => fits f && decide (1 ≤ f.sends)) with
        | some f => d.sendRetained sd f c
        | none => (d.sendNew sd c max).getD (d.idle sd c)

/-- CELL_SEND: the sluice sends in the cell of a wavelength in the slot that runs, where the map gives it that cell; without a valid map it
sends nothing, and MAP_MISS counts once for the superframe. -/
def Dom.cellSend (d : Dom) (sd : Side) (wave : BitVec 4) : Dom :=
  let x := d.sluice sd
  let c := d.cellNow sd wave.toNat
  let port := decide (x.state = .joined) || (decide (x.state = .candidate) && decide (x.back = .joined))
  if !port || decide (c.slot < 5) then d
  else match x.mapFor c.sf with
    | none => d.mapMiss sd c.sf
    | some m =>
      if x.state = .joined ∧ x.rtt.isSome ∧ m.at c.slot c.wave = x.index ∧ x.canDrive (slotNo c.sf c.slot) c.wave then
        d.fillCell sd c (if x.gen.getLsbD c.wave then 2048 else 1024)
      else d

/-! ## The commands -/

def execFrameReceive (p : Ix4) (sd : Side) (h : Heard) (s : State) : Host.Outcome State Fault Refusal :=
  .next (s.act p (·.hear sd h))

def execBeacon (p : Ix4) (sd : Side) (s : State) : Host.Outcome State Fault Refusal := .next (s.act p (·.beacon sd))

def execSlewEnd (p : Ix4) (s : State) : Host.Outcome State Fault Refusal := .next (s.act p (·.on Polder.endSlew))

def execRequest (p : Ix4) (sd : Side) (s : State) : Host.Outcome State Fault Refusal := .next (s.act p (·.request sd))

def execEcho (p : Ix4) (sd : Side) (e : EchoOf) (s : State) : Host.Outcome State Fault Refusal := .next (s.act p (·.echo sd e))

def execBackoffExpiry (p : Ix4) (sd : Side) (s : State) : Host.Outcome State Fault Refusal := .next (s.act p (·.backoffEnd sd))

def execBeaconSend (p : Ix4) (sd : Side) (sf : Nat) (s : State) : Host.Outcome State Fault Refusal :=
  .next (s.act p (·.masterBeacon sd sf))

def execCandidate (p : Ix4) (sd : Side) (s : State) : Host.Outcome State Fault Refusal := .next (s.act p (·.candidate sd))

def execCandidateBeacon (p : Ix4) (sd : Side) (sf : Nat) (s : State) : Host.Outcome State Fault Refusal :=
  .next (s.act p (·.candidateBeacon sd sf))

def execMasterEchoFail (p : Ix4) (sd : Side) (s : State) : Host.Outcome State Fault Refusal := .next (s.act p (·.masterFails sd))

def execPortRemove (p : Ix4) (sd : Side) (addr : BitVec 12) (s : State) : Host.Outcome State Fault Refusal :=
  .next (s.act p (·.removePort sd addr))

def execSilent (p : Ix4) (sd : Side) (s : State) : Host.Outcome State Fault Refusal := .next (s.act p (·.silence sd))

def execCellSend (p : Ix4) (sd : Side) (wave : BitVec 4) (s : State) : Host.Outcome State Fault Refusal :=
  .next (s.act p (·.cellSend sd wave))

def execCalDue (p : Ix4) (sd : Side) (ring : BitVec 4) (slot : Nat) (s : State) : Host.Outcome State Fault Refusal :=
  .next (s.act p (·.calDue sd ring slot))

def execCalForced (p : Ix4) (sd : Side) (ring : BitVec 4) (slot : Nat) (s : State) : Host.Outcome State Fault Refusal :=
  .next (s.act p (·.calForced sd ring slot))

def execJoinDelayExpiry (p : Ix4) (sd : Side) (s : State) : Host.Outcome State Fault Refusal := .next (s.act p (·.joinRequest sd))

def execJoinSlow (p : Ix4) (s : State) : Host.Outcome State Fault Refusal := .next (s.act p Dom.joinLate)

def execSluicePllUnlock (p : Ix4) (sd : Side) (s : State) : Host.Outcome State Fault Refusal := .next (s.act p (·.pllLost sd))

def execSluicePllRelock (p : Ix4) (sd : Side) (s : State) : Host.Outcome State Fault Refusal := .next (s.act p (·.pllBack sd))

def execRetransmit (p : Ix4) (sd : Side) (n : Nat) (s : State) : Host.Outcome State Fault Refusal :=
  .next (s.actOn p (fun d => (d.resend (.cell sd) sd n).pumpUrgent sd))

end Sys2Proof.Machine
end

