-- ==== Sys2Proof/Machine/Exp.lean ====
section
/-!
DEFINITION. Machine/Exp.lean: the functions that the spec gives up to a relative error (R303, R397), as fixed functions: what the part
computes is an opaque function of Config wherever that keeps the bound, and the exact value rounded to fp32 where it would not. The bound is
judged on an enclosure of the exact value. Log entry 18.
-/
namespace Sys2Proof.Machine

/-- An enclosure of a magnitude: `lo` × 2^e ≤ x ≤ `hi` × 2^e. -/
structure Span where
  lo : Nat
  hi : Nat
  e : Int
deriving DecidableEq, Repr

/-- The unit in which the functions below compute: 2^256 of it are 1. -/
def unit1 : Nat := 2 ^ 256

/-- A magnitude m × 2^e in units, from below and from above. -/
def unitsOf (m : Nat) (e : Int) : Nat × Nat :=
  if 0 ≤ e + 256 then (m * 2 ^ (e + 256).toNat, m * 2 ^ (e + 256).toNat)
  else (m / 2 ^ (-(e + 256)).toNat, ceilDiv m (2 ^ (-(e + 256)).toNat))

/-- 1 − z/k × (1 − z/(k + 1) × …), which is e^−z for k = 1, for z from `z.1` to `z.2` units and z at most 1. -/
def expTail (z : Nat × Nat) : (fuel k : Nat) → Nat × Nat
  | 0, _ => (0, unit1)
  | f + 1, k =>
    let t := expTail z f (k + 1)
    (unit1 - ceilDiv (z.2 * t.2) (k * unit1), unit1 - z.1 * t.1 / (k * unit1))

/-- A square taken `n` times. -/
def squares : (n : Nat) → Nat × Nat → Nat × Nat
  | 0, x => x
  | n + 1, x => squares n (x.1 * x.1 / unit1, ceilDiv (x.2 * x.2) unit1)

/-- e^−y for y from `y.1` to `y.2` units: the series at y ÷ 512, squared nine times; next to nothing from 256 on. -/
def expNeg (y : Nat × Nat) : Nat × Nat :=
  if 256 * unit1 ≤ y.1 then (0, 1) else squares 9 (expTail (y.1 / 512, ceilDiv y.2 512) 64 1)

/-- 1 ÷ (1 + e^−t), where `neg` is t's sign and `t` its magnitude. -/
def sigmoidSpan (neg : Bool) (t : Nat × Nat) : Span :=
  let x := expNeg t
  if neg then ⟨x.1 * unit1 / (unit1 + x.1), ceilDiv (x.2 * unit1) (unit1 + x.2), -256⟩
  else ⟨unit1 * unit1 / (unit1 + x.2), ceilDiv (unit1 * unit1) (unit1 + x.1), -256⟩

/-- |tanh t| for t of magnitude `t`: (1 − e^−2t) ÷ (1 + e^−2t). -/
def tanhSpan (t : Nat × Nat) : Span :=
  let x := expNeg (2 * t.1, 2 * t.2)
  ⟨(unit1 - x.2) * unit1 / (unit1 + x.2), ceilDiv ((unit1 - x.1) * unit1) (unit1 + x.1), -256⟩

def Span.times (x : Span) (m : Nat) (e : Int) : Span := ⟨x.lo * m, x.hi * m, x.e + e⟩

/-- Whether a value lies within 2^−`k` relative error of every value of the enclosure, whose sign `neg` says. -/
def Span.holds (x : Span) (k : Nat) (neg : Bool) : Num → Bool
  | .fin s m e =>
    let q := min e x.e
    let r := 2 ^ k * (m * 2 ^ (e - q).toNat)
    let f := 2 ^ (x.e - q).toNat
    (s == neg || m == 0) && decide ((2 ^ k - 1) * (x.hi * f) ≤ r) && decide (r ≤ (2 ^ k + 1) * (x.lo * f))
  | _ => false

/-- What the part computes, `cand`, where it keeps the bound. -/
def Span.settle (x : Span) (k : Nat) (neg : Bool) (cand : Word) : Word :=
  if x.holds k neg (f32num cand) then cand else f32of (.fin neg x.lo x.e)

/-- |0.797_884_6 × 2 × (v + 0.044_715 v³)| for v of magnitude m × 2^e, in units. -/
def geluArg (m : Nat) (e : Int) : Nat × Nat :=
  let v := m * 2 ^ e.toNat
  let d := 2 ^ (-e).toNat
  let num := 7978846 * v * (1000000 * d ^ 2 + 44715 * v ^ 2) * unit1
  let den := 5000000 * 1000000 * d ^ 3
  (num / den, ceilDiv num den)

/-- GELU in its tanh form, SiLU, the sigmoid and tanh (R303): 0.5 (1 + tanh u) is the sigmoid of 2u. At −∞ the rule gives GELU and SiLU no
value. -/
def geluOf (v : Word) : Word :=
  match f32num v with
  | .fin n m e => ((sigmoidSpan n (geluArg m e)).times m e).settle 8 n (Config.geluFn v)
  | .inf false => f32inf false
  | _ => Config.geluFn v

def siluOf (v : Word) : Word :=
  match f32num v with
  | .fin n m e => ((sigmoidSpan n (unitsOf m e)).times m e).settle 8 n (Config.siluFn v)
  | .inf false => f32inf false
  | _ => Config.siluFn v

def sigmoidOf (v : Word) : Word :=
  match f32num v with
  | .fin n m e => (sigmoidSpan n (unitsOf m e)).settle 8 false (Config.sigmoidFn v)
  | .inf true => 0
  | _ => (⟨1, 1, 0⟩ : Span).settle 8 false (Config.sigmoidFn v)

def tanhOf (v : Word) : Word :=
  match f32num v with
  | .fin n m e => (tanhSpan (unitsOf m e)).settle 8 n (Config.tanhFn v)
  | .inf n => (⟨1, 1, 0⟩ : Span).settle 8 n (Config.tanhFn v)
  | .nan => f32nan

/-- How often 2 divides a number. -/
def twosIn : (fuel m : Nat) → Nat
  | 0, _ => 0
  | f + 1, m => if m % 2 = 0 then 1 + twosIn f (m / 2) else 0

/-- EXP of an exact value (R397): 1 at 0, +0 at −∞, within 2^−20 of e^x elsewhere; at +∞ the rule gives it no value. -/
def expOf (x : Num) : Word :=
  match x with
  | .nan => f32nan
  | .inf true => 0
  | .inf false => Config.expFn false 0 1
  | .fin n m e =>
    if m = 0 then 0x3F800000
    else
      let y := expNeg (unitsOf m e)
      let k := twosIn (bitLen m) m
      let c := Config.expFn n (m / 2 ^ k) (e + k)
      if n then (⟨y.1, y.2, -256⟩ : Span).settle 20 false c
      else if y.1 = 0 then f32inf false
      else (⟨unit1 * unit1 / y.2, ceilDiv (unit1 * unit1) y.1, -256⟩ : Span).settle 20 false c

end Sys2Proof.Machine
end

