-- ==== Sys2Proof/Machine/Attention.lean ====
section
/-!
DEFINITION. Machine/Attention.lean: the arithmetic of ATTEND and BACKWARD on one row (13_ledger.md, R396 to R399, R404 to R406).
Rows, keys and values are lists of fp32 encodings, which hold every element of the formats exactly.
-/
namespace Sys2Proof.Machine

/-- RN(acc + a × b) with an exact product (R397). -/
def f32mac (acc a b : Word) : Word := f32of ((f32num acc).add ((f32num a).mul (f32num b)))

/-- A dot product in ascending order with one rounding per addition (R397). -/
def f32dot (a b : List Word) : Word := (a.zip b).foldl (fun acc p => f32mac acc p.1 p.2) 0

/-- EXP of the exact difference of two fp32 values (R397). -/
def expDiff (a b : Word) : Word := expOf ((f32num a).add (f32num b).neg)

/-- Whether an fp32 value is finite. -/
def f32finite (w : Word) : Bool :=
  match f32num w with
  | .fin _ _ _ => true
  | _ => false

/-- m, l and o of R397. -/
structure Soft where
  m : Word
  l : Word
  o : List Word
deriving DecidableEq, Repr

def Soft.init (hd : Nat) : Soft := ⟨f32inf true, 0, List.replicate hd 0⟩

/-- A score of R397. -/
def scoreOf (scale : Word) (q k : List Word) : Word := f32mul (f32dot q k) scale

/-- One visible key. -/
def Soft.step (x : Soft) (s : Word) (v : List Word) : Soft :=
  let y : Soft := if f32lt false x.m s then
      let c := expDiff x.m s
      ⟨s, f32mul x.l c, x.o.map (fun o => f32mul o c)⟩
    else x
  let e := expDiff s y.m
  { y with l := f32add y.l e, o := (y.o.zip v).map (fun p => f32add p.1 (f32mul e p.2)) }

/-- A row of ATTEND: statistics, output, and whether R406 makes the output NaN. -/
def attendRow (scale : Word) (hd : Nat) (q : List Word) (kv : List (List Word × List Word)) : Word × Word × List Word × Bool :=
  let x := kv.foldl (fun x p => x.step (scoreOf scale q p.1) p.2) (Soft.init hd)
  let bad := !kv.isEmpty && (!q.all f32finite || kv.any (fun p =>
    !f32finite (scoreOf scale q p.1) || !p.1.all f32finite || !p.2.all f32finite))
  let out := if f32lt false 0 x.l then x.o.map (fun o => f32div o x.l) else List.replicate hd 0
  (x.m, x.l, if bad then List.replicate hd f32nan else out, bad)

/-- Gradients of one key: dK and dV. -/
abbrev KeyGrad := List Word × List Word

/-- What a row of BACKWARD adds up to so far: Σ dS k, and the gradients of its visible keys in reverse order. -/
structure Back where
  dq : List Word
  grads : List KeyGrad
deriving DecidableEq, Repr

/-- One visible key of a row of BACKWARD, rounded after each operation (R399): `g` is what its gradient row holds. -/
def Back.step (x : Back) (scale m l di : Word) (q dO k v : List Word) (g : KeyGrad) : Back :=
  let p := if l = 0 ∨ l = 0x80000000#32 then 0 else f32div (expOf (f32num (f32sub (scoreOf scale q k) m))) l
  let ds := f32mul p (f32sub (f32dot dO v) di)
  { dq := (x.dq.zip k).map (fun y => f32add y.1 (f32mul ds y.2))
    grads := ((g.1.zip q).map (fun y => f32add y.1 (f32mul (f32mul scale ds) y.2)),
      (g.2.zip dO).map (fun y => f32add y.1 (f32mul p y.2))) :: x.grads }

/-- A row of BACKWARD: dQ, the new gradients of its visible keys, and whether R406 holds. -/
def backwardRow (scale : Word) (hd : Nat) (m l : Word) (q o dO : List Word) (kv : List (List Word × List Word)) (gs : List KeyGrad) :
    List Word × List KeyGrad × Bool :=
  let di := (dO.zip o).foldl (fun acc p => f32add acc (f32mul p.1 p.2)) 0
  let x := (kv.zip gs).foldl (fun x p => x.step scale m l di q dO p.1.1 p.1.2 p.2) (⟨List.replicate hd 0, []⟩ : Back)
  let bad := !kv.isEmpty && (!q.all f32finite || kv.any (fun p =>
    !f32finite (scoreOf scale q p.1) || !p.1.all f32finite || !p.2.all f32finite))
  (if kv.isEmpty then List.replicate hd 0 else if bad then List.replicate hd f32nan else x.dq.map (fun y => f32mul scale y),
    x.grads.reverse, bad)

end Sys2Proof.Machine
end

