-- ==== Sys2Proof/Machine/Harbour.lean ====
section
/-!
DEFINITION. Machine/Harbour.lean: harbour mode (R479): the rings in the host window by which frames for another grid travel.
Its counters and RETX_LIMIT are those of sluice R (log entry 23).
-/
namespace Sys2Proof.Machine

/-- HARB_CFG.EN. -/
def Polder.harbEn (q : Polder) : Bool := bitOf (q.stored (Off.lock + 0x28)) 8

def Polder.harbSize (q : Polder) : Nat := 2 ^ (q.stored (Off.lock + 0x28) % 32)

/-- Counter offset of pointer `k`: 0 TXTAIL, 1 TXHEAD, 2 RXTAIL, 3 RXHEAD. -/
def Polder.harbPtr (q : Polder) (k : Nat) : Nat := q.stored (Off.lock + 0x2C) / 16 * 16 + 4 * k

def Polder.harbIdx (q : Polder) (k : Nat) : Nat := q.ctr32 (q.harbPtr k) % q.harbSize

/-- A pointer read by the Lock, errors counted (R348, R349). -/
def Dom.harbGet (d : Dom) (k : Nat) : Dom × Nat := ((d.readCtr32 (d.q.harbPtr k)).1, d.q.harbIdx k)

/-- One frame written at TXTAIL; the answer says whether it was: not where the ring is off or full, nor where host memory cannot be
written, which stalls the rings. -/
def Dom.harbWrite (d : Dom) (f : Frame) : Dom × Bool :=
  if !d.q.harbEn then (d, false)
  else
    let t := d.harbGet 0
    let h := t.1.harbGet 1
    let t' := (t.2 + 1) % d.q.harbSize
    if t' = h.2 then (h.1, false)
    else
      let bs := d.q.frameBytes { f with slot := 0, wave := 0, sf := 0 }
      let x := h.1.deposit (d.q.stored64 (Off.lock + 0x18) % 2 ^ 48 / 64 * 64 + 2112 * t.2) (bs ++ zeros (2112 - bs.length))
      if x.2 then
        ((((x.1.onLock (fun l => { l with harbStalled := false })).writeCtr32 (d.q.harbPtr 0) t').bump (Off.lockCount 5) 1).msix 7, true)
      else (x.1.onLock (fun l => { l with harbStalled := true }), false)

/-- ACK frames for streams of other grids (R470). -/
def Dom.harbAcks (d : Dom) : Dom :=
  d.q.lock.rx.foldl (fun d r =>
    if r.ogrid ≠ d.q.grid ∧ (d.q.rxOf r.origin r.ogrid r.target r.kind).due.isSome then
      let r' := d.q.rxOf r.origin r.ogrid r.target r.kind
      (d.on (·.acked [r'])).onLock (fun l => { l with
        harbOut := l.harbOut ++ [d.q.mkFrame 1 r.origin r.ogrid false false 0 256 r'.entry] })
    else d) d

/-- Frames formed for transfers to other grids, as the windows of their streams allow. `fuel` bounds them. -/
def Dom.harbForm (d : Dom) : (fuel : Nat) → Dom
  | 0 => d
  | n + 1 =>
    match d.q.lock.xfer.findSome? (fun o => match o.ctl with
      | some c =>
        let w := d.q.xferWay o c
        if o.code.isNone && decide (o.formed < o.bytes.length) && decide (w.2.2.2.1 = some .harbour) &&
          decide ((d.q.txOf w.1 w.2.1 w.2.2.1).frames.length < 64) then some (o, c) else none
      | none => none) with
    | some (o, c) => (d.formFrame o c 2032).harbForm n
    | none => d

/-- ACK frames first, then the frames that wait, written while the ring takes them. -/
def Dom.harbFlush (d : Dom) : (fuel : Nat) → Dom
  | 0 => d
  | n + 1 =>
    match d.q.lock.harbOut with
    | f :: rest =>
      let x := d.harbWrite f
      if x.2 then (x.1.onLock (fun l => { l with harbOut := rest })).harbFlush n else x.1
    | [] =>
      match (d.q.lock.tx.flatMap (fun t => t.frames.take 64)).find? (fun f => f.queued && decide (f.via = .harbour)) with
      | none => d
      | some f =>
        let k := d.q.synced f.frame
        let g := if f.sends = 0 then launched k d.q.wharf.tide else k
        let x := d.harbWrite g
        if x.2 then
          (x.1.onLock (fun l => { l with tx := l.tx.map (fun t => { t with frames := t.frames.map (fun k =>
            if k = f then { k with frame := g, sends := k.sends + 1, queued := false, at_ := d.now } else k) }) })).harbFlush n
        else x.1

/-- All that can go out to the transmit ring. -/
def Dom.harbPump (d : Dom) : Dom := ((d.harbAcks).harbForm 64).harbFlush 4096

/-- A frame read from the receive ring: its tag is checked, and it is delivered, never relayed. One whose tag fails comes from a stranger
(R429). A Gleaner frame waits with those of sluice R. -/
def Dom.harbTake (d : Dom) (bs : List Byte) : Dom :=
  let x := parseFrame bs
  let f := x.1
  let h : Heard := ⟨true, 0, { f with relayed := true }, x.2, f.slot, f.wave, 0, false⟩
  let d1 := d.bump (Off.lockCount 6) 1
  if x.2 ≠ d.q.tagOf f then
    ((d1.onSluice .r (fun s => { s with stranger := word f.xmit.toNat })).slBump .r 3 1).slStick .r 4
  else if f.dst ≠ d.q.addr ∨ f.dgrid ≠ d.q.grid ∨ f.multicast then d1
  else if d.q.glFrame f ∧ f.typ = 0 then d1.onSluice .r (fun s => { s with inbox := s.inbox ++ [h] })
  else if f.typ = 1 then d1.takeAck .r h
  else if f.typ = 0 ∨ f.typ = 4 then d1.takeFrame .r h
  else d1

/-- Entries from RXHEAD up to the RXTAIL read; a read that fails stalls the rings. -/
def Dom.harbRead (d : Dom) (tail : Nat) : (fuel : Nat) → Dom
  | 0 => d
  | n + 1 =>
    let r := d.harbGet 3
    let h := r.2
    if h = tail then r.1
    else
      let x := r.1.fetch (d.q.stored64 (Off.lock + 0x20) % 2 ^ 48 / 64 * 64 + 2112 * h) 2112
      match x.2 with
      | none => x.1.onLock (fun l => { l with harbStalled := true })
      | some bs =>
        ((x.1.harbTake bs).writeCtr32 (d.q.harbPtr 3) ((h + 1) % d.q.harbSize)).harbRead tail n

/-- A write of 1 to HARB_DOORBELL. -/
def Dom.harbBell (d : Dom) : Dom :=
  if d.q.harbEn then
    let t := d.harbGet 2
    (t.1.harbRead t.2 d.q.harbSize).harbPump
  else d

/-- HARB_RETX: the n-th unacknowledged harbour frame again, and whatever could not be written. -/
def Dom.harbRetry (d : Dom) (n : Nat) : Dom := (d.resend .harbour .r n).harbPump

def execHarbRetx (p : Ix4) (n : Nat) (s : State) : Host.Outcome State Fault Refusal := .next (s.actOn p (·.harbRetry n))

end Sys2Proof.Machine
end

