-- ==== Sys2Proof/Machine/Regs.lean ====
section
/-!
DEFINITION. Machine/Regs.lean: accesses to the register window (03_access_and_impound.md, R66 to R75, R86 to R92; R10, R57 to R59): width
and alignment, read latches and write holders, the checks at a commit, the access classes, and what writing or reading a register sets off.
The MSI-X table (R518), the PLIC (R498 to R502) and the mailboxes' registers (18_watchhouse.md) are here too.
-/
namespace Sys2Proof.Machine

/-! ## Bit masks -/

/-- `a` without the bits of `m`. -/
def without (a m : Nat) : Nat := a - (a &&& m)

/-- Bits of `v` where `m` is set, bits of `old` elsewhere. -/
def blend (old v m : Nat) : Nat := without old m + (v &&& m)

/-! ## Who may issue -/

/-- Whether a master issues accesses at all (R81, R505, R521). -/
def Polder.canIssue (q : Polder) (m : Master) : Bool :=
  match m with
  | .berth b => (q.berths.get b).run.isSome
  | .hart h => let x := q.clerks.harts.get h; x.started && !x.halted && !x.impounded && !q.clocks.stopped
  | .host => q.host.linkUp && q.host.mse && !q.imp.host
  | .watchhouse => true

/-- A violation by a master, `eng` the engine that committed it for a berth. The Watchhouse is never impounded (R79). -/
def Dom.breachBy (d : Dom) (m : Master) (eng cause addr : Nat) (write : Bool) (data : Nat) : Dom :=
  match m with
  | .berth b => d.berthViolation b eng cause addr write (cell data)
  | .watchhouse => d
  | _ => d.violation m 0 cause addr write (cell data)

/-! ## Offsets outside the table of registers -/

/-- The inner mailbox (R532). -/
def isInner (o : Nat) : Bool := decide (Off.inner ≤ o) && decide (o < Off.inner + 0x10000)

/-- Whether an offset is half of a pair. -/
def isPair (o : Nat) : Bool :=
  match regSpec o with
  | some r => r.pair
  | none => false

/-- A double word of the table written; of a vector control word, the mask bit. -/
def HostFn.msixWrite (h : HostFn) (o v : Nat) : HostFn :=
  let i := (o - 0x800) / 4
  if o < 0xC00 then
    { h with table := Store.put h.table i (if i % 4 = 3 then word (v % 2) else word v) (if i % 4 = 3 then 1 else 0) }
  else h

/-! ## Mailboxes (R532, R535) -/

/-- Bytes of a list from offset `o` on replaced; the list is lengthened with zeros where it is too short. -/
def splice (l : List Byte) (o : Nat) (bs : List Byte) : List Byte :=
  let l' := l ++ zeros (o + bs.length - l.length)
  l'.take o ++ bs ++ l'.drop (o + bs.length)

/-- Bytes `o` to `o + n − 1` of a list that zeros follow. -/
def bytesAt (l : List Byte) (o n : Nat) : List Byte :=
  let b := (l.drop o).take n
  b ++ zeros (n - b.length)

/-- The response header (R535). -/
def Mailbox.response (m : Mailbox) : List Byte :=
  [m.status, m.cmd] ++ natLe 2 m.lastSeq.toNat ++ natLe 4 m.len ++ natLe 8 m.result.toNat

/-- The bytes of a mailbox area, none where no field lies. -/
def Mailbox.area (m : Mailbox) (o n : Nat) : Option (List Byte) :=
  if 0x100 ≤ o ∧ o + n ≤ 0x120 then some (bytesAt (natLe 32 m.req.toNat) (o - 0x100) n)
  else if 0x1000 ≤ o ∧ o + n ≤ 0x1010 then some (bytesAt m.response (o - 0x1000) n)
  else if 0x2000 ≤ o ∧ o + n ≤ 0x10000 then some (bytesAt m.data (o - 0x2000) n)
  else none

def Dom.onBox (d : Dom) (box : Ix2) (f : Mailbox → Mailbox) : Dom :=
  d.on (fun q => { q with watch := { q.watch with box := q.watch.box.put box (f (q.watch.box.at box)) } })

/-- The log entry of a mailbox access. BAR4 has no polder physical address (R89): there the address logged is free. -/
def Dom.boxLog (d : Dom) (m : Master) (c : LogCause) (box : Ix2) (o : Nat) : Dom :=
  match box with
  | .o => d.accLog m c (winBase + Off.inner + o)
  | .z =>
    let f := d.q.free
    { d with q := f.2 }.accLog m c (f.1.toNat % 2 ^ 48)

/-- The registers of a mailbox below its areas. -/
def boxNamed (o : Nat) : Bool := decide (o = 0) || decide (o = 4) || decide (o = 0xC)

/-- Whether an access to a mailbox meets the checks of R76: it is well formed, and a field lies there (R26, R87). -/
def Mailbox.answers (b : Mailbox) (o size : Nat) : Bool :=
  if 0x100 ≤ o then (b.area o size).isSome
  else decide (size ≠ 0) && decide (o % size = 0) && (decide (size = 4) || decide (size = 8))
    && (boxNamed o || (decide (size = 8) && boxNamed (o + 4)))

/-- One word of MB_STATUS, MB_DOORBELL or WH_RESET written. Bits that hardware sets in the cycle stay 1 and are counted (R72). -/
def Dom.boxWord (d : Dom) (m : Master) (box : Ix2) (o v set : Nat) : Dom :=
  if o = 0 then
    (d.onBox box (fun b => { b with
      done := (b.done && !bitOf v 1) || bitOf set 1
      reject := (b.reject && !bitOf v 2) || bitOf set 2 })).bump Off.setwinCount (popcount 3 (v &&& set &&& 6))
  else if o = 4 then d.onBox box (fun b => { b with reject := b.reject || b.busy })
  else if o = 0xC then d
  else d.boxLog m .reserved box o

/-- A write to a mailbox. Commands and WH_RESET come as rows of their own; a write to MB_DOORBELL here only meets BUSY (R535). -/
def Dom.boxWrite (d : Dom) (m : Master) (box : Ix2) (o size v : Nat) (co : Coincide) : Dom :=
  let b := d.q.watch.box.at box
  if 0x100 ≤ o then
    match b.area o size with
    | none => d.boxLog m .reserved box o
    | some _ =>
      if 0x2000 ≤ o then d.onBox box (fun b => { b with data := splice b.data (o - 0x2000) (natLe size v) })
      else if o < 0x120 then
        d.onBox box (fun b => { b with req := BitVec.ofNat 256 (leNat (splice (natLe 32 b.req.toNat) (o - 0x100) (natLe size v))) })
      else d
  else if o % size ≠ 0 then d.boxLog m .badalign box o
  else if size ≠ 4 ∧ size ≠ 8 then d.boxLog m .badwidth box o
  else
    let sets := co.setBits.toNat
    if size = 4 then d.boxWord m box o (v % 2 ^ 32) (sets % 2 ^ 32)
    else (d.boxWord m box o (v % 2 ^ 32) (sets % 2 ^ 32)).boxWord m box (o + 4) (v / 2 ^ 32) (sets / 2 ^ 32)

/-- A read of a mailbox. -/
def Dom.boxRead (d : Dom) (m : Master) (box : Ix2) (o size : Nat) : Dom × Nat :=
  let b := d.q.watch.box.at box
  let w (o : Nat) : Nat := if o = 0 then b.code else 0
  let named (o : Nat) : Bool := boxNamed o
  if 0x100 ≤ o then
    match b.area o size with
    | none => (d.boxLog m .reserved box o, 0)
    | some bs => (d, leNat bs)
  else if o % size ≠ 0 then (d.boxLog m .badalign box o, 2 ^ (8 * size) - 1)
  else if size ≠ 4 ∧ size ≠ 8 then (d.boxLog m .badwidth box o, w (o / 4 * 4) / 2 ^ (8 * (o % 4)) % 2 ^ (8 * size))
  else
    let d1 := if named o then d else d.boxLog m .reserved box o
    if size = 4 then (d1, w o)
    else (if named (o + 4) then d1 else d1.boxLog m .reserved box (o + 4), w o + 2 ^ 32 * w (o + 4))

/-! ## The PLIC (R498, R502) -/

def Dom.onPlic (d : Dom) (f : Plic → Plic) : Dom := d.on (fun q => { q with clerks := { q.clerks with plic := f q.clerks.plic } })

def Plic.priority (c : Plic) (n : Nat) : Nat := (Store.getD c.prio n 0).toNat

/-- Whether source `n` is enabled for context `x`. -/
def Plic.enabled (c : Plic) (x n : Nat) : Bool :=
  (Store.getD c.enable (0x80 * x + 4 * (n / 32)) 0).getLsbD (n % 32)

/-- The pending and enabled source of highest priority, the lowest-numbered of equals; priority 0 never interrupts. -/
def Polder.plicBest (q : Polder) (x : Nat) : Option Nat :=
  let c := q.clerks.plic
  ((List.range 35).filter (fun n => q.plicPending.getLsbD n && c.enabled x n && decide (0 < c.priority n))).foldl
    (fun best n => match best with
      | none => some n
      | some m => if c.priority m < c.priority n then some n else best) none

/-- A claim by context `x`: the source, 0 for none. -/
def Dom.plicClaim (d : Dom) (x : Nat) : Dom × Nat :=
  match d.q.plicBest x with
  | none => (d, 0)
  | some n =>
    (d.onPlic (fun c => { c with
      edge := c.edge &&& ~~~(1#35 <<< n), claimed := c.claimed ||| (1#35 <<< n), owner := Store.insert c.owner n x }), n)

/-- A completion by context `x`: a held event becomes pending. A source that is not enabled for the context is ignored. -/
def Plic.complete (c : Plic) (x n : Nat) : Plic :=
  if n < 35 ∧ c.enabled x n ∧ c.claimed.getLsbD n then
    { c with
      claimed := c.claimed &&& ~~~(1#35 <<< n)
      owner := Store.erase c.owner n
      edge := c.edge ||| (c.held &&& (1#35 <<< n))
      held := c.held &&& ~~~(1#35 <<< n) }
  else c

/-- A write to a PLIC register. -/
def Plic.put (c : Plic) (o v : Nat) : Plic :=
  if o < 0x1000 then { c with prio := Store.put c.prio (o / 4) (word v) 0 }
  else if o < 0x2000 then c
  else if o < 0x4000 then { c with enable := Store.put c.enable (o - 0x2000) (word v) 0 }
  else if o % 0x1000 = 0 then { c with threshold := Store.put c.threshold ((o - 0x4000) / 0x1000) (word v) 0 }
  else c.complete ((o - 0x4000) / 0x1000) v

/-! ## What a written register sets off -/

/-- A hart starts at its entry in M-mode (R491). -/
def Polder.startHart (q : Polder) (h : Ix4) (pc : Nat) : Polder :=
  let x := q.clerks.harts.get h
  if x.started then q
  else { q with clerks := { q.clerks with harts := q.clerks.harts.set h { Hart.reset with
    started := true, impounded := x.impounded, pc := cell pc } } }

/-- CLERK_START: hart 0 starts harts 1 to 3 (R491). -/
def Polder.startHarts (q : Polder) (v : Nat) : Polder :=
  [Ix4.i1, Ix4.i2, Ix4.i3].foldl (fun q h =>
    if bitOf v h.toNat then q.startHart h (q.stored64 (Off.hartEntry h.toNat)) else q) q

/-- An enabled aperture whose addresses break the rules of R513 sets HWIN_BAD. -/
def Dom.checkAperture (d : Dom) (n : Nat) : Dom :=
  let ap := d.q.aperture n
  if ap.en && !ap.good then d.stick Off.hostSticky 0x10 else d

/-- The SRC of a master's record; the Charter engine and the Watchhouse write as the monitor. -/
def srcOf : Option Master → Nat
  | some m => impSrc m 0
  | none => 15

/-- What a commit to the register at `o` sets off once its fields are written. `v` is the word written, `old` the value before. -/
def Dom.sideEffects (d : Dom) (m : Option Master) (o v old : Nat) : Dom :=
  if o = Off.doorbell then d.ringBell (v % 16)
  else if o = Off.millDiv then d.scheduleDiv (v % 4)
  else if o = Off.clkTest then d.onClocks Clocks.askRelock
  else if o = Off.harbDoorbell then (if bitOf v 0 then d.harbBell else d)
  else if o = Off.clerkStart then (if m = some (.hart .i0) then d.on (·.startHarts v) else d)
  else if o = Off.sluice .r + 0xC then (if d.q.stored o ≠ old then d.demandChanged .r else d)
  else if o = Off.sluice .c + 0xC then (if d.q.stored o ≠ old then d.demandChanged .c else d)
  else if 0x100 ≤ o ∧ o < 0x300 then d.checkAperture ((o - 0x100) / 0x20)
  else if 0x40000 ≤ o ∧ o < 0x50000 ∧ o % 0x4000 = 0x10 then
    (if bitOf v 0 then d.onBerth (Ix4.of (o / 0x4000)) (fun x => if x.running.isSome then x.raise 1 else x) else d)
  else d

/-! ## Field writes (R10) -/

/-- The block's IDLE bit for an ID field (R57): a ring's own, and HARB_CFG.EN = 0 for the harbour. -/
def Polder.idleFor (q : Polder) (o : Nat) : Bool :=
  if 0x30100 ≤ o ∧ o < 0x30300 then q.ringIdle ((o - 0x30100) / 0x20)
  else if Off.lock ≤ o ∧ o < Off.lock + 0x100 then !q.harbEn
  else true

/-- A counter's half at a write in the cycle of an increment: the write wins and LOST is set (R92). -/
def Polder.lostIncrement (q : Polder) (o inc : Nat) : Polder :=
  match regSpec o with
  | some r =>
    if r.counter && decide (inc ≠ 0) then
      let h := o / 8 * 8 + 4
      q.store h (q.stored h ||| 0x20000)
    else q
  | none => q

/-- The fields of the register at `o` written by a master after lock, or (`charter`) by the Charter engine, but for W1C bits in `keep`. -/
def Polder.fieldWrite (q : Polder) (o v keep : Nat) (idle boundary charter : Bool) : Polder :=
  match regSpec o with
  | none => q
  | some r =>
    let hold := q.charter.lock && !charter
    let take := r.rw ||| r.lv ||| r.woc ||| (if idle then r.idm else 0) ||| (if hold then 0 else r.ts)
    let old := q.stored o
    let val := without (blend old v take) (without (v &&& r.w1c) keep)
    let q1 := q.store o val
    let q2 := if r.ts ≠ 0 ∧ hold then
        (if boundary then { q1 with heldNext := Store.insert q1.heldNext o (word (v &&& r.ts)) }
         else { q1 with held := Store.insert q1.held o (word (v &&& r.ts)) })
      else q1
    let q3 := if r.woc ≠ 0 then { q2 with woc := if q2.woc.contains o then q2.woc else o :: q2.woc } else q2
    if 0x30100 ≤ o ∧ o < 0x30300 ∧ r.idm ≠ 0 ∧ idle then (let n := (o - 0x30100) / 0x20; q3.onRing n (fun r => { r with phase := true, mtail := q3.ptr n 1, moved := false }))
    else q3

/-- VALID of IMP_VALID written with 1 clears the records with it (R85); VALID of MEM_UE_ADDR is cleared (R349). `v` holds the bits that the
write clears. -/
def Polder.typedClear (q : Polder) (o v : Nat) : Polder :=
  if o = Off.impValid then
    let i := q.imp
    let i1 := if bitOf v 0 then
      { i with valid := false, cause := 0, write := false, master := 0, engine := 0, addr := 0, data := 0, tide := 0 } else i
    { q with imp := if bitOf v 1 then { i1 with overrun := false } else i1 }
  else if o = 0x10008C ∧ bitOf v 31 then { q with memctl := { q.memctl with ueValid := false } }
  else q

/-- One word of a commit: hardware sets that fall in the cycle, the fields, and what they set off. The sets win over the bits cleared and
are counted (R72). For IMP_VALID a set bit says that the violation whose row comes next falls in the cycle: the record is cleared first, so
that the violation's record stands (R91). Log entry 113. -/
def Dom.putWord (d : Dom) (m : Option Master) (o v set inc : Nat) (boundary charter : Bool) : Dom :=
  match regSpec o with
  | none => d
  | some r =>
    let old := d.q.stored o
    let met := v &&& r.w1c &&& set
    let keep := if o = Off.impValid then 0 else set
    let d1 := (d.stick o (keep &&& r.w1c)).bump Off.setwinCount (popcount 32 met)
    let d2 := d1.on (fun q =>
      ((q.fieldWrite o v keep (charter || q.idleFor o) boundary charter).typedClear o (without (v &&& r.w1c) keep)).lostIncrement o inc)
    let d3 := if 0x150000 ≤ o ∧ o < 0x160000 then d2.onPlic (·.put (o - 0x150000) v) else d2
    d3.sideEffects m o v old

/-- A write by the Charter engine (R50, R62); an entry that no writable field takes is counted in CHARTER_WARN. One that names CLK_TEST is
taken, and asks for a relock (log entry 118). -/
def Dom.charterWrite (d : Dom) (o v : Nat) : Dom :=
  let ok := match regSpec o with
    | some r => decide (r.mask ≠ 0)
    | none => false
  if ok then
    let d1 := d.putWord none o v 0 0 false true
    if o = Off.mark then d1.log 0x0B 15 (natLe 8 v) else if o = Off.mark + 4 then d1.log 0x0B 15 (natLe 8 (v * 2 ^ 32)) else d1
  else d.on (fun q => { q with charter := { q.charter with warn := min (q.charter.warn + 1) 0xFFFFFFFF } })

/-! ## Commits (R69, R77, R88) -/

/-- Whether a write to a word is a LOCK violation (R77, R135). -/
def Polder.lockBreach (q : Polder) (m : Master) (o : Nat) : Bool :=
  match regSpec o with
  | none => false
  | some r => r.fuse || (q.charter.lock && (decide (r.rw ≠ 0) || (decide (r.woc ≠ 0) && q.woc.contains o)))
      || (decide (o = Off.clkTest) && decide (m ≠ .watchhouse))

/-- The words of a commit of `n` bytes. -/
def commitWords (o n : Nat) : List Nat := if n = 8 then [o, o + 4] else [o]

/-- Whether the register window takes no writes but the Charter engine's (R59, R97). -/
def Polder.bootWrites (q : Polder) : Bool :=
  match q.boot with
  | .charter | .hbmtrain | .powered | .absent => true
  | _ => false

/-- A commit of one register or pair. The answer is the cause that the Watchhouse's write meets (R559): a code of R77, 0 for boot. -/
def Dom.commit (d : Dom) (m : Master) (eng o n v : Nat) (co : Coincide) : Dom × Option Nat :=
  let addr := winBase + o
  let wm : Bool := decide (m = .watchhouse)
  if isMsix o then
    if m = .host then
      if d.q.fenced 8 addr n true then (d.breachBy m eng 4 addr true v, some 4)
      else (d.on (fun q => { q with host := q.host.msixWrite o v }), none)
    else (d.accLog m .reserved addr, none)
  else if (regSpec o).isNone then (d.accLog m .reserved addr, none)
  else if d.q.bootWrites then (d.accLog m .bootwrite addr, some 0)
  else if !wm && d.q.fenced (masterCode m) addr n true then (d.breachBy m eng 4 addr true v, some 4)
  else if (commitWords o n).any (d.q.lockBreach m) then (d.breachBy m eng 5 addr true v, some 5)
  else
    let busy := (commitWords o n).any (fun w => match regSpec w with
      | some r => decide (r.idm ≠ 0) && !d.q.idleFor w
      | none => false)
    let d1 := if busy then d.accLog m .idbusy addr else d
    let sets := co.setBits.toNat
    let d2 := if n = 8 then
        (d1.putWord (some m) o (v % 2 ^ 32) (sets % 2 ^ 32) co.inc co.boundary false).putWord (some m) (o + 4) (v / 2 ^ 32)
          (sets / 2 ^ 32) co.inc co.boundary false
      else d1.putWord (some m) o (v % 2 ^ 32) (sets % 2 ^ 32) co.inc co.boundary false
    let d3 := if o = Off.mark then d2.log 0x0B (impSrc m 0) (natLe 8 v)
      else if o = Off.mark + 4 then d2.log 0x0B (impSrc m 0) (natLe 8 (v * 2 ^ 32)) else d2
    (d3, none)

/-- No hardware event in the cycle. -/
def Coincide.none : Coincide := ⟨0, 0, false⟩

/-- A held low half committed alone before the master's next access (R69), and the cause that the Watchhouse meets by it (R79). -/
def Dom.flushCause (d : Dom) (m : Master) (eng : Nat) : Dom × Option Nat :=
  match d.q.holders.find? (fun h => decide (h.master = m)) with
  | none => (d, none)
  | some h =>
    (d.on (fun q => { q with holders := q.holders.filter (fun x => decide (x.master ≠ m)) })).commit m eng h.offset 4
      h.value.toNat Coincide.none

def Dom.flushHolder (d : Dom) (m : Master) (eng : Nat) : Dom := (d.flushCause m eng).1

/-- Whether a master has become impounded since `q`: it then issues nothing further (R80). -/
def Dom.cutOff (d : Dom) (q : Polder) (m : Master) : Bool := d.q.isImpounded m && !q.isImpounded m

/-- An access of a master to anything but its held pair: what it holds is committed first, and where that impounds it the access is not
made (R69, R80). -/
def Dom.precede (d : Dom) (m : Master) (eng : Nat) (f : Dom → Dom) : Dom :=
  let d1 := d.flushHolder m eng
  if d1.cutOff d.q m then d1 else f d1

/-- `Dom.precede` for an access that answers a value, `z` where it is not made. -/
def Dom.precedeFor {α : Type} (d : Dom) (m : Master) (eng : Nat) (z : α) (f : Dom → Dom × α) : Dom × α :=
  let d1 := d.flushHolder m eng
  if d1.cutOff d.q m then (d1, z) else f d1

/-- Why an access to the window is malformed (R66, R86). One that is narrow and misaligned counts as misaligned (log entry 117). -/
def malformedAs (o size : Nat) : Option LogCause :=
  if size = 0 ∨ o % size ≠ 0 then some .badalign else if size ≠ 4 ∧ size ≠ 8 then some .badwidth else none

/-- A write of a hart to the inner mailbox, under the fences (R76, R532). -/
def Dom.innerWrite (d : Dom) (m : Master) (o size v : Nat) (co : Coincide) : Dom :=
  if (d.q.watch.box.at .o).answers (o - Off.inner) size && d.q.fenced (masterCode m) (winBase + o) size true then
    d.breachBy m 0 4 (winBase + o) true v
  else d.boxWrite m .o (o - Off.inner) size v co

/-- A write that commits at once: the register, the pair, or the two registers that a 64-bit access falls on, the lower one first. A master
that the first impounds makes no second access (R70, R80; log entry 115). -/
def Dom.commitAll (d : Dom) (m : Master) (eng o size v : Nat) (co : Coincide) : Dom × Option Nat :=
  if size = 8 ∧ isPair o = false then
    let x := d.commit m eng o 4 (v % 2 ^ 32) { co with setBits := co.setBits &&& 0xFFFFFFFF#64 }
    if x.1.cutOff d.q m then x
    else
      let y := x.1.commit m eng (o + 4) 4 (v / 2 ^ 32) { co with setBits := co.setBits >>> 32 }
      (y.1, match x.2 with
        | some c => some c
        | none => y.2)
  else d.commit m eng o size v co

/-- A master's write to the register window, and the cause the Watchhouse meets, by this access or by the commit of what it held. -/
def Dom.regWrite (d : Dom) (m : Master) (eng o size v : Nat) (co : Coincide) : Dom × Option Nat :=
  let addr := winBase + o
  let paired := !isInner o && (malformedAs o size).isNone && decide (size = 4) && isPair o && decide (o % 8 = 4)
  match (if paired then d.q.holders.find? (fun h => decide (h.master = m) && decide (h.offset + 4 = o)) else none) with
  | some h =>
    (d.on (fun q => { q with holders := q.holders.filter (fun x => decide (x.master ≠ m)) })).commit m eng (o - 4) 8
      (h.value.toNat + 2 ^ 32 * (v % 2 ^ 32)) { co with setBits := co.setBits <<< 32 }
  | none =>
    let f := d.flushCause m eng
    if f.1.cutOff d.q m then f
    else if isInner o then
      (match m with
        | .hart _ => f.1.innerWrite m o size v co
        | _ => f.1.accLog m .reserved addr, f.2)
    else match malformedAs o size with
    | some c => (f.1.accLog m c addr, f.2)
    | none =>
      if size = 4 ∧ isPair o ∧ o % 8 = 0 then
        (f.1.on (fun q => { q with holders := ⟨m, o, word (v % 2 ^ 32)⟩ :: q.holders }), f.2)
      else
        let x := f.1.commitAll m eng o size (if size = 4 then v % 2 ^ 32 else v) co
        (x.1, f.2.or x.2)

/-! ## Reads (R68, R75, R86) -/

/-- One word read, with its side effect (R498, R256). -/
def Dom.readWord (d : Dom) (m : Master) (o : Nat) : Dom × Nat :=
  let v := d.q.peek m o
  if isMsix o then (if m = .host then d else d.accLog m .reserved (winBase + o), v)
  else if (regSpec o).isNone then (d.accLog m .reserved (winBase + o), 0)
  else match signalAt o, claimAt o with
  | some b, _ => (d.onBerth b (fun x => { x with sigValid := false }), v)
  | none, some x => d.plicClaim x
  | none, none => (d, v)

/-- Whether fences refuse a read; an unassigned offset is answered first (R26). -/
def Polder.readFenced (q : Polder) (m : Master) (o n : Nat) : Bool :=
  decide (m ≠ .watchhouse) && ((regSpec o).isSome || (isMsix o && decide (m = .host))) &&
    q.fenced (masterCode m) (winBase + o) n false

/-- A read of one 32-bit register, through the master's latch. -/
def Dom.readHalf (d : Dom) (m : Master) (eng o : Nat) : Dom × Nat × Option Nat :=
  if d.q.readFenced m o 4 then (d.breachBy m eng 4 (winBase + o) false 0, 0, some 4)
  else if isPair o then
    if o % 8 = 0 then
      let hi := d.q.peek m (o + 4)
      let x := d.readWord m o
      (x.1.on (fun q => { q with
        latches := ⟨m, o, word hi⟩ :: q.latches.filter (fun l => decide (l.master ≠ m)) }), x.2, none)
    else match d.q.latches.find? (fun l => decide (l.master = m) && decide (l.offset + 4 = o)) with
      | some l => (d.on (fun q => { q with latches := q.latches.filter (fun x => decide (x.master ≠ m)) }), l.value.toNat, none)
      | none => let x := d.readWord m o; (x.1, x.2, none)
  else let x := d.readWord m o; (x.1, x.2, none)

/-- A read of the inner mailbox by a hart, under the fences (R76, R532). -/
def Dom.innerRead (d : Dom) (m : Master) (o size : Nat) : Dom × Nat :=
  if (d.q.watch.box.at .o).answers (o - Off.inner) size && d.q.fenced (masterCode m) (winBase + o) size false then
    (d.breachBy m 0 4 (winBase + o) false 0, 0)
  else d.boxRead m .o (o - Off.inner) size

/-- A read of one register, of a pair, or of the two registers that a 64-bit access falls on (R70, R80; log entry 115). -/
def Dom.readAll (d : Dom) (m : Master) (eng o size : Nat) : Dom × Nat × Option Nat :=
  if size ≠ 8 then d.readHalf m eng o
  else if isPair o then
    if d.q.readFenced m o 8 then (d.breachBy m eng 4 (winBase + o) false 0, 0, some 4)
    else (d, d.q.peek m o + 2 ^ 32 * d.q.peek m (o + 4), none)
  else
    let x := d.readHalf m eng o
    if x.1.cutOff d.q m then x
    else
      let y := x.1.readHalf m eng (o + 4)
      (y.1, x.2.1 + 2 ^ 32 * y.2.1, x.2.2.or y.2.2)

/-- A master's read of the register window: the value and the cause the Watchhouse meets, by this access or by the commit of what it
held. -/
def Dom.regRd (d : Dom) (m : Master) (eng o size : Nat) : Dom × Nat × Option Nat :=
  let addr := winBase + o
  let f := d.flushCause m eng
  if f.1.cutOff d.q m then (f.1, 0, f.2)
  else if isInner o then
    match m with
    | .hart _ => let x := f.1.innerRead m o size; (x.1, x.2, f.2)
    | _ => (f.1.accLog m .reserved addr, 0, f.2)
  else match malformedAs o size with
  | some .badalign => (f.1.accLog m .badalign addr, 2 ^ (8 * size) - 1, f.2)
  | some c =>
    let w := o / 4 * 4
    let v := if readsClear w then 0 else f.1.q.peek m w
    (f.1.accLog m c addr, v / 2 ^ (8 * (o % 4)) % 2 ^ (8 * size), f.2)
  | none =>
    let x := f.1.readAll m eng o size
    (x.1, x.2.1, f.2.or x.2.2)

/-! ## Commands that are accesses -/

/-- The engine through which a master reaches registers: the copy unit for a berth (R78). -/
def engineOf : Master → Nat
  | .berth _ => 4
  | _ => 0

/-- Whether a mailbox has reached a level: the Watchhouse's master acts for its READ and WRITE alone (R135, R531, R536). -/
def Polder.boxLevel (q : Polder) (n : Nat) : Bool := [Ix2.z, Ix2.o].any (fun b => decide (n ≤ (q.watch.box.at b).level))

/-- Whether a master can issue an access now, a write or a read. -/
def Polder.mayIssue (q : Polder) (m : Master) (write : Bool) : Bool :=
  q.canIssue m && (decide (m ≠ .watchhouse) || q.boxLevel (if write then 2 else 1))

/-- A write by a master that can issue it; the host's payload is counted. -/
def Dom.masterWrite (d : Dom) (m : Master) (o size v : Nat) (co : Coincide) : Dom :=
  if d.q.mayIssue m true then
    let d1 := if m = .host then d.bump Off.hostRx (ceilDiv size 4 * 4) else d
    if m = .host ∧ 0x400000 ≤ o then d1.precede m 0 (·.boxWrite m .z (o - 0x400000) size v co)
    else if o < 0x400000 then (d1.regWrite m (engineOf m) o size v co).1 else d
  else d

/-- A read by a master that can issue it. The host gets its completion. -/
def Dom.masterRead (d : Dom) (m : Master) (o size : Nat) : Dom :=
  if d.q.mayIssue m false then
    let x := d.regRd m (engineOf m) o size
    if m = .host then
      if x.1.q.imp.host then x.1.on (fun q => { q with host := { q.host with cpl := .unsupported } })
      else (x.1.on (fun q => { q with host := { q.host with cpl := .success (natLe size x.2.1) } })).bump Off.hostTx size
    else x.1
  else d

/-- An access at a window offset, or above it to BAR4: the window stands in the fabric clock's domain, the mailboxes and the MSI-X
table do not (R159, R518, R531). -/
def State.access (s : State) (p : Ix4) (o : Nat) (f : Dom → Dom) : State :=
  if isMsix o || isInner o || decide (0x400000 ≤ o) then s.act p f else s.actOn p f

def State.write32 (s : State) (p : Ix4) (m : Master) (o : Nat) (v : Word) : State :=
  s.access p o (·.masterWrite m o 4 v.toNat Coincide.none)

def State.read32 (s : State) (p : Ix4) (m : Master) (o : Nat) : State := s.access p o (·.masterRead m o 4)

/-- REGISTER_WRITE. -/
def execRegisterWrite (p : Ix4) (a : RegAccess) (co : Coincide) (s : State) : Host.Outcome State Fault Refusal :=
  .next (s.access p a.offset (·.masterWrite a.master a.offset a.size a.data.toNat co))

def execMillDivWrite (p : Ix4) (m : Master) (v : Word) (s : State) : Host.Outcome State Fault Refusal :=
  .next (s.write32 p m Off.millDiv v)

def execClkTestWrite (p : Ix4) (m : Master) (v : Word) (s : State) : Host.Outcome State Fault Refusal :=
  .next (s.write32 p m Off.clkTest v)

def execDoorbell (p : Ix4) (m : Master) (v : Word) (s : State) : Host.Outcome State Fault Refusal :=
  .next (s.write32 p m Off.doorbell v)

def execSlDemandWrite (p : Ix4) (sd : Side) (m : Master) (v : Word) (s : State) : Host.Outcome State Fault Refusal :=
  .next (s.write32 p m (Off.sluice sd + 0xC) v)

def execHarbDoorbell (p : Ix4) (m : Master) (v : Word) (s : State) : Host.Outcome State Fault Refusal :=
  .next (s.write32 p m Off.harbDoorbell v)

def execClerkStart (p : Ix4) (m : Master) (v : Word) (s : State) : Host.Outcome State Fault Refusal :=
  .next (s.write32 p m Off.clerkStart v)

def execMsip (p h : Ix4) (m : Master) (v : Word) (s : State) : Host.Outcome State Fault Refusal :=
  .next (s.write32 p m (Off.msip h.toNat) v)

def execPlicComplete (p : Ix4) (m : Master) (ctx : Nat) (v : Word) (s : State) : Host.Outcome State Fault Refusal :=
  .next (s.write32 p m (Off.plic + 0x4004 + 0x1000 * (ctx % 8)) v)

def execPlicClaim (p : Ix4) (m : Master) (ctx : Nat) (s : State) : Host.Outcome State Fault Refusal :=
  .next (s.read32 p m (Off.plic + 0x4004 + 0x1000 * (ctx % 8)))

def execBerthPoke (p b : Ix4) (m : Master) (v : Word) (s : State) : Host.Outcome State Fault Refusal :=
  .next (s.write32 p m (Off.berth b.toNat + 0x10) v)

/-- BERTH_SIGNAL_READ; a SIGNAL in its cycle leaves VALID at 1 with the new value (R254). -/
def execBerthSignalRead (p b : Ix4) (m : Master) (co : Option Byte) (s : State) : Host.Outcome State Fault Refusal :=
  .next (s.actOn p (fun d =>
    let d1 := d.masterRead m (Off.berth b.toNat + 0x14) 4
    match co with
    | some v => d1.onBerth b (fun x => { x with sigVal := v, sigValid := true })
    | none => d1))

/-- MARK: a 64-bit write. -/
def execMark (p : Ix4) (m : Master) (v : BitVec 64) (s : State) : Host.Outcome State Fault Refusal :=
  .next (s.actOn p (·.masterWrite m Off.mark 8 v.toNat Coincide.none))

end Sys2Proof.Machine
end

