-- ==== Sys2Proof/Machine/Operands.lean ====
section
/-!
DEFINITION. Machine/Operands.lean: the operand forms of wide instructions (R257 to R265), the addresses they name, and the checks made
at issue (R282, R287).
-/
namespace Sys2Proof.Machine

/-- SPACE of R260. -/
inductive Space where
  | bin | gran | ctr | com | stk
deriving DecidableEq, Repr

/-- MODE of R260 other than NONE. -/
inductive OpMode where
  | direct | stackbase | shape | indexed | ring | turn
deriving DecidableEq, Repr

/-- A descriptor as it decodes: NONE, a reserved code (R15), or an operand. -/
inductive Desc where
  | none
  | reserved
  | op (mode : OpMode) (space : Space) (i : Nat) (field : Nat)
deriving DecidableEq, Repr

def Space.ofCode : Nat → Option Space
  | 0 => some .bin | 1 => some .gran | 2 => some .ctr | 3 => some .com | 4 => some .stk | _ => none

def OpMode.ofCode : Nat → Option OpMode
  | 0 => some .direct | 1 => some .stackbase | 2 => some .shape | 3 => some .indexed | 4 => some .ring | 5 => some .turn
  | _ => none

/-- The 72-bit descriptor (R260). -/
def Desc.decode (v : BitVec 72) : Desc :=
  let n := v.toNat
  if bitsOf n 71 68 = 15 then .none
  else match OpMode.ofCode (bitsOf n 71 68), Space.ofCode (bitsOf n 67 65) with
    | some m, some s => .op m s (bitsOf n 64 60) (n % 2 ^ 60)
    | _, _ => .reserved

/-- A shape entry as a wide instruction reads it (R233): extents of 0 mean 1. -/
structure ShapeVal where
  base : Nat
  elem : Elem
  e0 : Nat
  e1 : Nat
  e2 : Nat
  e3 : Nat
  s1 : Int
  s2 : Int
  s3 : Int
  rlen : Nat
deriving DecidableEq, Repr

def extent (v : Nat) : Nat := if v = 0 then 1 else v

/-- The entry's fields, none where ELEM is reserved. -/
def ShapeVal.of (e : BitVec 256) : Option ShapeVal :=
  let n := e.toNat
  let f (o w : Nat) := n / 2 ^ o % 2 ^ w
  let st (o : Nat) : Int := (BitVec.ofNat 32 (f o 32)).toInt
  (Elem.ofCode (f 48 8)).map (fun x =>
    ⟨f 0 48, x, extent (f 64 16), extent (f 80 16), extent (f 96 16), extent (f 112 16), st 128, st 160, st 192, f 224 32⟩)

/-- An operand with the values it reads at issue: shape entry, the cell of STACKBASE or STK, and for INDEXED the index of each vector in
stream order. -/
structure Operand where
  mode : OpMode
  space : Space
  field : Nat
  sh : ShapeVal
  stack : Nat
  origin : Nat
  index : List Nat
deriving DecidableEq, Repr

def Operand.elem (o : Operand) : Elem := o.sh.elem

def Operand.size (o : Operand) : Nat := o.sh.elem.size

/-- The mill group a body selects: logical base and size (R257, R259). -/
structure Group where
  base : Nat
  n : Nat
deriving DecidableEq, Repr

/-- The origin O (R261): the base of the bin of the mill at position q, the popped cell, or 0. -/
def Operand.org (o : Operand) (g : Group) (q : Nat) : Nat :=
  match o.space with
  | .bin => (g.base + q) * 0x200000
  | .stk => o.origin
  | _ => 0

/-- Bytes of a vector (R265). -/
def Elem.vecBytes : Elem → Nat
  | .fp32 | .int32 => 128
  | _ => 64

/-- Elements of a format per vector (R265, R288). -/
def Elem.lanes (x : Elem) : Nat := x.vecBytes / x.size

/-- Vectors of a row of the operand, a part of one counted. -/
def Operand.perRow (o : Operand) : Nat := ceilDiv o.sh.e0 o.elem.lanes

/-- The number of the vector that an element lies in. -/
def Operand.vectorOf (o : Operand) (j0 j1 j2 : Nat) : Nat := (j2 * o.sh.e1 + j1) * o.perRow + j0 / o.elem.lanes

/-- The offset of an element (R262). -/
def Operand.offset (o : Operand) (j0 j1 j2 j3 : Nat) : Int :=
  let s : Int := o.size
  let lin : Int := s * (j0 + o.sh.e0 * (j1 + o.sh.e1 * j2) : Nat)
  let str : Int := o.sh.s1 * j1 + o.sh.s2 * j2 + o.sh.s3 * j3
  match o.mode with
  | .direct => (o.field : Int) + lin
  | .stackbase => ((o.stack + o.field % 2 ^ 54 : Nat) : Int) + lin
  | .shape => ((o.sh.base + o.field : Nat) : Int) + s * j0 + str
  | .indexed => (o.sh.base : Int) + s * j0 + o.sh.s1 * (o.index.getD (o.vectorOf j0 j1 j2) 0 : Nat) + o.sh.s3 * j3
  | .ring => (o.sh.base : Int) + ((o.field : Int) + s * j0 + str) % (o.sh.rlen : Int)
  | .turn => ((o.sh.base + o.field : Nat) : Int) + o.sh.s1 * j0 + s * j1 + o.sh.s2 * j2 + o.sh.s3 * j3

/-- The address of an element; in BIN space the offset is taken modulo 2 MiB (R261). -/
def Operand.addr (o : Operand) (g : Group) (q j0 j1 j2 j3 : Nat) : Int :=
  match o.space with
  | .bin => (o.org g q : Int) + o.offset j0 j1 j2 j3 % 0x200000
  | _ => (o.org g q : Int) + o.offset j0 j1 j2 j3

/-- Least and greatest value of a stride over an extent. -/
def strideSpan (st : Int) (e : Nat) : Int × Int :=
  let x := st * ((e - 1 : Nat) : Int)
  (min 0 x, max 0 x)

/-- First and past-the-end byte of the bounding box of the elements of the mill at position `q`, with `e3` values of j3 from there on (R287);
in BIN space before the offset is taken modulo 2 MiB. -/
def Operand.box (o : Operand) (g : Group) (q e3 : Nat) : Int × Int :=
  let s : Int := o.size
  let org : Int := if o.space = .bin then 0 else o.org g 0
  let a := strideSpan o.sh.s1 o.sh.e1
  let b := strideSpan o.sh.s2 o.sh.e2
  let d := strideSpan o.sh.s3 e3
  let c : Int × Int := (o.sh.s3 * q + d.1, o.sh.s3 * q + d.2)
  let total : Int := s * (o.sh.e0 * o.sh.e1 * o.sh.e2 : Nat)
  match o.mode with
  | .direct => (org + o.field, org + o.field + total)
  | .stackbase => let z : Int := org + o.stack + (o.field % 2 ^ 54 : Nat); (z, z + total)
  | .shape | .indexed =>
    let z : Int := org + o.sh.base + o.field
    (z + a.1 + b.1 + c.1, z + a.2 + b.2 + c.2 + s * (o.sh.e0 : Int))
  | .ring => (org + o.sh.base, org + o.sh.base + o.sh.rlen)
  | .turn =>
    let a' := strideSpan o.sh.s1 o.sh.e0
    let z : Int := org + o.sh.base + o.field
    (z + a'.1 + b.1 + c.1, z + a'.2 + b.2 + c.2 + s * (o.sh.e1 : Int))

/-- Read and write latency of the space (R261). -/
def Operand.lat (o : Operand) : Nat :=
  match o.space with
  | .bin => 6
  | .ctr => 4
  | _ => 72

/-! ## Reading descriptors at issue (R263) -/

/-- The depth of a STACKBASE cell, if the descriptor has one. -/
def Desc.stackDepth : Desc → Option Nat
  | .op .stackbase _ _ f => some (f / 2 ^ 54 % 32)
  | _ => Option.none

def Desc.isStk : Desc → Bool
  | .op _ .stk _ _ => true
  | _ => false

/-- Whether a descriptor names a shape entry that SHLD is still loading (R234). -/
def Berth.shapeBusy (x : Berth) : Desc → Bool
  | .op _ _ i _ => x.shapePend.any (fun s => decide (s.1 = i) && decide (x.mc < s.2.2))
  | _ => false

/-- The Counter address of the index of each vector in stream order; none outside INDEXED (R262). -/
def Operand.indexAt (o : Operand) : List Nat :=
  if o.mode = .indexed then
    (List.range (o.perRow * o.sh.e1 * o.sh.e2)).map (fun j =>
      counterBase + (o.field % 2 ^ 21 + 4 * (j / o.perRow % o.sh.e1)) % counterSize)
  else []

/-- An operand with its cells; none where ELEM is reserved. The inner none is NONE. -/
def mkOperand (q : Polder) (x : Berth) (dsc : Desc) (base : Nat) (origin : Nat) : Option (Option Operand) :=
  match dsc with
  | .none => some none
  | .reserved => none
  | .op m sp i f =>
    (ShapeVal.of (x.shape i)).map (fun sh =>
      let o : Operand := ⟨m, sp, f, sh, base % 2 ^ 48, origin % 2 ^ 48, []⟩
      some { o with index := (o.indexAt).map (fun a => q.mem.readNat a 4) })

/-- What a wide instruction has after reading its descriptors: D, A and B, and the operand stack that is left. -/
structure WideOps where
  d : Option Operand
  a : Option Operand
  b : Option Operand
  rest : List Slot
deriving DecidableEq, Repr

/-- Descriptors, STACKBASE cells and then STK cells read (R263): `k` on the operands, a trap where a cell is missing, and an undefined
result where a code is reserved, or an entry or a cell has not landed yet (R234, R263). -/
def Dom.readOps (d : Dom) (b : Ix4) (w : WideBody) (k : Dom → WideOps → Dom) : Dom :=
  let x := d.berth b
  let ds := [Desc.decode w.d, Desc.decode w.a, Desc.decode w.b]
  if ds.any (fun e => match e with
      | .reserved => true
      | _ => x.shapeBusy e) then d.havoc b
  else
    let depths := ds.map (·.stackDepth)
    let pops := (ds.filter (·.isStk)).length
    if depths.any (fun o => match o with
        | some n => decide (x.stack.length ≤ n)
        | none => false) || decide (x.stack.length < pops) then d.trapNow b 1
    else if depths.any (fun o => match o with
        | some n => decide (x.mc < (x.stack.getD n (Slot.now 0)).lands)
        | none => false) || (x.stack.take pops).any (fun c => decide (x.mc < c.lands)) then d.havoc b
    else
      let sb := d.readSlots b (depths.map (fun o => match o with
        | some n => x.stack.getD n (Slot.now 0)
        | none => Slot.now 0))
      let pv := sb.1.readSlots b (x.stack.take pops)
      let d' := pv.1
      let orgs := (ds.foldl (fun acc e =>
        if e.isStk then (acc.1 ++ [(acc.2.headD 0)], acc.2.drop 1) else (acc.1 ++ [0], acc.2)) (([] : List Cell), pv.2)).1
      let mk (j : Nat) := mkOperand d'.q x (ds.getD j .none) (sb.2.getD j 0).toNat (orgs.getD j 0).toNat
      match mk 0, mk 1, mk 2 with
      | some od, some oa, some ob => k d' ⟨od, oa, ob, x.stack.drop pops⟩
      | _, _, _ => d'.havoc b

/-- The index lists of INDEXED operands as the Counter gives them: errors counted, and whether an uncorrectable one was met (R349). -/
def Dom.eccIndexes (d : Dom) (o : WideOps) : Dom × Bool :=
  (([o.a, o.b].filterMap id).flatMap (·.indexAt)).foldl (fun x a => let r := x.1.eccRead .counter a 4; (r.1, x.2 || r.2)) (d, false)

/-! ## The checks of R287 -/

/-- What a check finds: a trap code or an impound cause with the address. -/
inductive WideFault where
  | trap (code : Nat)
  | impound (cause addr : Nat) (write : Bool)
deriving DecidableEq, Repr

/-- One operand as the checks see it. -/
structure Checked where
  op : Operand
  write : Bool
  distance : Bool
  grp : Group
  e3 : Nat
deriving DecidableEq, Repr

def boxLo (c : Checked) : Nat := (c.op.box c.grp 0 c.e3).1.toNat

def boxLen (c : Checked) : Nat := ((c.op.box c.grp 0 c.e3).2 - (c.op.box c.grp 0 c.e3).1).toNat

/-- Whether the operand has no box: its addresses are checked row by row as it is read (R282), or a ring of no bytes fails the sixth check
(R264). -/
def Checked.byRow (c : Checked) : Bool :=
  decide (c.op.mode = .indexed) || (decide (c.op.mode = .ring) && decide (c.op.sh.rlen = 0))

/-- Bins of the Granary that the box touches; of a BIN operand, the bins of the selected mills. -/
def Checked.bins (c : Checked) : List Nat :=
  match c.op.space with
  | .bin => (List.range c.grp.n).map (· + c.grp.base)
  | _ => if boxLo c < 0x8000000 then
      (List.range (binOf (boxLo c + boxLen c - 1) + 1 - binOf (boxLo c))).map (· + binOf (boxLo c))
    else []

def Checked.window (c : Checked) (q : Polder) : Option WideFault :=
  if c.byRow || decide (c.op.space = .bin) then none
  else if (c.op.box c.grp 0 c.e3).1 < 0 then some (.impound 1 0 c.write)
  else if (q.populated (boxLo c) (boxLen c) c.write).isNone then some (.impound 1 (boxLo c) c.write)
  else none

def Checked.space (c : Checked) (q : Polder) : Option WideFault :=
  if c.byRow || decide (c.op.space = .bin) then none
  else
    let r := q.region (boxLo c)
    match c.op.space with
    | .ctr => if r = some .counter && !c.distance then none else some (.trap 8)
    | .com => if r = some .granary && c.bins.all q.isCommons then none else some (.trap 8)
    | _ => if c.distance && decide (r ≠ some .granary) then some (.trap 8) else none

def Checked.binmask (c : Checked) (q : Polder) (b : Ix4) : Option WideFault :=
  if c.byRow then none
  else match c.bins.find? (fun i => if q.isCommons i then c.write else !(q.berths.get b).owns i) with
    | some i => some (.impound 3 (max (i * 0x200000) (if c.op.space = .bin then 0 else boxLo c)) c.write)
    | none => none

/-- The box of a BIN operand in the bin of the mill at position `i`: all of the bin where the offsets wrap. -/
def Checked.binRange (c : Checked) (i : Nat) : Nat × Nat :=
  let x := c.op.box c.grp i 1
  let lo := (x.1 % 0x200000).toNat
  let len := (x.2 - x.1).toNat
  if lo + len ≤ 0x200000 then ((c.grp.base + i) * 0x200000 + lo, len) else ((c.grp.base + i) * 0x200000, 0x200000)

/-- Ranges of addresses for the fence check. -/
def Checked.ranges (c : Checked) : List (Nat × Nat) :=
  match c.op.space with
  | .bin => (List.range c.grp.n).map c.binRange
  | _ => [(boxLo c, boxLen c)]

def Checked.fence (c : Checked) (q : Polder) (b : Ix4) : Option WideFault :=
  if c.byRow then none
  else match c.ranges.find? (fun r => q.fenced b.toNat r.1 r.2 c.write || q.reserved true r.1 r.2 c.write) with
    | some r => some (.impound 4 r.1 c.write)
    | none => none

/-- The first failing check, in the order of R287; `shape` says whether the sixth passes, `none` for a pass. -/
def Polder.wideCheck (q : Polder) (b : Ix4) (cs : List Checked) (shape : Option Nat) : Option WideFault :=
  match cs.findSome? (·.window q) with
  | some f => some f
  | none =>
    match cs.findSome? (·.space q) with
    | some f => some f
    | none =>
      match cs.findSome? (·.binmask q b) with
      | some f => some f
      | none =>
        match cs.findSome? (·.fence q b) with
        | some f => some f
        | none => shape.map .trap

def Dom.wideFault (d : Dom) (b : Ix4) : WideFault → Dom
  | .trap c => d.trapNow b c
  | .impound c a w => d.berthViolation b 0 c a w 0

/-! ## Element lists -/

/-- An address as a number; one below 0 lies in no region. -/
def place (a : Int) : Nat := if a < 0 then 2 ^ 64 else a.toNat

/-- Addresses of the elements in index order (j0 fastest), over all four extents, in space with mill position 0. -/
def Operand.elements (o : Operand) (g : Group) : List Nat :=
  (List.range o.sh.e3).flatMap (fun j3 => (List.range o.sh.e2).flatMap (fun j2 => (List.range o.sh.e1).flatMap (fun j1 =>
    (List.range o.sh.e0).map (fun j0 => place (o.addr g 0 j0 j1 j2 j3)))))

/-- Addresses of the stream of the mill at position q (R262). -/
def Operand.stream (o : Operand) (g : Group) (q : Nat) : List (List Nat) :=
  (List.range o.sh.e2).flatMap (fun j2 => (List.range o.sh.e1).map (fun j1 =>
    (List.range o.sh.e0).map (fun j0 => place (o.addr g q j0 j1 j2 q))))

/-- Vectors of the operand's stream per mill; none where E0 is no whole number of vectors (R265). -/
def Operand.vectors (o : Operand) : Option Nat :=
  let row := o.sh.e0 * o.size
  if row % o.elem.vecBytes = 0 then some (row / o.elem.vecBytes * o.sh.e1 * o.sh.e2) else none

/-- The escape and its body (R222, R224): PCRANGE or WIDEALIGN, or `k`, an access of the berth (R69). -/
def Dom.wide (d : Dom) (b : Ix4) (k : Dom → Dom) : Dom :=
  let x := d.berth b
  if x.codeLen ≤ x.pc then d.trapNow b 3
  else if x.pc % 8 ≠ 7 then d.trapNow b 7
  else if x.codeLen < x.pc + 33 then d.trapNow b 3
  else d.precede (.berth b) 0 k

/-- The body issued: operand stack left, PC behind the body, 1 mc (R225, R277). -/
def Dom.wideDone (d : Dom) (b : Ix4) (rest : List Slot) : Dom :=
  ((d.onBerth b (fun x => { x with stack := rest, pc := (x.pc + 33) % 2 ^ 17 })).issued b 1 false).event 5 1 (some b)

/-- The state after a wide instruction of berth `b`; unchanged where the berth issues none now (log entry 4). -/
def State.wide (s : State) (p b : Ix4) (k : Dom → Dom) : State :=
  if (s.pol p).issues b then s.act p k else s

end Sys2Proof.Machine
end

