-- ==== Sys2Proof/Machine/Mills.lean ====
section
/-!
DEFINITION. Machine/Mills.lean: the distance-based classes MM, MMO, LDW, LDWT, POST and RED (09_wide_instructions.md R264 to R287,
10_mills.md R288 to R316): operand rules, streams, bookings and landings, array arithmetic and the post-unit. An instruction's values are
worked out at issue, each from what its read's cycle finds, and its rows land in their cycles out of the berth's flights; a breach of R276
makes them free. Log entry 32.
-/
namespace Sys2Proof.Machine

/-! ## Arithmetic of the array (R289 to R296) -/

/-- k-values of one lane per row: two in the 8-bit formats (R288). -/
def Elem.twice (x : Elem) : Bool := decide (x.size = 1)

/-- The accumulator of a pairing, none where the formats do not pair (R293). -/
def accOf (w a : Elem) : Option Elem :=
  match w, a with
  | .bf16, .bf16 => some .fp32
  | .fp16, .fp16 => some .fp32
  | .e4m3, .e4m3 | .e4m3, .e5m2 | .e5m2, .e4m3 | .e5m2, .e5m2 => some .fp32
  | .int8, .int8 => some .int32
  | _, _ => none

/-- The exact product of two elements (R294). -/
def prodNum (w a : Elem) (wv av : Nat) : Num := (a.num av).mul (w.num wv)

/-- One cell's addition: the products of its row added exactly to the sum, and one rounding (R294). -/
def cellAdd (s : Num) (ps : List Num) : Num :=
  match ps with
  | [] => s
  | p :: ps' => f32num (f32of ((ps'.foldl Num.add p).add s))

/-- An int32 sum that wraps (R295). -/
def intProd (wv av : Nat) : Word := (BitVec.ofNat 8 wv).signExtend 32 * (BitVec.ofNat 8 av).signExtend 32

/-- The k-values of a row of the array: indices into the vector (R288). -/
def rowK (x : Elem) (r : Nat) : List Nat := if x.twice then [r, 32 + r] else [r]

/-- Lane `n` of a result row of MM: rows 0 to 31 in order, from +0 (R291, R294). -/
def mmLane (w a : Elem) (rows : List (List (BitVec 16))) (vec : List Nat) (n : Nat) : Word :=
  let wt (k : Nat) : Nat := ((rows.getD k []).getD n 0).toNat
  let ks (r : Nat) : List (Nat × Nat) :=
    if a.twice then [(2 * r, r), (2 * r + 1, 32 + r)] else [(r, r)]
  if a = .int8 then
    (List.range 32).foldl (fun s r => (ks r).foldl (fun s k => s + intProd (wt k.1) (vec.getD k.2 0)) s) 0
  else
    f32of ((List.range 32).foldl (fun s r =>
      cellAdd s ((ks r).map (fun k => prodNum w a (wt k.1) (vec.getD k.2 0)))) (.fin false 0 0))

/-- Lane `n` of result row `r` of MMO: the steps in stream order, the first from its products alone (R292, R294). -/
def mmoLane (a b : Elem) (as bs : List (List Nat)) (r n : Nat) : Word :=
  let pairs := as.zip bs
  if a = .int8 then
    pairs.foldl (fun s v => ((rowK a r).zip (rowK b n)).foldl (fun s k =>
      s + intProd (v.2.getD k.2 0) (v.1.getD k.1 0)) s) 0
  else
    let ps (v : List Nat × List Nat) : List Num :=
      ((rowK a r).zip (rowK b n)).map (fun k => prodNum b a (v.2.getD k.2 0) (v.1.getD k.1 0))
    match pairs with
    | [] => 0
    | v :: vs =>
      let first := match ps v with
        | [] => Num.fin false 0 0
        | p :: ps' => f32num (f32of (ps'.foldl Num.add p))
      f32of (vs.foldl (fun s v => cellAdd s (ps v)) first)

/-- The rows of weights that 32 vectors load (R289, R290). -/
def planeRows (x : Elem) (turned : Bool) (vecs : List (List Nat)) : List (List (BitVec 16)) :=
  let row (k : Nat) : List Nat :=
    if turned then vecs.map (fun v => v.getD k 0)
    else if x.twice then ((vecs.getD (k / 2) []).drop (32 * (k % 2))).take 32
    else vecs.getD k []
  (List.range x.lanes).map (fun k => (row k).map (BitVec.ofNat 16))

/-! ## The post-unit (R300 to R304) -/

/-- FUNC of R300. -/
structure PostFunc where
  act : Nat
  bop : Nat
  sat : Bool
deriving DecidableEq, Repr

def PostFunc.of (f : Byte) : PostFunc := ⟨f.toNat % 8, f.toNat / 8 % 4, f.getLsbD 5⟩

/-- A value on its way through the post-unit: an int32 or an fp32. -/
inductive PostVal where
  | int (v : Word)
  | flt (v : Word)
deriving DecidableEq, Repr

/-- An element as the post-unit takes it; 8-bit integers widen (R301). -/
def PostVal.of (x : Elem) (v : Nat) : PostVal :=
  match x with
  | .int8 => .int ((BitVec.ofNat 8 v).signExtend 32)
  | .int32 => .int (word v)
  | _ => .flt (f32of (x.num v))

def PostVal.f32 : PostVal → Word
  | .int v => f32ofInt v
  | .flt v => v

/-- ACT (R303); a NaN stays a NaN (R296), and a reserved code gives a free value of anything (R316). -/
def actOf (act : Nat) (v : Word) : Word :=
  if act = 0 then v
  else if 5 < act then Config.reservedPost act v
  else if f32isNan v then f32nan
  else match act with
    | 1 => if f32lt true 0 v then v else 0
    | 2 => geluOf v
    | 3 => siluOf v
    | 4 => sigmoidOf v
    | _ => tanhOf v

/-- BOP (R300). -/
def bopOf (bop : Nat) (v b : Word) : Word :=
  match bop with
  | 0 => v
  | 1 => f32mul v b
  | 2 => f32add v b
  | n => Config.reservedPost (8 * n) v

/-- One lane: ACC, conversion to fp32, BOP, ACT, conversion to D's format (R301, R302). -/
def postLane (f : PostFunc) (dElem : Elem) (v : PostVal) (acc : Option Word) (b : Word) : Conv :=
  let v1 := match v, acc with
    | .int x, some y => .int (x + y)
    | .flt x, some y => .flt (f32add x y)
    | x, none => x
  let v2 := if f.bop ≠ 0 ∨ f.act ≠ 0 ∨ !dElem.isInt then PostVal.flt v1.f32 else v1
  match v2 with
  | .flt x => dElem.convert f.sat (f32num (actOf f.act (bopOf f.bop x b)))
  | .int x => dElem.convert f.sat (Elem.int32.num x.toNat)

/-! ## Accesses, bookings and landings (R266 to R274) -/

/-- One access of a mill's stream: `op` tells the operands of an instruction apart, `own` the mill's own bin, and `lands` is the cycle in
which a write lands. -/
structure Acc where
  op : Nat
  mill : Nat
  cyc : Nat
  addr : Nat
  len : Nat
  write : Bool
  own : Bool
  lands : Nat
  plane : PlaneUse
deriving DecidableEq, Repr

/-- Consecutive element addresses as ranges. -/
def mergeRuns (s : Nat) : List Nat → List (Nat × Nat)
  | [] => []
  | a :: as =>
    match mergeRuns s as with
    | [] => [(a, s)]
    | (a', n) :: rest => if a + s = a' then (a, n + s) :: rest else (a, s) :: (a', n) :: rest

/-- The vectors of the stream of the mill at position q, as element addresses (R262, R265). -/
def Operand.vecs (o : Operand) (g : Group) (q : Nat) : List (List Nat) :=
  (o.stream g q).flatMap (fun row => pieces o.elem.lanes (row.length + 1) row)

/-- Result row `j` of an operand: 32 elements (R304). -/
def Operand.resultRow (o : Operand) (g : Group) (q j : Nat) : List Nat :=
  (((o.stream g q).flatten).drop (32 * j)).take 32

/-- Latency of a source as it enters L, an INDEXED one with its index read (R266). -/
def Operand.srcLat (o : Operand) : Nat := o.lat + (if o.mode = .indexed then 5 else 0)

/-! ## Rows that are not read (R282) -/

/-- Whether a row of an INDEXED operand may be read. -/
def Operand.rowOk (o : Operand) (q : Polder) (b : Ix4) (addrs : List Nat) : Bool :=
  (mergeRuns o.size addrs).all (fun r =>
    decide (q.populated r.1 r.2 false = some .granary) &&
    ((List.range (binOf (r.1 + r.2 - 1) + 1 - binOf r.1)).all (fun i =>
      let bin := binOf r.1 + i
      if o.space = .com then q.isCommons bin else q.isCommons bin || (q.berths.get b).owns bin)) &&
    !(q.fenced b.toNat r.1 r.2 false || q.reserved true r.1 r.2 false))

/-- Whether some INDEXED row of an operand is not read. -/
def Operand.outOfRange (o : Operand) (q : Polder) (b : Ix4) (g : Group) : Bool :=
  decide (o.mode = .indexed) && (List.range g.n).any (fun k => (o.stream g k).any (fun v => !o.rowOk q b v))

/-- Whether vector `j` of the mill at position `k` is read. -/
def Operand.isRead (o : Operand) (q : Polder) (b : Ix4) (g : Group) (k j : Nat) : Bool :=
  decide (o.mode ≠ .indexed) || o.rowOk q b ((o.stream g k).getD (j / o.perRow) [])

/-! ## Accesses -/

/-- Reads of a source, operand number `op`, vector j at `cyc j`; `use` is what the mills' planes have to do with them. -/
def Operand.reads (o : Operand) (q : Polder) (b : Ix4) (op : Nat) (g : Group) (cyc : Nat → Nat) (use : Nat → PlaneUse) : List Acc :=
  (List.range g.n).flatMap (fun k =>
    (((o.vecs g k).zipIdx).filter (fun v => o.isRead q b g k v.2)).flatMap (fun v => (mergeRuns o.size v.1).map (fun r =>
      ⟨op, g.base + k, cyc v.2, r.1, r.2, false, decide (o.space = .bin), cyc v.2, use (g.base + k)⟩)))

/-- No plane has to do with an access. -/
def noPlane (_ : Nat) : PlaneUse := .none

/-- Reads of the destination's rows for ACC. -/
def Operand.rowReads (o : Operand) (op : Nat) (g : Group) (rows : Nat) (cyc : Nat → Nat) : List Acc :=
  (List.range g.n).flatMap (fun k => (List.range rows).flatMap (fun j =>
    (mergeRuns o.size (o.resultRow g k j)).map (fun r =>
      ⟨op, g.base + k, cyc j, r.1, r.2, false, decide (o.space = .bin), cyc j, .none⟩)))

/-- Index reads of an INDEXED source (R266): Counter address and cycle of each vector. -/
def Operand.indexReads (o : Operand) (cyc : Nat → Nat) : List (Nat × Nat) := (o.indexAt.zipIdx).map (fun x => (x.1, cyc x.2 - 5))

/-- Writes of result rows, row j issued at `cyc j`, by the mills at positions below `n`. -/
def Operand.writes (o : Operand) (op : Nat) (g : Group) (n rows : Nat) (cyc : Nat → Nat) : List Acc :=
  (List.range n).flatMap (fun k => (List.range rows).flatMap (fun j =>
    (mergeRuns o.size (o.resultRow g k j)).map (fun r =>
      ⟨op, g.base + k, cyc j, r.1, r.2, true, decide (o.space = .bin), cyc j + o.lat, .none⟩)))

/-! ## Bookings (R268, R269) -/

/-- Keys of the resources of R268: kind and number. -/
def bookKey (kind i : Nat) : Nat := 64 * kind + i

/-- The kind of port an access takes: local read pair 3, local write port 4, crossbar read 5 and write 6. -/
def Acc.kind (a : Acc) : Nat := if a.own then (if a.write then 4 else 3) else (if a.write then 6 else 5)

def Acc.key (a : Acc) : Nat := bookKey a.kind a.mill

/-- Bytes that a port moves in one cycle (R268). -/
def portWidth (kind : Nat) : Nat := if kind = 3 ∨ kind = 4 then 128 else 64

/-- Bytes by key, cycle and operand, as one number each. -/
def portEntry (key cyc op : Nat) : Nat := (key * 2 ^ 64 + cyc) * 4 + op

/-- `n` more at `k`, in order of the keys. -/
def addAt : Store Nat → Nat → Nat → Store Nat
  | [], k, n => [(k, n)]
  | e :: m, k, n => if k < e.1 then (k, n) :: e :: m else if k = e.1 then (k, e.2 + n) :: m else e :: addAt m k n

/-- What each port moves in each cycle for each operand, in order (R268): key, cycle, bytes. The rows and parts of one vector that an operand
has there are one access. -/
def portLoad (accs : List Acc) : List (Nat × Nat × Nat) :=
  (accs.foldr (fun a m => addAt m (portEntry a.key a.cyc a.op) a.len) []).map
    (fun e => (e.1 / 4 / 2 ^ 64, e.1 / 4 % 2 ^ 64, e.2))

/-- The cycles an access holds its port: a port as wide as half of it holds it for two. -/
def portSpan (e : Nat × Nat × Nat) : Nat := ceilDiv e.2.2 (portWidth (e.1 / 64))

/-- Whether a port has more to move than it can (R268): a read pair three reads or one too wide, another port two accesses at a time. -/
def overloaded : List (Nat × Nat × Nat) → Bool
  | [] => false
  | [x] => decide (x.1 / 64 = 3) && decide (128 < x.2.2)
  | x :: y :: rest =>
    (if x.1 / 64 = 3 then
        decide (128 < x.2.2) || (match rest with
          | z :: _ => decide (z.1 = x.1) && decide (z.2.1 = x.2.1)
          | [] => false)
      else decide (x.1 = y.1) && decide (y.2.1 < x.2.1 + portSpan x)) || overloaded (y :: rest)

/-- What a distance-based instruction does, before its values: accesses, index reads, and other bookings as key and cycle. -/
structure Plan where
  accs : List Acc
  idx : List (Nat × Nat)
  books : List (Nat × Nat)
deriving DecidableEq, Repr

/-- Every cycle that the instruction books, by key: the first and the last of an access that holds its port longer. -/
def Plan.bookings (p : Plan) : List (Nat × Nat) :=
  p.books ++ (portLoad p.accs).flatMap (fun e => [(e.1, e.2.1), (e.1, e.2.1 + portSpan e - 1)]) ++
    p.idx.map (fun i => (bookKey 8 0, i.2))

/-- Whether a booking falls at or before an earlier instruction's last one (R269). -/
def Plan.lateBooking (p : Plan) (x : Berth) : Bool :=
  p.bookings.any (fun k => match Store.find x.booked k.1 with
    | some t => decide (k.2 ≤ t)
    | none => false)

/-- The key of a mill's last crossbar access to a bin. -/
def crossKey (mill bin : Nat) : Nat := 128 + 64 * mill + bin

/-- Crossbar accesses by mill, bin, cycle and operand, in order: key of mill and bin, cycle. -/
def crossings (accs : List Acc) : List (Nat × Nat) :=
  ((accs.filter (fun a => !a.own)).foldr (fun a m => addAt m (portEntry (crossKey a.mill (binOf a.addr)) a.cyc a.op) 0) []).map
    (fun e => (e.1 / 4 / 2 ^ 64, e.1 / 4 % 2 ^ 64))

/-- Whether two accesses of a mill to one bin fall in 65 consecutive cycles. -/
def crowded : List (Nat × Nat) → Bool
  | x :: y :: rest => (decide (x.1 = y.1) && decide (y.2 < x.2 + 65)) || crowded (y :: rest)
  | _ => false

/-- Whether the crossbar rule of R268 is broken, by the instruction's own accesses or after those of earlier ones. -/
def Plan.crossing (p : Plan) (x : Berth) : Bool :=
  let cs := crossings p.accs
  crowded cs || cs.any (fun a => match Store.find x.lastUse a.1 with
    | some t => decide (a.2 < t + 65)
    | none => false)

/-- The accesses by the cycle in which they land: first byte and length of each. -/
def byLanding : Store (List (Nat × Nat)) → Acc → Store (List (Nat × Nat))
  | [], a => [(a.lands, [(a.addr, a.len)])]
  | e :: m, a =>
    if a.lands < e.1 then (a.lands, [(a.addr, a.len)]) :: e :: m
    else if a.lands = e.1 then (e.1, (a.addr, a.len) :: e.2) :: m
    else e :: byLanding m a

/-- Whether two of the ranges share a byte. -/
def rangesMeet : List (Nat × Nat) → Bool
  | [] => false
  | r :: rs => rs.any (fun x => decide (r.1 < x.1 + x.2) && decide (x.1 < r.1 + r.2)) || rangesMeet rs

/-- Whether two writes of the instruction land on one byte in one cycle (R272). -/
def Plan.selfClash (p : Plan) : Bool :=
  ((p.accs.filter (·.write)).foldr (fun a m => byLanding m a) []).any (fun e => rangesMeet e.2)

/-- Earlier instructions whose accesses in flight the rows meet against R272. -/
def Plan.clashes (p : Plan) (x : Berth) : List Nat :=
  (p.accs.filter (·.write)).flatMap (fun a => x.clashes a.addr a.len a.lands)

/-- Whether the instruction breaks a booking or a capacity (R268, R269, R276, R316). -/
def Plan.breaks (p : Plan) (x : Berth) : Bool :=
  p.lateBooking x || p.crossing x || p.selfClash || overloaded (portLoad p.accs)

def maxPut (m : Store Nat) (k v : Nat) : Store Nat := Store.insert m k (max v (Store.getD m k 0))

/-- What the instruction reads, as flights. -/
def Plan.readFlights (p : Plan) (c : Nat) : List Flight :=
  (p.accs.filter (fun a => !a.write)).map (fun a => ⟨a.addr, a.len, false, false, a.cyc, [], c, a.plane⟩) ++
    p.idx.map (fun i => ⟨i.1, 4, false, false, i.2, [], c, .none⟩)

/-- The berth with the bookings of the instruction, its reads and its rows in flight. -/
def Plan.book (p : Plan) (rows : List Flight) (x : Berth) : Berth :=
  let fs := rows ++ p.readFlights x.mc
  { x with
    booked := p.bookings.foldl (fun m k => maxPut m k.1 k.2) x.booked
    lastUse := (crossings p.accs).foldl (fun m a => maxPut m a.1 a.2) x.lastUse
    flights := fs ++ x.flights
    lastLand := (fs.map (·.at_)).foldl max x.lastLand }

/-! ## Values -/

/-- An element as a read in cycle `c` sees it; `fs` are the writes in flight. -/
def seenElem (m : Mem) (fs : List Flight) (c a s : Nat) : Nat := leNat ((List.range s).map (fun i => seenByte m fs c (a + i)))

/-- The operand with each vector's index as its read's cycle finds it; vector j is read at `cyc j` (R266). -/
def Operand.indexed (o : Operand) (q : Polder) (x : Berth) (cyc : Nat → Nat) : Operand :=
  { o with index := (o.indexReads cyc).map (fun i => seenElem q.mem x.flights i.2 i.1 4) }

/-- Vector `j` of a source at the mill at position `k`; zero where R282 leaves its row unread. -/
def Operand.value (o : Operand) (q : Polder) (b : Ix4) (g : Group) (k : Nat) (fs : List Flight) (c j : Nat) : List Nat :=
  let v := (o.vecs g k).getD j []
  if o.isRead q b g k j then v.map (fun a => seenElem q.mem fs c a o.size) else v.map (fun _ => 0)

/-- Results as the writes of the row they make, which land in cycle `lands`; `c` is the issue cycle. -/
def Operand.deposit (o : Operand) (g : Group) (k j lands c : Nat) (vs : List Conv) : List Flight :=
  let bytes := vs.flatMap (fun v => natLe o.size v.val)
  ((mergeRuns o.size (o.resultRow g k j)).foldl (fun (acc : List Flight × List Byte) r =>
    (⟨r.1, r.2, true, false, lands, acc.2.take r.2, c, .none⟩ :: acc.1, acc.2.drop r.2)) ([], bytes)).1

/-- Flags and counters of a set of lanes (R302, R315, R317). -/
def Dom.laneFlags (d : Dom) (cs : List Conv) : Dom :=
  let cl := cs.countP (·.clamp)
  let nn := cs.countP (·.isNan)
  ((d.stick Off.millSticky (bit (decide (nn ≠ 0)) + 2 * bit (cs.any (·.ovf)) + 4 * bit (decide (cl ≠ 0)))).bump
    Off.satCount cl).bump Off.nanCount nn

/-- Rows run in order, each with the writes of those before it in flight, and `fs` of earlier instructions: what they write, and their lanes'
conversions. -/
def runRows (fs : List Flight) (n : Nat) (row : Nat → List Flight → List Flight × List Conv) : List Flight × List Conv :=
  (List.range n).foldl (fun acc j =>
    let r := row j (acc.1 ++ fs)
    (r.1 ++ acc.1, acc.2 ++ r.2)) ([], [])

/-- ECC outcomes of the accesses; whether an uncorrectable error was met (R349). -/
def Dom.eccAll (d : Dom) (p : Plan) : Dom × Bool :=
  let x := p.accs.foldl (fun x a =>
    let r := if a.write then x.1.eccMerge .granary a.addr a.len else x.1.eccRead .granary a.addr a.len
    (r.1, x.2 || r.2)) (d, false)
  p.idx.foldl (fun x i => let r := x.1.eccRead .counter i.1 4; (r.1, x.2 || r.2)) x

/-- The rows of an instruction whose values cannot be relied on. -/
def Plan.freeRows (p : Plan) (q : Polder) (c : Nat) : List Flight × Polder :=
  let ws := p.accs.filter (·.write)
  ((ws.zipIdx).map (fun a => ⟨a.1.addr, a.1.len, true, false, a.1.lands,
      (List.range a.1.len).map (fun i => Config.freeByte (4 * (q.fresh + a.2) + q.fuses.index.toNat) (a.1.addr + i)), c, .none⟩),
    { q with fresh := q.fresh + ws.length })

/-- The instruction issued: R276 or the values, with bookings and flights; an uncorrectable error ends the waybill. `wr` gives the rows and
their lanes' conversions, `after` what else the values change. A breach takes in whatever the berth has in flight in the mills. -/
def Dom.distance (d : Dom) (b : Ix4) (p : Plan) (bad : Bool) (rest : List Slot) (wr : Polder → Berth → List Flight × List Conv)
    (after : Dom → Dom) : Dom :=
  let x := d.berth b
  let e := d.eccAll p
  let broken := bad || p.breaks x
  let ids := p.clashes x ++ (if broken then (x.flights.filter (fun f => !f.short)).map (·.id) else [])
  let d1 : Dom × List Flight :=
    if broken || !ids.isEmpty then
      let d' := (e.1.breach b ids).on (·.freeFlags)
      let r := p.freeRows d'.q x.mc
      ({ d' with q := r.2 }, r.1)
    else
      let r := wr e.1.q x
      ((after e.1).laneFlags r.2, r.1)
  let d2 := d1.1.onBerth b (p.book d1.2)
  if e.2 then d2.memue b else d2.wideDone b rest

/-! ## Operand rules (R264, R265) -/

def Operand.modeIn (o : Operand) (ms : List OpMode) : Bool := ms.contains o.mode

def Operand.spaceIn (o : Operand) (ss : List Space) : Bool := ss.contains o.space

def sourceModes : List OpMode := [.direct, .stackbase, .shape, .indexed, .ring]

def destModes : List OpMode := [.direct, .stackbase, .shape, .ring]

/-- RLEN = 0 in RING mode (R264). -/
def Operand.ringOk (o : Operand) : Bool := decide (o.mode ≠ .ring) || decide (o.sh.rlen ≠ 0)

/-- A source of a distance-based class: 1 to 2^20 whole vectors in a permitted space and mode. -/
def Operand.sourceOk (o : Operand) (ss : List Space) : Bool :=
  o.modeIn sourceModes && o.spaceIn ss && o.ringOk &&
    (match o.vectors with
      | some n => decide (1 ≤ n) && decide (n ≤ 2 ^ 20)
      | none => false)

/-- A destination that holds `rows` result rows (R265, R304). -/
def Operand.destOk (o : Operand) (rows : Nat) : Bool :=
  o.modeIn destModes && o.spaceIn [.bin, .gran, .stk] && o.ringOk &&
    (match o.vectors with
      | some n => decide (1 ≤ n) && decide (n ≤ 2 ^ 20) && decide (n * o.elem.lanes = 32 * rows)
      | none => false)

def Operand.count (o : Operand) : Nat := o.vectors.getD 0

def allSpaces : List Space := [.bin, .gran, .com, .stk]

/-- The group that MSEL selects (R259). -/
def Berth.millGroup (x : Berth) (msel : Byte) : Group :=
  ⟨(match x.run with
    | some r => r.base
    | none => 0) + msel.toNat % 64, 8 * 2 ^ (msel.toNat / 64)⟩

/-- Whether MSEL keeps R259. -/
def Berth.mselOk (x : Berth) (msel : Byte) : Bool :=
  let n := 8 * 2 ^ (msel.toNat / 64)
  decide (msel.toNat % 64 % n = 0) && (match x.run with
    | some r => decide (msel.toNat % 64 + n ≤ r.mills)
    | none => false)

/-- Operands as the checks of R287 see them. -/
def checkedOf (o : Option Operand) (write distance : Bool) (g : Group) (e3 : Option Nat) : List Checked :=
  match o with
  | some x => [⟨x, write, distance, g, e3.getD x.sh.e3⟩]
  | none => []

/-- PACE, ACC and PLANE (R257). -/
def wPace (w : WideBody) : Nat := w.flags.toNat / 16 + 1

def wAcc (w : WideBody) : Bool := w.flags.getLsbD 0

def wPlane (w : WideBody) : Nat := bit (w.flags.getLsbD 1)

/-- WIDX_RANGE (R282). -/
def Dom.widx (d : Dom) (b : Ix4) (bad : Bool) : Dom := if bad then d.stick (Off.berth b.toNat + 0x18) 8 else d

end Sys2Proof.Machine
end

