-- ==== Sys2Proof/Machine/MillOps.lean ====
section
/-!
DEFINITION. Machine/MillOps.lean: the classes MM, MMO, LDW, LDWT, POST and RED as instructions of a berth (R258, R264, R270 to R276,
R289 to R305).
-/
namespace Sys2Proof.Machine

/-- Entry cycle of vector j (R266): issue cycle, latency, pace. -/
def entry (c l p j : Nat) : Nat := c + 1 + l + p * j

/-- A resource of every mill of a group booked from cycle `lo` to cycle `hi`. -/
def bookMills (kind : Nat) (g : Group) (lo hi : Nat) : List (Nat × Nat) :=
  (List.range g.n).flatMap (fun q => [(bookKey kind (g.base + q), lo), (bookKey kind (g.base + q), hi)])

/-- The D value of each lane of a row as ACC reads it. -/
def Operand.accRow (o : Operand) (m : Mem) (fs : List Flight) (g : Group) (k j c : Nat) : List Word :=
  (o.resultRow g k j).map (fun a => word (seenElem m fs c a o.size))

/-- The number of a plane. -/
def planeKey (mill plane : Nat) : Nat := 2 * mill + plane

def Plane.zero : Plane := ⟨.bf16, []⟩

def Polder.plane (q : Polder) (mill plane : Nat) : Plane := Store.getD q.planes (planeKey mill plane) Plane.zero

/-- Vectors counted at activation edges (R317, R549). -/
def Dom.vecs (d : Dom) (n : Nat) : Dom := (d.bump Off.vecCount n).event 6 n none

/-- The lanes of a row through the post-unit. -/
def postRow (f : PostFunc) (e : Elem) (acc : Bool) (vals : List PostVal) (accs bs : List Word) : List Conv :=
  (vals.zipIdx).map (fun v => postLane f e v.1 (if acc then some (accs.getD v.2 0) else none) (bs.getD (v.2 % 32) 0))

/-- An accumulator lane as the post-unit takes it. -/
def accVal (e : Elem) (v : Word) : PostVal := if e = .int32 then .int v else .flt v

/-! ## MM (R291, R293, R294, R297) -/

/-- The accumulator of an MM on the group's planes, none where a pairing is not in R293. -/
def Polder.mmAcc (q : Polder) (g : Group) (plane : Nat) (a : Elem) : Option Elem :=
  if (List.range g.n).all (fun k => (accOf (q.plane (g.base + k) plane).elem a).isSome) then
    accOf (q.plane g.base plane).elem a
  else none

def Polder.mmShapeOk (q : Polder) (b : Ix4) (w : WideBody) (o : WideOps) : Bool :=
  let x := q.berths.get b
  let g := x.millGroup w.msel
  match o.d, o.a, o.b with
  | some dd, some a, none =>
    x.mselOk w.msel && a.sourceOk allSpaces && dd.destOk a.count && decide ((PostFunc.of w.func).bop = 0) &&
      (match q.mmAcc g (wPlane w) a.elem with
        | some e => !(wAcc w) || decide (dd.elem = e)
        | none => false)
  | _, _, _ => false

def mmPlan (q : Polder) (b : Ix4) (w : WideBody) (g : Group) (dd a : Operand) : Plan :=
  let n := a.count
  let e := entry (q.berths.get b).mc a.srcLat (wPace w)
  { accs := a.reads q b 1 g (fun j => e j - a.lat) (fun k => .takes (planeKey k (wPlane w))) ++
      (if (wAcc w) then dd.rowReads 3 g n (fun j => e j + 66 - dd.lat) else []) ++ dd.writes 0 g g.n n (fun j => e j + 72)
    idx := a.indexReads (fun j => e j - a.lat)
    books := bookMills 0 g (e 0) (e (n - 1)) ++ bookMills 2 g (e 0 + 66) (e (n - 1) + 66) }

/-- The rows of an MM and their lanes' conversions. -/
def mmValues (b : Ix4) (w : WideBody) (g : Group) (dd a : Operand) (acc : Elem) (q : Polder) (x : Berth) :
    List Flight × List Conv :=
  let e := entry x.mc a.srcLat (wPace w)
  runRows x.flights a.count (fun j fs =>
    (List.range g.n).foldl (fun r k =>
      let pl := q.plane (g.base + k) (wPlane w)
      let vec := a.value q b g k fs (e j - a.lat) j
      let sums := (List.range 32).map (fun n => accVal acc (mmLane pl.elem a.elem pl.rows vec n))
      let old := if (wAcc w) then dd.accRow q.mem fs g k j (e j + 66 - dd.lat) else []
      let cs := postRow (PostFunc.of w.func) dd.elem (wAcc w) sums old []
      (dd.deposit g k j (e j + 72 + dd.lat) x.mc cs ++ r.1, r.2 ++ cs)) ([], []))

def Dom.mmRun (d : Dom) (b : Ix4) (w : WideBody) (g : Group) (dd a0 : Operand) (rest : List Slot) : Dom :=
  let x := d.berth b
  let e := entry x.mc a0.srcLat (wPace w)
  let a := a0.indexed d.q x (fun j => e j - a0.lat)
  let unready := (List.range g.n).any (fun k => decide (e 0 < Store.getD x.ready (planeKey (g.base + k) (wPlane w)) 0))
  let d1 := (d.widx b (a.outOfRange d.q b g)).distance b (mmPlan d.q b w g dd a) unready rest
    (mmValues b w g dd a ((d.q.mmAcc g (wPlane w) a.elem).getD .fp32)) id
  (d1.vecs (a.count * g.n)).onBerth b (fun y => if y.run = x.run ∧ x.run.isSome then
    { y with lastUse := (List.range g.n).foldl (fun m k => maxPut m (planeKey (g.base + k) (wPlane w)) (e (a.count - 1))) y.lastUse }
    else y)

def Dom.mmOp (d : Dom) (b : Ix4) (w : WideBody) : Dom :=
  d.wide b (fun d => d.readOps b w (fun d o =>
    let g := (d.berth b).millGroup w.msel
    let cs := checkedOf o.d true true g (some g.n) ++ checkedOf o.a false true g (some g.n) ++ checkedOf o.b false true g (some g.n)
    match d.q.wideCheck b cs (if d.q.mmShapeOk b w o then none else some 9), o.d, o.a with
    | some f, _, _ => d.wideFault b f
    | none, some dd, some a => d.mmRun b w g dd a o.rest
    | none, _, _ => d.trapNow b 9))

/-! ## MMO (R292, R298) -/

def Polder.mmoShapeOk (q : Polder) (b : Ix4) (w : WideBody) (o : WideOps) : Bool :=
  let x := q.berths.get b
  match o.d, o.a, o.b with
  | some dd, some a, some bb =>
    x.mselOk w.msel && a.sourceOk allSpaces && bb.sourceOk allSpaces && decide (a.count = bb.count) && dd.destOk 32 &&
      decide ((PostFunc.of w.func).bop = 0) &&
      (match accOf a.elem bb.elem with
        | some e => !(wAcc w) || decide (dd.elem = e)
        | none => false)
  | _, _, _ => false

def mmoPlan (q : Polder) (b : Ix4) (w : WideBody) (g : Group) (dd a bb : Operand) : Plan :=
  let n := a.count
  let e := entry (q.berths.get b).mc (max a.srcLat bb.srcLat) (wPace w)
  let f (r : Nat) := e (n - 1) + 67 + r
  { accs := a.reads q b 1 g (fun j => e j - a.lat) noPlane ++ bb.reads q b 2 g (fun j => e j - bb.lat) noPlane ++
      (if (wAcc w) then dd.rowReads 3 g 32 (fun r => f r - 6) else []) ++ dd.writes 0 g g.n 32 (fun r => f r + 6)
    idx := a.indexReads (fun j => e j - a.lat) ++ bb.indexReads (fun j => e j - bb.lat)
    books := bookMills 0 g (e 0) (e (n - 1)) ++ bookMills 2 g (f 0) (f 31) }

def mmoValues (b : Ix4) (w : WideBody) (g : Group) (dd a bb : Operand) (acc : Elem) (q : Polder) (x : Berth) :
    List Flight × List Conv :=
  let e := entry x.mc (max a.srcLat bb.srcLat) (wPace w)
  let f (r : Nat) := e (a.count - 1) + 67 + r
  runRows x.flights 32 (fun r fs =>
    (List.range g.n).foldl (fun out k =>
      let as := (List.range a.count).map (fun j => a.value q b g k x.flights (e j - a.lat) j)
      let bs := (List.range bb.count).map (fun j => bb.value q b g k x.flights (e j - bb.lat) j)
      let sums := (List.range 32).map (fun n => accVal acc (mmoLane a.elem bb.elem as bs r n))
      let old := if (wAcc w) then dd.accRow q.mem fs g k r (f r - 6) else []
      let cs := postRow (PostFunc.of w.func) dd.elem (wAcc w) sums old []
      (dd.deposit g k r (f r + 6 + dd.lat) x.mc cs ++ out.1, out.2 ++ cs)) ([], []))

def Dom.mmoRun (d : Dom) (b : Ix4) (w : WideBody) (g : Group) (dd a0 bb0 : Operand) (rest : List Slot) : Dom :=
  let x := d.berth b
  let e := entry x.mc (max a0.srcLat bb0.srcLat) (wPace w)
  let a := a0.indexed d.q x (fun j => e j - a0.lat)
  let bb := bb0.indexed d.q x (fun j => e j - bb0.lat)
  ((d.widx b (a.outOfRange d.q b g || bb.outOfRange d.q b g)).distance b (mmoPlan d.q b w g dd a bb) false rest
    (mmoValues b w g dd a bb ((accOf a.elem bb.elem).getD .fp32)) id).vecs (a.count * g.n)

def Dom.mmoOp (d : Dom) (b : Ix4) (w : WideBody) : Dom :=
  d.wide b (fun d => d.readOps b w (fun d o =>
    let g := (d.berth b).millGroup w.msel
    let cs := checkedOf o.d true true g (some g.n) ++ checkedOf o.a false true g (some g.n) ++ checkedOf o.b false true g (some g.n)
    match d.q.wideCheck b cs (if d.q.mmoShapeOk b w o then none else some 9), o.d, o.a, o.b with
    | some f, _, _, _ => d.wideFault b f
    | none, some dd, some a, some bb => d.mmoRun b w g dd a bb o.rest
    | none, _, _, _ => d.trapNow b 9))

/-! ## LDW and LDWT (R289, R290, R299) -/

def Polder.ldwShapeOk (q : Polder) (b : Ix4) (w : WideBody) (o : WideOps) : Bool :=
  let x := q.berths.get b
  match o.d, o.a, o.b with
  | none, some a, none => x.mselOk w.msel && a.sourceOk allSpaces && decide (a.count = 32)
  | _, _, _ => false

/-- Cycle of the load path of weight vector j (R270). -/
def loadCyc (x : Berth) (w : WideBody) (a : Operand) (turned : Bool) (j : Nat) : Nat :=
  entry x.mc a.srcLat (wPace w) j + (if turned then 2 else 0)

def ldwPlan (q : Polder) (b : Ix4) (w : WideBody) (g : Group) (a : Operand) (turned : Bool) : Plan :=
  let x := q.berths.get b
  let e := entry x.mc a.srcLat (wPace w)
  { accs := a.reads q b 1 g (fun j => e j - a.lat) (fun k => .feeds (planeKey k (wPlane w)))
    idx := a.indexReads (fun j => e j - a.lat)
    books := bookMills 1 g (loadCyc x w a turned 0) (loadCyc x w a turned 31) }

/-- The planes loaded. -/
def Polder.loadPlanes (q : Polder) (b : Ix4) (w : WideBody) (g : Group) (a : Operand) (x : Berth) (turned : Bool) : Polder :=
  let e := entry x.mc a.srcLat (wPace w)
  { q with planes := (List.range g.n).foldl (fun m k =>
      let vecs := (List.range a.count).map (fun j => a.value q b g k x.flights (e j - a.lat) j)
      Store.put m (planeKey (g.base + k) (wPlane w)) ⟨a.elem, planeRows a.elem turned vecs⟩ Plane.zero) q.planes }

def Dom.ldwRun (d : Dom) (b : Ix4) (w : WideBody) (g : Group) (a0 : Operand) (turned : Bool) (rest : List Slot) : Dom :=
  let x := d.berth b
  let e := entry x.mc a0.srcLat (wPace w)
  let a := a0.indexed d.q x (fun j => e j - a0.lat)
  let early := (List.range g.n).any (fun k =>
    match Store.find x.lastUse (planeKey (g.base + k) (wPlane w)) with
    | some t => decide (loadCyc x w a turned 0 < t + 66)
    | none => false)
  let ready := loadCyc x w a turned 31 + 34
  let d1 := (d.widx b (a.outOfRange d.q b g)).distance b (ldwPlan d.q b w g a turned) early rest (fun _ _ => ([], []))
    (fun d => d.on (fun q => q.loadPlanes b w g a x turned))
  (d1.bump Off.planeLoadCount g.n).onBerth b (fun y => if y.run = x.run ∧ x.run.isSome then
    { y with
      ready := (List.range g.n).foldl (fun m k => maxPut m (planeKey (g.base + k) (wPlane w)) ready) y.ready
      lastLand := max y.lastLand ready }
    else y)

def Dom.ldwOp (d : Dom) (b : Ix4) (w : WideBody) (turned : Bool) : Dom :=
  d.wide b (fun d =>
    if w.func ≠ 0 then d.havoc b
    else d.readOps b w (fun d o =>
      let g := (d.berth b).millGroup w.msel
      let cs := checkedOf o.d true true g (some g.n) ++ checkedOf o.a false true g (some g.n) ++ checkedOf o.b false true g (some g.n)
      match d.q.wideCheck b cs (if d.q.ldwShapeOk b w o then none else some 9), o.a with
      | some f, _ => d.wideFault b f
      | none, some a => d.ldwRun b w g a turned o.rest
      | none, none => d.trapNow b 9))

/-! ## POST (R300 to R304) -/

/-- Result rows per vector of A: one of 32 lanes, two in the 8-bit formats. -/
def Operand.rowsPer (o : Operand) : Nat := o.elem.lanes / 32

def Polder.postShapeOk (q : Polder) (b : Ix4) (w : WideBody) (o : WideOps) : Bool :=
  let x := q.berths.get b
  let f := PostFunc.of w.func
  match o.d, o.a with
  | some dd, some a =>
    x.mselOk w.msel && a.sourceOk allSpaces && dd.destOk (a.count * a.rowsPer) &&
      (match o.b with
        | none => decide (f.bop = 0)
        | some bb => bb.sourceOk allSpaces && decide (bb.count = 1) && (decide (f.bop = 0) || decide (bb.elem = .fp32)))
  | _, _ => false

/-- Latency of a POST: the larger of its sources'. -/
def postLat (a : Operand) (bb : Option Operand) : Nat :=
  match bb with
  | some y => max a.srcLat y.srcLat
  | none => a.srcLat

/-- The cycle in which a POST reads B (R270). -/
def postB (c l : Nat) (y : Operand) (_ : Nat) : Nat := c + 1 + l - y.lat

def postPlan (q : Polder) (b : Ix4) (w : WideBody) (g : Group) (dd a : Operand) (bb : Option Operand) : Plan :=
  let c := (q.berths.get b).mc
  let n := a.count
  let l := postLat a bb
  let e := entry c l (wPace w)
  { accs := a.reads q b 1 g (fun j => e j - a.lat) noPlane ++
      (match bb with
        | some y => y.reads q b 2 g (postB c l y) noPlane
        | none => []) ++ dd.writes 0 g g.n (n * a.rowsPer) (fun r => e (r / a.rowsPer) + 6)
    idx := a.indexReads (fun j => e j - a.lat) ++
      (match bb with
        | some y => y.indexReads (postB c l y)
        | none => [])
    books := bookMills 2 g (e 0) (e (n - 1)) }

def postValues (b : Ix4) (w : WideBody) (g : Group) (dd a : Operand) (bb : Option Operand) (q : Polder) (x : Berth) :
    List Flight × List Conv :=
  let l := postLat a bb
  let e := entry x.mc l (wPace w)
  runRows x.flights (a.count * a.rowsPer) (fun r fs =>
    (List.range g.n).foldl (fun out k =>
      let j := r / a.rowsPer
      let vec := a.value q b g k fs (e j - a.lat) j
      let lanes := (vec.drop (32 * (r % a.rowsPer))).take 32
      let bl := match bb with
        | some y => (y.value q b g k x.flights (postB x.mc l y 0) 0).map word
        | none => []
      let cs := postRow (PostFunc.of w.func) dd.elem false (lanes.map (PostVal.of a.elem)) [] bl
      (dd.deposit g k r (e j + 6 + dd.lat) x.mc cs ++ out.1, out.2 ++ cs)) ([], []))

def Dom.postRun (d : Dom) (b : Ix4) (w : WideBody) (g : Group) (dd a0 : Operand) (bb0 : Option Operand) (rest : List Slot) : Dom :=
  let x := d.berth b
  let l := postLat a0 bb0
  let a := a0.indexed d.q x (fun j => entry x.mc l (wPace w) j - a0.lat)
  let bb := bb0.map (fun y => y.indexed d.q x (postB x.mc l y))
  (d.widx b (a.outOfRange d.q b g || (match bb with
    | some y => y.outOfRange d.q b g
    | none => false))).distance b (postPlan d.q b w g dd a bb) false rest (postValues b w g dd a bb) id

def Dom.postOp (d : Dom) (b : Ix4) (w : WideBody) : Dom :=
  d.wide b (fun d => d.readOps b w (fun d o =>
    let g := (d.berth b).millGroup w.msel
    let cs := checkedOf o.d true true g (some g.n) ++ checkedOf o.a false true g (some g.n) ++ checkedOf o.b false true g (some g.n)
    match d.q.wideCheck b cs (if d.q.postShapeOk b w o then none else some 9), o.d, o.a with
    | some f, _, _ => d.wideFault b f
    | none, some dd, some a => d.postRun b w g dd a o.b o.rest
    | none, _, _ => d.trapNow b 9))

/-! ## RED (R305) -/

/-- FUNC of RED. -/
inductive RedOp where
  | sum | max | min
deriving DecidableEq, Repr

/-- One node of the tree on one lane. -/
def redNode (op : RedOp) (u v : PostVal) : PostVal :=
  match u, v with
  | .int x, .int y =>
    match op with
    | .sum => .int (x + y)
    | .max => .int (if x.slt y then y else x)
    | .min => .int (if y.slt x then y else x)
  | u, v =>
    match op with
    | .sum => .flt (f32add u.f32 v.f32)
    | .max => .flt (f32max u.f32 v.f32)
    | .min => .flt (f32min u.f32 v.f32)

/-- One level: neighbours combined. -/
def redLevel (op : RedOp) : List (List PostVal) → List (List PostVal)
  | u :: v :: rest => ((u.zip v).map (fun p => redNode op p.1 p.2)) :: redLevel op rest
  | l => l

/-- The tree over the mills' vectors by position, through `levels` levels. -/
def redTree (op : RedOp) : (levels : Nat) → List (List PostVal) → List (List PostVal)
  | 0, l => l
  | k + 1, l => redTree op k (redLevel op l)

/-- λ: log2 of the number of selected mills. -/
def Group.levels (g : Group) : Nat := Nat.log2 g.n

/-- D of RED is that of mill 0 of the group (R264). -/
def Group.first (g : Group) : Group := ⟨g.base, 1⟩

def Polder.redShapeOk (q : Polder) (b : Ix4) (w : WideBody) (o : WideOps) : Bool :=
  let x := q.berths.get b
  match o.d, o.a, o.b with
  | some dd, some a, none => x.mselOk w.msel && a.sourceOk [.bin] && dd.destOk (a.count * a.rowsPer)
  | _, _, _ => false

def redPlan (q : Polder) (b : Ix4) (w : WideBody) (g : Group) (dd a : Operand) : Plan :=
  let n := a.count
  let e := entry (q.berths.get b).mc a.srcLat (wPace w)
  let lam := 2 * g.levels
  { accs := a.reads q b 1 g (fun j => e j - a.lat) noPlane ++
      dd.writes 0 g.first 1 (n * a.rowsPer) (fun r => e (r / a.rowsPer) + lam + 6)
    idx := a.indexReads (fun j => e j - a.lat)
    books := bookMills 7 g (e 0) (e (n - 1)) ++ bookMills 2 g.first (e 0 + lam) (e (n - 1) + lam) }

def redValues (b : Ix4) (w : WideBody) (g : Group) (dd a : Operand) (op : RedOp) (q : Polder) (x : Berth) :
    List Flight × List Conv :=
  let e := entry x.mc a.srcLat (wPace w)
  runRows x.flights (a.count * a.rowsPer) (fun r fs =>
    let j := r / a.rowsPer
    let vecs := (List.range g.n).map (fun k =>
      (((a.value q b g k fs (e j - a.lat) j).drop (32 * (r % a.rowsPer))).take 32).map (PostVal.of a.elem))
    let res := (redTree op g.levels vecs).getD 0 []
    let cs := postRow (PostFunc.of 0) dd.elem false res [] []
    (dd.deposit g.first 0 r (e j + 2 * g.levels + 6 + dd.lat) x.mc cs, cs))

def Dom.redRun (d : Dom) (b : Ix4) (w : WideBody) (g : Group) (dd a0 : Operand) (op : RedOp) (rest : List Slot) : Dom :=
  let x := d.berth b
  let a := a0.indexed d.q x (fun j => entry x.mc a0.srcLat (wPace w) j - a0.lat)
  (d.widx b (a.outOfRange d.q b g)).distance b (redPlan d.q b w g dd a) false rest (redValues b w g dd a op) id

def Dom.redOp (d : Dom) (b : Ix4) (w : WideBody) (op : RedOp) : Dom :=
  d.wide b (fun d => d.readOps b w (fun d o =>
    let g := (d.berth b).millGroup w.msel
    let cs := checkedOf o.d true true g.first (some 1) ++ checkedOf o.a false true g (some g.n) ++
      checkedOf o.b false true g (some g.n)
    match d.q.wideCheck b cs (if d.q.redShapeOk b w o then none else some 9), o.d, o.a with
    | some f, _, _ => d.wideFault b f
    | none, some dd, some a => d.redRun b w g dd a op o.rest
    | none, _, _ => d.trapNow b 9))

/-! ## The commands -/

def execMm (p b : Ix4) (w : WideBody) (s : State) : Host.Outcome State Fault Refusal := .next (s.wide p b (·.mmOp b w))

def execMmo (p b : Ix4) (w : WideBody) (s : State) : Host.Outcome State Fault Refusal := .next (s.wide p b (·.mmoOp b w))

def execLdw (p b : Ix4) (w : WideBody) (s : State) : Host.Outcome State Fault Refusal := .next (s.wide p b (·.ldwOp b w false))

def execLdwt (p b : Ix4) (w : WideBody) (s : State) : Host.Outcome State Fault Refusal := .next (s.wide p b (·.ldwOp b w true))

def execPost (p b : Ix4) (w : WideBody) (s : State) : Host.Outcome State Fault Refusal := .next (s.wide p b (·.postOp b w))

def execRedSum (p b : Ix4) (w : WideBody) (s : State) : Host.Outcome State Fault Refusal :=
  .next (s.wide p b (·.redOp b w .sum))

def execRedMax (p b : Ix4) (w : WideBody) (s : State) : Host.Outcome State Fault Refusal :=
  .next (s.wide p b (·.redOp b w .max))

def execRedMin (p b : Ix4) (w : WideBody) (s : State) : Host.Outcome State Fault Refusal :=
  .next (s.wide p b (·.redOp b w .min))

end Sys2Proof.Machine
end

