-- ==== Sys2Proof/Machine/Engines.lean ====
section
/-!
DEFINITION. Machine/Engines.lean: what the completion-based classes share (R277 to R280, R287): the queues of 16, the checks at issue, and
accesses of an engine for a berth anywhere in the polder map (R20), the register window and the host window included (R78, R327, R528).
-/
namespace Sys2Proof.Machine

/-- The engines of R277, by their IMP_MASTER code. -/
inductive Engine where
  | gleaner | ledger | xfer | copy
deriving DecidableEq, Repr

def Engine.code : Engine → Nat
  | .gleaner => 1 | .ledger => 2 | .xfer => 3 | .copy => 4

/-- Operations of a berth in an engine. -/
def Polder.queued (q : Polder) (b : Ix4) : Engine → Nat
  | .gleaner => q.gleaner.ops.countP (fun o => decide (o.berth = b))
  | .ledger => q.ledger.ops.countP (fun o => decide (o.berth = b))
  | .xfer => q.lock.xfer.countP (fun o => decide (o.berth = b))
  | .copy => q.copy.countP (fun o => decide (o.berth = b))

/-- BIN space of a completion-based class: the bin of the first mill of the waybill's group. -/
def Berth.ownGroup (x : Berth) : Group :=
  ⟨match x.run with
    | some r => r.base
    | none => 0, 1⟩

/-- The trap WIDESHAPE, unless a shape passes. -/
def wantShape (ok : Bool) : Option Nat := if ok then none else some 9

/-- A completion-based instruction at issue: the queue, descriptors and cells, and the checks of R287 over the operands that `cs` gives;
`sixth` is the sixth, a trap where it fails. `k` enqueues. -/
def Dom.complete (d : Dom) (b : Ix4) (w : WideBody) (e : Engine) (cs : WideOps → List Checked) (sixth : Polder → WideOps → Option Nat)
    (k : Dom → WideOps → Dom) : Dom :=
  if 16 ≤ d.q.queued b e then d.onBerth b (fun x => { x with phase := .wideStall })
  else d.wide b (fun d => d.readOps b w (fun d o =>
    match d.q.wideCheck b (cs o) (sixth d.q o) with
    | some f => d.wideFault b f
    | none =>
      let x := d.eccIndexes o
      if x.2 then x.1.memue b
      else
        let d' := k x.1 o
        if (d'.berth b).running.isSome then d'.wideDone b o.rest else d'))

/-! ## Element rows -/

/-- Elements of an operand in index order, row by row. -/
def Operand.rows (o : Operand) (g : Group) : List (List Nat) :=
  (List.range o.sh.e3).flatMap (fun j3 => (List.range o.sh.e2).flatMap (fun j2 => (List.range o.sh.e1).map (fun j1 =>
    (List.range o.sh.e0).map (fun j0 => place (o.addr g 0 j0 j1 j2 j3)))))

/-- Bytes of an operand. -/
def Operand.total (o : Operand) : Nat := o.size * o.sh.e0 * o.sh.e1 * o.sh.e2 * o.sh.e3

/-- Whether a row of an INDEXED operand of a completion-based class may be read (R282). -/
def Operand.engRowOk (o : Operand) (q : Polder) (b : Ix4) (addrs : List Nat) : Bool :=
  (mergeRuns o.size addrs).all (fun r =>
    (q.berthCause b false r.1 r.2 false).isNone &&
    (match o.space with
      | .com => decide (q.region r.1 = some .granary) && q.isCommons (binOf r.1) && q.isCommons (binOf (r.1 + r.2 - 1))
      | .ctr => decide (q.region r.1 = some .counter)
      | _ => true))

/-- Rows with the runs they are read from: none where R282 leaves a row unread. Register accesses are one element each. -/
def Operand.rowRuns (o : Operand) (q : Polder) (b : Ix4) (g : Group) : List (Option (List (Nat × Nat))) :=
  (o.rows g).map (fun r =>
    if o.mode = .indexed ∧ !o.engRowOk q b r then none
    else some (if q.region (r.getD 0 0) = some .window then r.map (fun a => (a, o.size)) else mergeRuns o.size r))

/-- Runs of adjacent ranges joined, but for register accesses. -/
def joinRuns (q : Polder) : List (Nat × Nat) → List (Nat × Nat)
  | [] => []
  | r :: rs =>
    match joinRuns q rs with
    | [] => [r]
    | x :: xs => if r.1 + r.2 = x.1 ∧ q.region r.1 ≠ some .window then (r.1, r.2 + x.2) :: xs else r :: x :: xs

/-- The runs of an operand's elements in index order. -/
def Operand.runs (o : Operand) (q : Polder) (g : Group) : List (Nat × Nat) :=
  joinRuns q ((o.rows g).flatMap (fun r =>
    if q.region (r.getD 0 0) = some .window then r.map (fun a => (a, o.size)) else mergeRuns o.size r))

/-! ## Accesses for a berth -/

/-- How an engine's access ends: done, failed (R349, R528), or a violation (R78). -/
inductive Ran where
  | ok | error | breach
deriving DecidableEq, Repr

/-- One run read for a berth, as an access of that master (R69). -/
def Dom.engRead (d : Dom) (b : Ix4) (e : Engine) (a n : Nat) : Dom × Ran × List Byte :=
  if d.q.region a = some .window then
    let x := d.regRd (.berth b) e.code (a - winBase) n
    (x.1, if x.2.2.isSome then .breach else .ok, natLe n x.2.1)
  else d.precedeFor (.berth b) e.code (.breach, []) (fun d =>
    let x := d.fetch a n
    match x.2 with
    | some bs => (x.1, .ok, bs)
    | none => (x.1, .error, []))

/-- Runs read in order up to the first that does not end well. -/
def Dom.engReads (d : Dom) (b : Ix4) (e : Engine) : List (Nat × Nat) → Dom × Ran × List Byte
  | [] => (d, .ok, [])
  | r :: rs =>
    let x := d.engRead b e r.1 r.2
    match x.2.1 with
    | .ok => let y := x.1.engReads b e rs; (y.1, y.2.1, x.2.2 ++ y.2.2)
    | o => (x.1, o, [])

/-- One run written for a berth, as an access of that master. -/
def Dom.engWrite (d : Dom) (b : Ix4) (e : Engine) (a : Nat) (bs : List Byte) : Dom × Ran :=
  if d.q.region a = some .window then
    let x := d.regWrite (.berth b) e.code (a - winBase) bs.length (leNat bs) Coincide.none
    (x.1, match x.2 with
      | some 4 | some 5 => .breach
      | _ => .ok)
  else d.precedeFor (.berth b) e.code .breach (fun d =>
    let x := d.depositAs (decide (e = .copy)) a bs
    (x.1, if x.2 then .ok else .error))

/-- Runs written in order from a list of bytes. -/
def Dom.engWrites (d : Dom) (b : Ix4) (e : Engine) : List (Nat × Nat) → List Byte → Dom × Ran
  | [], _ => (d, .ok)
  | r :: rs, bs =>
    let x := d.engWrite b e r.1 (bs.take r.2)
    match x.2 with
    | .ok => x.1.engWrites b e rs (bs.drop r.2)
    | o => (x.1, o)

/-- Whether a range lies in the polder's own memory. -/
def Polder.isMem (q : Polder) (a : Nat) : Bool :=
  match q.region a with
  | some .granary | some .counter | some .hbm => true
  | _ => false

/-- A register that a pending operation will write holds some value in the fields that the write reaches (R14, R279). -/
def Dom.pendingReg (d : Dom) (b : Ix4) (o n : Nat) : Dom :=
  match regSpec o with
  | some r =>
    if n ≠ 4 ∨ d.q.bootWrites ∨ d.q.fenced b.toNat (winBase + o) n true ∨ d.q.lockBreach (.berth b) o then d
    else
      let x := d.q.free
      { d with q := x.2.store o (blend (x.2.stored o) x.1.toNat (r.rw ||| r.lv)) }
  | none => d

/-- A run of a destination whose contents are unspecified (R205, R279); a stream in flight that reads it gets unspecified values (R286). -/
def Dom.pendingRun (d : Dom) (b : Ix4) (a n : Nat) : Dom :=
  match d.q.region a with
  | some .window => d.pendingReg b (a - winBase) n
  | _ => d.blurRun a n

/-- The destination of an operation that has not reported (R279). -/
def Dom.pendingDest (d : Dom) (b : Ix4) (runs : List (Nat × Nat)) : Dom := runs.foldl (fun d r => d.pendingRun b r.1 r.2) d

/-- Whether two lists of runs share a byte. -/
def runsMeet (xs ys : List (Nat × Nat)) : Bool :=
  xs.any (fun x => ys.any (fun y => decide (x.1 < y.1 + y.2) && decide (y.1 < x.1 + x.2)))

/-- Modes and spaces of an operand of a completion-based class. -/
def Operand.allowed (o : Operand) (ms : List OpMode) (ss : List Space) : Bool := o.modeIn ms && o.spaceIn ss && o.ringOk

/-- Modes of the operands of the XFER unit, the Gleaner and the Ledger (R462). -/
def plainModes : List OpMode := [.direct, .stackbase, .shape]

end Sys2Proof.Machine
end

