-- ==== Sys2Proof/Machine/Copy.lean ====
section
/-!
DEFINITION. Machine/Copy.lean: the copy unit: MOV and TURN (R277 to R280, R328) and their reports.
A's elements are read at issue; D is written at the report, and has unspecified contents until then and where A has changed (R279).
-/
namespace Sys2Proof.Machine

/-- Bytes of A in index order, from the bytes of the rows that were read; rows left unread are zeros (R282). -/
def weave (rowLen : Nat) : List (Option (List (Nat × Nat))) → List Byte → List Byte
  | [], _ => []
  | none :: rs, bs => zeros rowLen ++ weave rowLen rs bs
  | some _ :: rs, bs => bs.take rowLen ++ weave rowLen rs (bs.drop rowLen)

/-- TURN: D(j0, j1, j2, j3) = A(j1, j0, j2, j3) (R328), on elements in index order with A's extents. -/
def turned (e0 e1 planes : Nat) (els : List (List Byte)) : List (List Byte) :=
  (List.range planes).flatMap (fun z => (List.range e0).flatMap (fun j1 => (List.range e1).map (fun j0 =>
    els.getD (j1 + e0 * (j0 + e1 * z)) [])))

/-- The shape rules of MOV (R264, R280): as many elements in D as in A. -/
def movOk (o : WideOps) : Bool :=
  match o.d, o.a, o.b with
  | some dd, some a, none =>
    dd.allowed [.direct, .stackbase, .shape, .ring, .turn] [.bin, .gran, .ctr, .stk] &&
      a.allowed [.direct, .stackbase, .shape, .indexed, .ring, .turn] [.bin, .gran, .ctr, .com, .stk] &&
      decide (a.sh.e0 * a.sh.e1 * a.sh.e2 * a.sh.e3 = dd.sh.e0 * dd.sh.e1 * dd.sh.e2 * dd.sh.e3)
  | _, _, _ => false

/-- Whether an operand lies in the Granary, as one that is checked row by row will have to (R282). -/
def Operand.inGranary (o : Operand) (q : Polder) (g : Group) : Bool :=
  decide (o.space = .bin) || decide (o.mode = .indexed) || decide (q.region (o.box g 0 o.sh.e3).1.toNat = some .granary)

/-- The shape rules of TURN (R264, R280, R328). -/
def turnOk (q : Polder) (g : Group) (o : WideOps) : Bool :=
  match o.d, o.a, o.b with
  | some dd, some a, none =>
    dd.allowed [.direct, .stackbase, .shape, .ring] [.bin, .gran, .stk] &&
      a.allowed [.direct, .stackbase, .shape, .indexed, .ring] [.bin, .gran, .com, .stk] &&
      decide (a.sh.e0 % 32 = 0 ∧ a.sh.e1 % 32 = 0 ∧ a.size ≤ 2 ∧ dd.elem = a.elem ∧ dd.sh.e0 = a.sh.e1 ∧ dd.sh.e1 = a.sh.e0 ∧
        dd.sh.e2 = a.sh.e2 ∧ dd.sh.e3 = a.sh.e3) &&
      dd.inGranary q g && a.inGranary q g
  | _, _, _ => false

/-- Operands of a copy as the checks see them. -/
def copyChecks (g : Group) (o : WideOps) : List Checked :=
  checkedOf o.d true false g none ++ checkedOf o.a false false g none ++ checkedOf o.b false false g none

/-- A MOV or TURN enters the copy unit. MOV between two formats: the spec states no result, and D stays unspecified (log entry 24). -/
def Dom.copyQueue (d : Dom) (b : Ix4) (w : WideBody) (g : Group) (dd a : Operand) (turn : Bool) : Dom :=
  let rows := a.rowRuns d.q b g
  let src := joinRuns d.q (rows.flatMap (fun r => r.getD []))
  let d0 := d.widx b (rows.any (·.isNone))
  let x := d0.engReads b .copy src
  match x.2.1 with
  | .error => x.1.memue b
  | .breach => x.1
  | .ok =>
    let bytes := weave (a.size * a.sh.e0) rows x.2.2
    let out := if turn then
        (turned a.sh.e0 a.sh.e1 (a.sh.e2 * a.sh.e3) (pieces a.size (bytes.length + 1) bytes)).flatten
      else bytes
    let dst := dd.runs x.1.q g
    (x.1.pendingDest b dst).on (fun q => { q with
      copy := q.copy ++ [⟨b, false, src, dst, x.2.2, if dd.elem = a.elem then out else [], w.tally.extractLsb' 4 4, w.tally.extractLsb' 0 4⟩] })

def Dom.copyOp (d : Dom) (b : Ix4) (w : WideBody) (turn : Bool) : Dom :=
  let g := (d.berth b).ownGroup
  if w.func ≠ 0 then d.wide b (fun d => d.havoc b)
  else d.complete b w .copy (copyChecks g) (fun q o => wantShape (if turn then turnOk q g o else movOk o)) (fun d o =>
    match o.d, o.a with
    | some dd, some a => d.copyQueue b w g dd a turn
    | _, _ => d)

/-- The `n`-th element that meets a test, and the list without it. -/
def takeNth {α : Type} (p : α → Bool) : (n : Nat) → List α → Option (α × List α)
  | _, [] => none
  | n, x :: xs =>
    if p x then
      match n with
      | 0 => some (x, xs)
      | k + 1 => (takeNth p k xs).map (fun r => (r.1, x :: r.2))
    else (takeNth p n xs).map (fun r => (r.1, x :: r.2))

/-- The first `n` operations of a berth and all of the others. -/
def keepFirst (b : Ix4) : (n : Nat) → List CopyOp → List CopyOp
  | _, [] => []
  | n, o :: os =>
    if o.berth ≠ b then o :: keepFirst b n os
    else match n with
      | 0 => keepFirst b 0 os
      | k + 1 => o :: keepFirst b k os

/-- What D gets: `out`, or free bytes where the spec leaves its contents unspecified. -/
def Dom.copyBytes (d : Dom) (o : CopyOp) (blurred : Bool) : Dom × List Byte :=
  if blurred then
    let x := d.q.freeBytes (o.dst.map (·.2)).sum
    ({ d with q := x.2 }, x.1)
  else (d, o.out)

/-- COPY_REPORT: the `n`-th operation of the berth in the copy unit lands and reports. A violation discards it and those of the berth
behind it (R78). -/
def Dom.copyReport (d : Dom) (b : Ix4) (n dmc : Nat) : Dom :=
  match takeNth (fun o => decide (o.berth = b)) n d.q.copy with
  | none => d
  | some (o, rest) =>
    let d1 := d.on (fun q => { q with copy := rest })
    let blurred := d.changed b o.stale o.src o.snap || runsMeet o.src o.dst || decide (o.out = [])
    if blurred && o.dst.all (fun r => d.q.isMem r.1) then (d1.pendingDest b o.dst).report b o.tally o.inc dmc
    else
      let v := d1.copyBytes o blurred
      let x := v.1.engWrites b .copy o.dst v.2
      match x.2 with
      | .ok => x.1.report b o.tally o.inc dmc
      | .error => x.1.memue b
      | .breach => x.1.on (fun q => { q with copy := keepFirst b n q.copy })

def execMov (p b : Ix4) (w : WideBody) (s : State) : Host.Outcome State Fault Refusal := .next (s.wide p b (·.copyOp b w false))

def execTurn (p b : Ix4) (w : WideBody) (s : State) : Host.Outcome State Fault Refusal := .next (s.wide p b (·.copyOp b w true))

def execCopyReport (p b : Ix4) (n dmc : Nat) (s : State) : Host.Outcome State Fault Refusal :=
  .next (s.actOn p (·.copyReport b n dmc))

end Sys2Proof.Machine
end

