-- ==== Sys2Proof/Machine/XferOps.lean ====
section
/-!
DEFINITION. Machine/XferOps.lean: PUT, MPUT and RPUT, their start and their report (15_lock_and_transfers.md, R460 to R464, R471, R472,
R480, R481). Frames are formed and sent by CELL_SEND (Basin.lean), by the harbour ring (Harbour.lean), or passed inside the polder here.
-/
namespace Sys2Proof.Machine

/-- The rules of R462. -/
def xferOk (w : WideBody) (rput : Bool) (o : WideOps) : Bool :=
  match o.d, o.a, o.b with
  | none, some a, some bb =>
    decide (w.msel = 0) && a.allowed plainModes [.bin, .gran, .ctr, .com, .stk] && bb.allowed plainModes [.bin, .gran, .ctr, .stk] &&
      decide (a.total % 4 = 0 ∧ 4 ≤ a.total ∧ a.total ≤ 2 ^ 30 ∧ bb.total = 32) &&
      (!rput || decide (a.elem = .fp32) || decide (a.elem = .int32))
  | _, _, _ => false

/-- The control block is read and its RESULT written (R463). -/
def xferChecks (g : Group) (o : WideOps) : List Checked :=
  checkedOf o.d true false g none ++ checkedOf o.a false false g none ++ checkedOf o.b false false g none ++
    checkedOf o.b true false g none

/-- An operation enters the XFER unit (R278). -/
def Dom.xferQueue (d : Dom) (b : Ix4) (w : WideBody) (func : Nat) (g : Group) (a bb : Operand) : Dom :=
  let src := a.runs d.q g
  let x := d.engReads b .xfer src
  match x.2.1 with
  | .error => x.1.memue b
  | .breach => x.1
  | .ok =>
    x.1.on (fun q =>
      let t := q.token
      { t.2 with lock := { t.2.lock with xfer := t.2.lock.xfer ++ [{
          berth := b, stale := false, func := func, bytes := x.2.2, src := src, int32 := decide (a.elem = .int32), ctlAt := bb.runs q g, ctl := none
          deadline := (match (q.berths.get b).run with
            | some r => r.wb.deadline
            | none => none)
          formed := 0, code := none, token := t.1, tally := w.tally.extractLsb' 4 4, inc := w.tally.extractLsb' 0 4 }] } })

def Dom.xferOp (d : Dom) (b : Ix4) (w : WideBody) (func : Nat) : Dom :=
  let g := (d.berth b).ownGroup
  d.complete b w .xfer (xferChecks g) (fun _ o => wantShape (xferOk w (decide (func = 2)) o)) (fun d o =>
    match o.a, o.b with
    | some a, some bb => d.xferQueue b w func g a bb
    | _, _ => d)

/-! ## The start (R460, R461, R463) -/

/-- A control block as its bytes spell it. -/
def XferCtl.parse (bs : List Byte) : XferCtl where
  dst := BitVec.ofNat 16 (fieldAt bs 0 2 % 4096)
  dgrid := BitVec.ofNat 8 (fieldAt bs 2 1 % 64)
  alt := bitOf (fieldAt bs 3 1) 0
  urgent := bitOf (fieldAt bs 3 1) 1
  nrow := fieldAt bs 4 1
  ncol := fieldAt bs 5 1
  raddr := fieldAt bs 8 8 % 2 ^ 48
  rnote := word (fieldAt bs 0x10 4)

/-- Whether a control block breaks R463, or names another grid where none may be (R464). -/
def XferCtl.bad (c : XferCtl) (func : Nat) (grid : BitVec 6) : Bool :=
  (decide (func ≠ 0) && decide (c.dgrid.toNat ≠ grid.toNat)) || (decide (func = 1) && decide (64 ≤ c.dst.toNat)) ||
    (decide (func = 2) && !(decide (1 ≤ c.nrow ∧ c.nrow ≤ 64) && decide (1 ≤ c.ncol ∧ c.ncol ≤ 64)))

/-- Whether the roster lets a transfer go (R461); a PUT or RPUT to the polder itself is no basin transfer (R77). -/
def Polder.rosterLets (q : Polder) (func : Nat) (c : XferCtl) : Bool :=
  let dst : BitVec 12 := c.dst.setWidth 12
  let grid : BitVec 6 := c.dgrid.setWidth 6
  if func = 1 then q.lock.groupOk.getLsbD (c.dst.toNat % 64)
  else (decide (dst = q.addr) && decide (grid = q.grid)) || q.inRoster dst grid

def Polder.onXfer (q : Polder) (token : Nat) (f : XferOp → XferOp) : Polder :=
  { q with lock := { q.lock with xfer := q.lock.xfer.map (fun o => if o.token = token then f o else o) } }

/-- A violation discards the operation that committed it and those of the berth that have not started (R78). -/
def Polder.dropXfer (q : Polder) (b : Ix4) (token : Nat) : Polder :=
  { q with lock := { q.lock with
    xfer := q.lock.xfer.filter (fun x => decide (x.berth ≠ b) || ((x.ctl.isSome || x.code.isSome) && decide (x.token ≠ token))) } }

/-- A local PUT: its bytes land as one segment (R460, R469). -/
def Dom.localPut (d : Dom) (b : Ix4) (o : XferOp) (c : XferCtl) : Dom :=
  let x := d.q.freeBytes o.bytes.length
  let l := if d.changed b o.stale o.src o.bytes then ({ d with q := x.2 } : Dom).landSegment c.raddr c.rnote x.1
    else d.landSegment c.raddr c.rnote o.bytes
  match l.2 with
  | .landed => l.1.on (·.onXfer o.token (fun x => { x with formed := x.bytes.length }))
  | .rejected => l.1.on (·.onXfer o.token (fun x => { x with code := some 2 }))
  | .lost => l.1.memue b

/-- Contributions that stay inside the polder (R472): as many segments as the stream's window takes. `fuel` bounds them. -/
def Dom.insidePump (d : Dom) : (fuel : Nat) → Dom
  | 0 => d
  | n + 1 =>
    match d.q.lock.xfer.findSome? (fun o => match o.ctl with
      | some c =>
        let w := d.q.xferWay o c
        if o.code.isNone && decide (o.formed < o.bytes.length) && decide (w.2.2.2.1 = some .inside) &&
          decide ((d.q.txOf w.1 w.2.1 w.2.2.1).frames.length < 64) then some (o, c) else none
      | none => none) with
    | none => d
    | some (o, c) =>
      let w := d.q.xferWay o c
      let d1 := d.formFrame o c 1024
      match (d1.q.txOf w.1 w.2.1 w.2.2.1).frames.getLast? with
      | none => d1
      | some f =>
        (d1.addContribution { frameSet f.frame false d1.now with int32 := some o.int32 } ⟨d1.q.addr, f.frame.seq, segData f.frame⟩
          (d1.sfNow .r)).insidePump n

/-- An operation whose control block has been read starts. -/
def Dom.xferBegin (d : Dom) (b : Ix4) (o : XferOp) (c : XferCtl) : Dom :=
  let d1 := d.on (·.onXfer o.token (fun x => { x with ctl := some c }))
  if c.bad o.func d.q.grid then d1.on (·.onXfer o.token (fun x => { x with code := some 3 }))
  else if !d.q.rosterLets o.func c then
    (d1.on (·.dropXfer b o.token)).berthViolation b 3 7 (o.ctlAt.getD 0 (0, 0)).1 true 0
  else
    let w := d.q.xferWay o c
    if o.func = 0 ∧ w.2.2.2.1 = none then d1.localPut b o c
    else if o.func = 1 ∧ w.2.2.2.2 = [] then d1.on (·.onXfer o.token (fun x => { x with formed := x.bytes.length }))
    else if w.2.2.2.1 = some .harbour then d1.harbPump
    else if d.q.urgentXfer o c then (d1.formUrgent .r 64).formUrgent .c 64
    else d1.insidePump 64

/-- XFER_START: the berth's next operation starts; with none to start, segments that stay inside go on. -/
def Dom.xferStart (d : Dom) (b : Ix4) : Dom :=
  match d.q.lock.xfer.find? (fun o => decide (o.berth = b) && o.ctl.isNone && o.code.isNone) with
  | none => d.insidePump 64
  | some o =>
    let x := d.engReads b .xfer o.ctlAt
    match x.2.1 with
    | .ok => x.1.xferBegin b o (XferCtl.parse x.2.2)
    | .error => x.1.memue b
    | .breach => x.1.on (·.dropXfer b o.token)

/-! ## The report (R464) -/

/-- Whether an operation has ended: it has failed, or every frame is formed and acknowledged. -/
def Polder.xferEnded (q : Polder) (o : XferOp) : Bool :=
  o.code.isSome || (o.ctl.isSome && decide (o.formed = o.bytes.length) &&
    q.lock.tx.all (fun t => t.frames.all (fun f => decide (f.token ≠ o.token))))

/-- Bytes `i` to `i + n − 1` of runs, as runs. -/
def subRuns : List (Nat × Nat) → (i n : Nat) → List (Nat × Nat)
  | [], _, _ => []
  | r :: rs, i, n =>
    if n = 0 then []
    else if r.2 ≤ i then subRuns rs (i - r.2) n
    else
      let k := min n (r.2 - i)
      (r.1 + i, k) :: subRuns rs 0 (n - k)

/-- XFER_REPORT: the `n`-th operation of the berth in the XFER unit, once it has ended: RESULT, then the tally. -/
def Dom.xferReport (d : Dom) (b : Ix4) (n dmc : Nat) : Dom :=
  match takeNth (fun o => decide (o.berth = b)) n d.q.lock.xfer with
  | none => d
  | some (o, rest) =>
    if !d.q.xferEnded o then d
    else
      let d1 := d.on (fun q => { q with lock := { q.lock with xfer := rest } })
      let x := d1.engWrites b .xfer (subRuns o.ctlAt 0x14 4) (natLe 4 (o.code.getD 0))
      match x.2 with
      | .ok => x.1.report b o.tally o.inc dmc
      | .error => x.1.memue b
      | .breach => x.1.on (·.dropXfer b o.token)

def execPut (p b : Ix4) (w : WideBody) (s : State) : Host.Outcome State Fault Refusal := .next (s.wide p b (·.xferOp b w 0))

def execMput (p b : Ix4) (w : WideBody) (s : State) : Host.Outcome State Fault Refusal := .next (s.wide p b (·.xferOp b w 1))

def execRput (p b : Ix4) (w : WideBody) (s : State) : Host.Outcome State Fault Refusal := .next (s.wide p b (·.xferOp b w 2))

def execXferStart (p b : Ix4) (s : State) : Host.Outcome State Fault Refusal := .next (s.actOn p (·.xferStart b))

def execXferReport (p b : Ix4) (n dmc : Nat) (s : State) : Host.Outcome State Fault Refusal :=
  .next (s.actOn p (·.xferReport b n dmc))

end Sys2Proof.Machine
end

