-- ==== Sys2Proof/Machine/Gleaner.lean ====
section
/-!
DEFINITION. Machine/Gleaner.lean: embedding tables, lookups, the hot-row cache, updates in pending slots and their publication
(12_gleaner.md, R353 to R384), and the Gleaner frames (R478). RADDR of a GLROW frame is the offset in the answer and RNOTE the SEQ of the
request; RADDR of a piece of an update is its offset (log entry 25).
An operation reads its lists and its shard-map entries at issue and then waits in its berth's queue for its turn (R364).
-/
namespace Sys2Proof.Machine

/-! ## Tables (R353 to R356, R384) -/

/-- A table descriptor with its number. -/
structure GlTable where
  t : Nat
  tbase : Nat
  sbase : Nat
  rows : Nat
  elem : Option Elem
  scaled : Bool
  rescale : Bool
  publish : Nat
  valid : Bool
  dim : Nat
  nshard : Nat
  selfShard : Nat
  map : Nat
  slots : Nat
  pbase : Nat
  cache : Nat
deriving DecidableEq, Repr

def Polder.glTable (q : Polder) (t : Nat) : GlTable :=
  let o := Off.table t
  let f := q.stored (o + 0x14)
  { t := t, tbase := q.stored64 o, sbase := q.stored64 (o + 8), rows := q.stored (o + 0x10)
    elem := if f % 8 < 6 then Elem.ofCode (f % 8) else none
    scaled := bitOf f 3, rescale := bitOf f 4, publish := bitsOf f 11 8, valid := bitOf f 31, dim := q.stored (o + 0x18) % 2 ^ 11
    nshard := q.stored (o + 0x1C) % 2 ^ 13
    selfShard := q.stored (o + 0x1C) / 2 ^ 16 % 2 ^ 12, map := q.stored (o + 0x20), slots := q.stored (o + 0x24), pbase := q.stored64 (o + 0x28)
    cache := q.stored (o + 0x30) % 4 }

def GlTable.fmt (tb : GlTable) : Elem := tb.elem.getD .fp32

def GlTable.rowBytes (tb : GlTable) : Nat := tb.dim * tb.fmt.size

/-- Whether a descriptor keeps the rules of R354, R355 and R384. -/
def GlTable.good (tb : GlTable) : Bool :=
  tb.elem.isSome && decide (tb.rowBytes % 32 = 0 ∧ 32 ≤ tb.rowBytes ∧ tb.rowBytes ≤ 1024 ∧ 1 ≤ tb.nshard ∧ tb.nshard ≤ 4096) &&
    (tb.scaled || decide (tb.elem ≠ some .int8))

/-- Whether a polder whose SELF_SHARD this is holds a row (R355). -/
def GlTable.holds (tb : GlTable) (g : Nat) : Bool := decide (g % tb.nshard = tb.selfShard)

def GlTable.ell (tb : GlTable) (g : Nat) : Nat := g / tb.nshard

def GlTable.rowAt (tb : GlTable) (ell : Nat) : Nat := tb.tbase + ell * tb.rowBytes

def GlTable.slotAt (tb : GlTable) (n : Nat) : Nat := tb.pbase + n * (ceilDiv (tb.rowBytes + 4) 64 * 64)

/-- The epoch number in a tide (R371). -/
def GlTable.epoch (tb : GlTable) (tide : Nat) : Nat := tide / tb.publish

/-- The value of an element under a scale (R354). -/
def GlTable.value (tb : GlTable) (scale : Word) (e : Nat) : Word :=
  if tb.scaled then f32of ((tb.fmt.num e).mul (f32num scale)) else f32of (tb.fmt.num e)

/-- The lanes of a raw row as fp32. -/
def GlTable.lanes (tb : GlTable) (row : List Byte) (scale : Word) : List Word :=
  (pieces tb.fmt.size (row.length + 1) row).map (fun p => tb.value scale (leNat p))

/-- The shard map's entry for a row: its address in the Counter, and grid and address of the owner (R356). -/
def Polder.glOwnerAt (q : Polder) (tb : GlTable) (g : Nat) : Nat × BitVec 18 :=
  let a := counterBase + (tb.map + 4 * (g % tb.nshard)) % counterSize
  (a, BitVec.ofNat 18 (q.mem.readNat a 4))

def Polder.glSelf (q : Polder) : BitVec 18 := q.grid ++ q.addr

/-- Written as the Gleaner's own memory (R357). -/
def Dom.glWrite (d : Dom) (a : Nat) (bs : List Byte) : Dom × Bool := d.deposit a bs

/-! ## Reading a published row (R355, R372, R373) -/

/-- The slot of a published row that is not copied back yet, newest first. -/
def Polder.glCommitting (q : Polder) (tb : GlTable) (ell : Nat) : Option PendSlot :=
  q.gleaner.slots.find? (fun s => s.committing && decide (s.table = tb.t) && decide (s.ell = ell))

/-- A row of this polder with its scale, none where memory gives none. Of a row of another shard it holds none: some value (R13, R355; log
entry 122). -/
def Dom.glOwn (d : Dom) (tb : GlTable) (g : Nat) : Dom × Option (List Byte × Word) :=
  let l := tb.ell g
  if !tb.holds g then
    let x := d.q.freeBytes (tb.rowBytes + 4)
    ({ d with q := x.2 }, some (x.1.take tb.rowBytes, word (fieldAt x.1 tb.rowBytes 4)))
  else match d.q.glCommitting tb l with
  | some s =>
    let x := d.fetch (tb.slotAt s.slot) (tb.rowBytes + 4)
    (x.1, x.2.map (fun bs => (bs.take tb.rowBytes, word (fieldAt bs tb.rowBytes 4))))
  | none =>
    let x := d.fetch (tb.rowAt l) tb.rowBytes
    match x.2 with
    | none => (x.1, none)
    | some row =>
      if tb.scaled then
        let y := x.1.fetch (tb.sbase + 4 * l) 4
        (y.1, y.2.map (fun bs => (row, word (leNat bs))))
      else (x.1, some (row, 0))

/-! ## The hot-row cache (R365, R366, R367, R373) -/

/-- ENTRY in bytes; a reserved code stands for a size that is not stated (R15). -/
def Polder.glEntry (q : Polder) : Nat :=
  let c := q.stored (Off.gleaner + 4) % 8
  64 * 2 ^ (if c ≤ 4 then c else (Config.junk q.fuses.index.toNat 0 400 c).toNat % 5)

/-- Whether a row of the table may be cached. -/
def Polder.glCaches (q : Polder) (tb : GlTable) (remote : Bool) : Bool :=
  let mode := if tb.cache = 3 then (Config.junk q.fuses.index.toNat 0 401 0).toNat % 3 else tb.cache
  bitOf (q.stored (Off.gleaner + 4)) 4 && decide (tb.rowBytes ≤ q.glEntry) && (decide (mode = 2) || (decide (mode = 1) && remote))

/-- The CRC of R365. -/
def glCrc (t g : Nat) : Nat := (crc32c (natLe 1 t ++ natLe 4 g)).toNat

def Polder.glSet (q : Polder) (t g : Nat) : Nat := glCrc t g % (2 ^ 20 / q.glEntry)

/-- A row placed as the most recently used of its set; a full set loses its least recently used row. -/
def Polder.glPlace (q : Polder) (r : CacheRow) : Polder :=
  let others := q.gleaner.cache.filter (fun c => !(decide (c.table = r.table) && decide (c.g = r.g)))
  let set := others.filter (fun c => decide (q.glSet c.table c.g = q.glSet r.table r.g))
  let kept := match set.drop 15 with
    | v :: _ => others.filter (fun c => !(decide (c.table = v.table) && decide (c.g = v.g)))
    | [] => others
  let cache := r :: kept
  { q with gleaner := { q.gleaner with cache := cache, cold := q.gleaner.cold && decide (cache.length * q.glEntry < 0x800000) } }

/-- A row that missed is offered to the cache; `force` for WARM. -/
def Dom.glFill (d : Dom) (tb : GlTable) (r : CacheRow) (force : Bool) : Dom :=
  if !d.q.glCaches tb r.remote then d
  else
    let i := glCrc r.table r.g / 2 ^ 16
    let place (d : Dom) : Dom := (d.on (·.glPlace r)).bump (Off.glCount 3) 1
    if force || d.q.gleaner.cold then place d
    else if Store.find d.q.gleaner.filter i = some (r.table, r.g) then
      place (d.on (fun q => { q with gleaner := { q.gleaner with filter := Store.erase q.gleaner.filter i } }))
    else d.on (fun q => { q with gleaner := { q.gleaner with filter := Store.insert q.gleaner.filter i (r.table, r.g) } })

/-- The cache looked up for a row that may be in it: a hit becomes the most recently used. -/
def Dom.glLook (d : Dom) (tb : GlTable) (g : Nat) (remote : Bool) : Dom × Option (List Byte × Word) :=
  if !d.q.glCaches tb remote then (d, none)
  else match d.q.gleaner.cache.find? (fun c => decide (c.table = tb.t) && decide (c.g = g)) with
    | some c =>
      (((d.on (fun q => { q with gleaner := { q.gleaner with
        cache := c :: q.gleaner.cache.filter (fun x => !(decide (x.table = tb.t) && decide (x.g = g))) } })).bump
          (Off.glCount 1) 1).event 0x0D 1 none, some (c.row, c.scale))
    | none => (d.bump (Off.glCount 2) 1, none)

/-! ## Frames (R478) -/

def glTag (tb : GlTable) (func : Nat) : Word := word (tb.t + 256 * func)

/-- A Gleaner frame put on the unicast stream to a polder. -/
def Dom.glSend (d : Dom) (who : BitVec 18) (op info token : Nat) (raddr : Nat) (rnote tag : Word) (data : List Byte) : Dom :=
  let dst : BitVec 12 := who.setWidth 12
  let grid : BitVec 6 := who.extractLsb' 12 6
  match d.q.route dst grid false with
  | none => d
  | some via =>
    let d1 := d.on (fun q => q.retain 0 dst grid 0 (op + info) token via [dst] (segHeader raddr rnote tag ++ data))
    if via = .harbour then d1.harbPump else d1

/-- The oldest Gleaner frame of an OP, where the Lock takes it: a late one counts as stale, one from outside the roster as such, and a
frame the stream has or cannot take is dropped (R364, R461, R467, R474). -/
def Dom.glTake (d : Dom) (sd : Side) (op : Nat) : Dom × Option Heard :=
  if d.q.boot ≠ .opened ∧ d.q.boot ≠ .run then (d, none)
  else match d.q.popInbox sd (fun h => d.q.glFrame h.frame && decide (frameOp h.frame = op)) with
    | none => (d, none)
    | some (h, q) =>
      let d0 : Dom := { d with q := q }
      let f := h.frame
      if staleAt f.tide f.opinfo q.wharf.tide then (d0.bump (Off.xfCount sd 4) 1, none)
      else if !q.inRoster f.src f.sgrid then (d0.lockEvent 7 16, none)
      else
        let x := d0.rxAdmit sd f h.sf
        (x.1, if x.2 then some h else none)

/-- DLOFS and NODL for a frame that carries on another's deadline. -/
def Polder.glDeadline (q : Polder) (f : Frame) : Nat :=
  if f.opinfo.getLsbD 8 then 256
  else 16 * ((f.tide.toNat + f.opinfo.toNat / 16 % 16 + 2 ^ 32 - q.wharf.tide % 2 ^ 32) % 2 ^ 32 % 16)

/-! ## Updates at the owner (R368 to R370, R374, R375, R377) -/

/-- |v|. -/
def f32mag (w : Word) : Word := w &&& 0x7FFFFFFF#32

/-- M of R370, for the formats it gives one. -/
def rescaleTop : Elem → Option Word
  | .e4m3 => some 0x43E00000#32
  | .e5m2 => some 0x47600000#32
  | .int8 => some 0x42FE0000#32
  | _ => none

/-- The scale of an updated row. With RESCALE in a format R370 gives no M for, the spec states no scale: a free value. -/
def Dom.glScale (d : Dom) (tb : GlTable) (old : Word) (vs : List Word) : Dom × Word :=
  let top := vs.foldl (fun m v => f32max m (f32mag v)) 0
  if !tb.scaled || !tb.rescale || decide (top = 0) then (d, old)
  else match rescaleTop tb.fmt with
    | some m => (d, f32div top m)
    | none => let x := d.q.free; ({ d with q := x.2 }, x.1.setWidth 32)

/-- Lanes requantised: the raw row and whether an element was saturated. -/
def GlTable.requant (tb : GlTable) (scale : Word) (vs : List Word) : List Byte × Bool :=
  let cs := vs.map (fun v => tb.fmt.convert true (f32num (if tb.scaled then f32div v scale else v)))
  (cs.flatMap (fun c => natLe tb.fmt.size c.val), cs.any (·.clamp))

/-- What an update of one row makes of its raw row and scale: none where a lane would not be finite. -/
def Dom.glCompute (d : Dom) (tb : GlTable) (func : Nat) (aux : Word) (row : List Byte) (scale : Word) (pay : List Byte) :
    Dom × Option (List Byte × Word) :=
  if func = 0x20 then
    let r := pay.take tb.rowBytes
    let s := word (fieldAt pay tb.rowBytes 4)
    (d, if (tb.lanes r s).all f32finite then some (r, s) else none)
  else
    let xs := (pieces 4 (pay.length + 1) pay).map (fun p => word (leNat p))
    let vs := ((tb.lanes row scale).zip xs).map (fun p => f32add p.1 (if func = 0x22 then f32mul aux p.2 else p.2))
    if !vs.all f32finite then (d, none)
    else
      let s := d.glScale tb scale vs
      let r := tb.requant s.2 vs
      if (tb.lanes r.1 s.2).all f32finite then (if r.2 then s.1.stick Off.glSticky 32 else s.1, some (r.1, s.2))
      else (s.1, none)

/-- How an entry of an update ends. -/
inductive Upd where
  | ok | full | memue
deriving DecidableEq, Repr

/-- The row's slot of this epoch, allocated with a copy of the published row where it has none. -/
def Dom.glSlot (d : Dom) (tb : GlTable) (g : Nat) : Dom × Except Upd Nat :=
  let l := tb.ell g
  let mine := d.q.gleaner.slots.filter (fun s => decide (s.table = tb.t))
  match mine.find? (fun s => !s.committing && decide (s.ell = l)) with
  | some s => (d, .ok s.slot)
  | none =>
    match (List.range tb.slots).find? (fun n => mine.all (fun s => decide (s.slot ≠ n))) with
    | none => (d.stick Off.glSticky 8, .error .full)
    | some n =>
      let x := d.glOwn tb g
      match x.2 with
      | none => (x.1, .error .memue)
      | some (row, scale) =>
        let y := x.1.glWrite (tb.slotAt n) (row ++ natLe 4 scale.toNat)
        if y.2 then
          (y.1.on (fun q => { q with gleaner := { q.gleaner with slots := ⟨tb.t, l, g, n, false⟩ :: q.gleaner.slots } }), .ok n)
        else (y.1, .error .memue)

/-- One entry applied at its owner. An update of a row of another shard leaves some value in the slot (R13, R355; log entry 122). -/
def Dom.glApply (d : Dom) (tb : GlTable) (func g : Nat) (aux : Word) (pay : List Byte) : Dom × Upd :=
  if tb.rows ≤ g then (d.stick Off.glSticky 1, .ok)
  else
    let s := d.glSlot tb g
    match s.2 with
    | .error e => (s.1, e)
    | .ok n =>
      if !tb.holds g then (s.1.on (·.scramble (tb.slotAt n) (tb.rowBytes + 4)), .ok)
      else
      let x := s.1.fetch (tb.slotAt n) (tb.rowBytes + 4)
      match x.2 with
      | none => (x.1, .memue)
      | some bs =>
        let c := x.1.glCompute tb func aux (bs.take tb.rowBytes) (word (fieldAt bs tb.rowBytes 4)) pay
        match c.2 with
        | none => ((c.1.bump (Off.glCount 6) 1).stick Off.glSticky 4, .ok)
        | some (row, scale) =>
          let y := c.1.glWrite (tb.slotAt n) (row ++ natLe 4 scale.toNat)
          if y.2 then (y.1.bump (Off.glCount 5) 1, .ok) else (y.1, .memue)

/-- Entries applied in order; the answer is the first outcome that is not ok. -/
def Dom.glApplyAll (d : Dom) (tb : GlTable) (func : Nat) : List (Nat × Word × List Byte) → Dom × Upd
  | [] => (d, .ok)
  | (g, aux, pay) :: es =>
    let x := d.glApply tb func g aux pay
    let y := x.1.glApplyAll tb func es
    (y.1, if x.2 = .ok then y.2 else x.2)

/-! ## GLEAN operations at issue (R358 to R360, R363, R383) -/

/-- Bytes of the payload of one entry of an update. -/
def GlTable.payBytes (tb : GlTable) (func : Nat) : Nat := if func = 0x20 then tb.rowBytes + 8 else 4 * tb.dim

/-- A list of `n` bytes that starts at an operand's first element, as an operand. -/
def Operand.packed (o : Operand) (n : Nat) : Operand :=
  { o with mode := .direct, field := (o.offset 0 0 0 0).toNat, sh := ⟨0, .int32, n / 4, 1, 1, 1, 0, 0, 0, 0⟩ }

/-- B's bytes: bag offsets, or the payloads of an update. -/
def GlTable.listBytes (tb : GlTable) (func : Nat) (dd : Option Operand) (n : Nat) : Nat :=
  match dd with
  | some x => 4 * (x.sh.e1 + 1)
  | none => n * tb.payBytes func

/-- Operands as the checks see them: A's entries and B's list. -/
def glChecks (tb : GlTable) (func : Nat) (g : Group) (o : WideOps) : List Checked :=
  let n := match o.a with
    | some a => a.sh.e0
    | none => 0
  checkedOf o.d true false g none ++ checkedOf (o.a.map (·.packed (8 * n))) false false g none ++
    checkedOf (o.b.map (·.packed (tb.listBytes func o.d n))) false false g none

/-- The sixth check: WIDESHAPE, then GLEANTABLE (R360, R384). -/
def glSixth (tb : GlTable) (func : Nat) (o : WideOps) : Option Nat :=
  let src (x : Operand) : Bool := x.allowed plainModes [.bin, .gran, .ctr, .com, .stk]
  let wantD := decide (func < 0x18)
  let wantB := decide (func ≠ 0x10 ∧ func ≠ 0x18)
  let aOk := match o.a with
    | some a => src a
    | none => false
  let bOk := match o.b with
    | some b => wantB && src b
    | none => !wantB
  let dOk := match o.d, o.a with
    | some x, some a =>
      wantD && x.allowed plainModes [.bin, .gran, .ctr, .stk] && !x.elem.isInt && decide (x.sh.e2 = 1 ∧ x.sh.e3 = 1) &&
        (decide (func ≠ 0x10) || decide (x.sh.e1 = a.sh.e0))
    | none, _ => !wantD
    | _, none => false
  if !(aOk && bOk && dOk) then some 9
  else if !tb.valid || (match o.d with
      | some x => decide (x.sh.e0 ≠ tb.dim)
      | none => false) || (decide (0x20 ≤ func) && decide (tb.publish = 0)) then some 0xB
  else none

/-- Bag `k`'s entry numbers; the answer is none for a bag that R374 treats as empty and reports. -/
def bagOf (bags : List Nat) (n k : Nat) : Option (List Nat) :=
  let lo := bags.getD k 0
  let hi := bags.getD (k + 1) 0
  if hi < lo ∨ n < lo ∨ n < hi then none else some ((List.range (hi - lo)).map (· + lo))

/-- A lookup's entries read: rows by entry, and the entries that remote owners have. `none` for a memory error. -/
def Dom.glRead (d : Dom) (tb : GlTable) (warm : Bool) :
    List (Nat × Nat) → Dom × Option (Store (List Byte × Word) × List (BitVec 18 × Nat))
  | [] => (d, some ([], []))
  | (i, g) :: es =>
    if tb.rows ≤ g then (d.stick Off.glSticky 1).glRead tb warm es
    else
      let who := (d.q.glOwnerAt tb g).2
      let remote := decide (who ≠ d.q.glSelf)
      let x := (d.bump (Off.glCount 0) 1).glLook tb g remote
      match x.2 with
      | some r =>
        let y := x.1.glRead tb warm es
        (y.1, y.2.map (fun z => (Store.insert z.1 i r, z.2)))
      | none =>
        if remote then
          let y := x.1.glRead tb warm es
          (y.1, y.2.map (fun z => (z.1, (who, i) :: z.2)))
        else
          let o := x.1.glOwn tb g
          match o.2 with
          | none => (o.1, none)
          | some r =>
            let y := (o.1.glFill tb ⟨tb.t, g, r.1, r.2, false⟩ warm).glRead tb warm es
            (y.1, y.2.map (fun z => (Store.insert z.1 i r, z.2)))

/-- Pairs grouped by owner, owners in order of first appearance. -/
def byOwner : List (BitVec 18 × Nat) → List (BitVec 18 × List Nat)
  | [] => []
  | (w, i) :: es =>
    let r := byOwner es
    match r.find? (fun x => decide (x.1 = w)) with
    | some x => (w, i :: x.2) :: r.filter (fun y => decide (y.1 ≠ w))
    | none => (w, [i]) :: r

/-- The requests of a lookup: one an owner, in frames of at most 252 row numbers. -/
def Dom.glAsk (d : Dom) (tb : GlTable) (func token info : Nat) (entries : List (Word × Word)) (groups : List (BitVec 18 × List Nat)) :
    Dom × List GlWait :=
  (groups.flatMap (fun x => (pieces 252 (x.2.length + 1) x.2).map (fun is => (x.1, is)))).foldl
    (fun (acc : Dom × List GlWait) x =>
      let dst : BitVec 12 := x.1.setWidth 12
      let seq := (acc.1.q.txOf dst (x.1.extractLsb' 12 6) 0).next
      (acc.1.glSend x.1 4 info token 0 0 (glTag tb func) (x.2.flatMap (fun i => natLe 4 (entries.getD i (0, 0)).1.toNat)),
        acc.2 ++ [⟨x.1, seq, x.2, []⟩])) (d, [])

/-- The update frames to one owner: as many entries as fit a frame, or one entry in pieces. -/
def Dom.glTell (d : Dom) (tb : GlTable) (func token info : Nat) (who : BitVec 18) (es : List (Nat × Word × List Byte)) : Dom :=
  let p := tb.payBytes func
  let bytes (g : List (Nat × Word × List Byte)) : List Byte :=
    g.flatMap (fun e => natLe 4 e.1 ++ natLe 4 e.2.1.toNat) ++ g.flatMap (fun e => e.2.2)
  (pieces (max 1 (1008 / (8 + p))) (es.length + 1) es).foldl (fun d g =>
    let ps := pieces 1008 (g.length * (8 + p) + 1) (bytes g)
    (ps.zip (List.range ps.length)).foldl (fun d x => d.glSend who 6 info token (1008 * x.2) 0 (glTag tb func) x.1) d) d

/-- An operation enters the Gleaner; its deadline tide is the waybill's. -/
def Dom.glInfo (d : Dom) (b : Ix4) : Nat :=
  deadlineInfo (match (d.berth b).run with
    | some r => r.wb.deadline
    | none => none) d.q.wharf.tide

def Dom.glAdd (d : Dom) (o : GlOp) : Dom := d.on (fun q => { q with gleaner := { q.gleaner with ops := q.gleaner.ops ++ [o] } })

/-- The operation with a token changed to `o`. -/
def Dom.glSetOp (d : Dom) (o : GlOp) : Dom :=
  d.on (fun q => { q with gleaner := { q.gleaner with ops := q.gleaner.ops.map (fun y => if y.token = o.token then o else y) } })

/-- Row numbers and the words beside them of an entry list (R359). -/
def glEntries (bs : List Byte) : List (Word × Word) :=
  (pieces 8 (bs.length + 1) bs).map (fun p => (word (fieldAt p 0 4), word (fieldAt p 4 4)))

/-- Entries with their numbers. -/
def numbered {α : Type} (l : List α) : List (Nat × α) := (List.range l.length).zip l

/-- A lookup starts: rows are read, requests go out. -/
def Dom.glLookup (d : Dom) (tb : GlTable) (o : GlOp) : Dom :=
  let x := d.glRead tb (decide (o.func = 0x18)) ((numbered o.entries).map (fun e => (e.1, e.2.1.toNat)))
  match x.2 with
  | none => x.1.memue o.berth
  | some (rows, far) =>
    let bad := decide (o.func < 0x10) &&
      (List.range (o.bags.length - 1)).any (fun k => (bagOf o.bags o.entries.length k).isNone)
    let d1 := if bad then x.1.stick Off.glSticky 1 else x.1
    let y := d1.glAsk tb o.func o.token (d1.glInfo o.berth) o.entries (byOwner far)
    y.1.glSetOp { o with started := true, rows := rows, waits := y.2, epoch := tb.epoch d.q.wharf.tide }

/-- An update starts: local entries are applied, the others sent to their owners. -/
def Dom.glUpdate (d : Dom) (tb : GlTable) (o : GlOp) : Dom :=
  let ps := pieces (tb.payBytes o.func) (o.entries.length + 1) o.pay
  let all := (o.entries.zip ps).map (fun e => (e.1.1.toNat, e.1.2, e.2))
  let here (e : Nat × Word × List Byte) : Bool := decide (tb.rows ≤ e.1) || decide ((d.q.glOwnerAt tb e.1).2 = d.q.glSelf)
  let far := all.filter (fun e => !here e)
  let x := d.glApplyAll tb o.func (all.filter here)
  match x.2 with
  | .memue => x.1.memue o.berth
  | .full => if (x.1.berth o.berth).running.isSome then x.1.trap o.berth 0xD else x.1
  | .ok =>
    let groups := byOwner ((numbered far).map (fun e => ((x.1.q.glOwnerAt tb e.2.1).2, e.1)))
    let y := groups.foldl (fun d gr =>
      d.glTell tb o.func o.token (x.1.glInfo o.berth) gr.1 (gr.2.filterMap (fun i => far[i]?))) x.1
    y.glSetOp { o with started := true, epoch := tb.epoch d.q.wharf.tide }

/-- An operation leaves its queue and starts. -/
def Dom.glStart (d : Dom) (o : GlOp) : Dom :=
  let tb := d.q.glTable o.table
  let d1 := d.on (fun q => { q with gleaner := { q.gleaner with rr := (o.berth.toNat + 2) % 5 } })
  if o.func < 0x20 then d1.glLookup tb o else d1.glUpdate tb o

/-- A remote request or update that waits to be served (R364). -/
def Polder.glRemote (q : Polder) : Bool :=
  [Side.r, .c].any (fun sd => (q.sluices.get sd).inbox.any (fun h =>
    q.glFrame h.frame && decide (frameOp h.frame = 4 ∨ frameOp h.frame = 6)))

/-- The operation that starts next: that of the first queue from the one whose turn it is, none where that is the remote one's, whose
request its own command takes (R364). -/
def Polder.glNext (q : Polder) : Option GlOp :=
  let mine (i : Nat) : Option GlOp := q.gleaner.ops.find? (fun o => !o.started && decide (o.berth.toNat + 1 = i))
  match ((List.range 5).map (fun k => (q.gleaner.rr + k) % 5)).find? (fun i =>
      if i = 0 then q.glRemote else (mine i).isSome) with
  | some i => mine i
  | none => none

/-- Operations of the local queues start until a remote request is due, which waits for its command. `fuel` bounds them. -/
def Dom.glPump (d : Dom) : (fuel : Nat) → Dom
  | 0 => d
  | n + 1 =>
    match d.q.glNext with
    | some o => (d.glStart o).glPump n
    | none => d

/-- As many operations as the four queues of 16 hold. -/
def glQueues : Nat := 64

/-- A violation discards the operations of the berth that have not started (R78), and the one that met it. -/
def Polder.dropGl (q : Polder) (b : Ix4) (token : Nat) : Polder :=
  { q with gleaner := { q.gleaner with
    ops := q.gleaner.ops.filter (fun o => decide (o.berth ≠ b) || (o.started && decide (o.token ≠ token))) } }

/-- A shard-map entry that names neither this polder nor a roster member: its address (R383). -/
def Polder.glStranger (q : Polder) (tb : GlTable) (entries : List (Word × Word)) : Option Nat :=
  entries.findSome? (fun e =>
    let o := q.glOwnerAt tb e.1.toNat
    if e.1.toNat < tb.rows ∧ o.2 ≠ q.glSelf ∧ !q.lock.roster.contains o.2 then some o.1 else none)

/-- The shard-map entries of an entry list read (R348, R349); the answer says whether one is uncorrectable. -/
def Dom.glMapRead (d : Dom) (tb : GlTable) (entries : List (Word × Word)) : Dom × Bool :=
  entries.foldl (fun acc e =>
    if tb.rows ≤ e.1.toNat then acc
    else
      let x := acc.1.eccRead .counter (acc.1.q.glOwnerAt tb e.1.toNat).1 4
      (x.1, acc.2 || x.2)) (d, false)

/-- A GLEAN operation past its checks enters its queue. A descriptor that breaks the rules of R354 or R384 leaves an undefined result
(R15). -/
def Dom.glQueue (d : Dom) (b : Ix4) (w : WideBody) (tb : GlTable) (func : Nat) (g : Group) (o : WideOps) : Dom :=
  match o.a with
  | none => d
  | some a =>
    if !tb.good then d.havoc b
    else
      let drop (d : Dom) : Dom := d.on (·.dropGl b d.q.lock.tokens)
      let x := d.engReads b .gleaner ((a.packed (8 * a.sh.e0)).runs d.q g)
      let y := match o.b with
        | some l => x.1.engReads b .gleaner ((l.packed (tb.listBytes func o.d a.sh.e0)).runs d.q g)
        | none => (x.1, .ok, [])
      if x.2.1 = .error ∨ (x.2.1 = .ok ∧ y.2.1 = .error) then y.1.memue b
      else if x.2.1 = .breach then drop x.1
      else if y.2.1 = .breach then drop y.1
      else
        let entries := glEntries x.2.2
        let m := y.1.glMapRead tb entries
        if m.2 then m.1.memue b
        else match m.1.q.glStranger tb entries with
        | some at_ => drop (m.1.berthViolation b 1 7 at_ false 0)
        | none =>
          let dst := match o.d with
            | some r => r.runs m.1.q g
            | none => []
          let d1 := m.1.pendingDest b dst
          let t := d1.q.token
          (({ d1 with q := t.2 } : Dom).glAdd {
            berth := b, started := false, func := func, table := tb.t, entries := entries
            bags := if func < 0x10 then (pieces 4 (y.2.2.length + 1) y.2.2).map leNat else []
            pay := if func < 0x20 then [] else y.2.2, dst := dst
            dElem := (match o.d with
              | some r => r.elem
              | none => .fp32)
            rows := [], waits := [], epoch := 0, fail := none, span := false, token := t.1
            tally := w.tally.extractLsb' 4 4, inc := w.tally.extractLsb' 0 4 }).glPump glQueues

def Dom.glean (d : Dom) (b : Ix4) (w : WideBody) (func : Nat) : Dom :=
  let g := (d.berth b).ownGroup
  let tb := d.q.glTable (w.msel.toNat % 64)
  d.complete b w .gleaner (glChecks tb func g) (fun _ o => glSixth tb func o) (fun d o => d.glQueue b w tb func g o)

/-! ## Pooling and the report (R361, R362, R368, R374, R379) -/

/-- The lanes of a bag's rows pooled; each row with its weight. -/
def glPool (func dim : Nat) (rows : List (Word × List Word)) : List Word :=
  (List.range dim).map (fun j =>
    let vs := rows.map (fun r => (r.1, r.2.getD j 0))
    match vs with
    | [] => 0
    | v :: rest =>
      if func = 2 then rest.foldl (fun acc x => f32max acc x.2) v.2
      else if func = 3 then vs.foldl (fun acc x => f32add acc (f32mul x.1 x.2)) 0
      else
        let sum := vs.foldl (fun acc x => f32add acc x.2) 0
        if func = 1 then f32div sum (f32ofInt (word vs.length)) else sum)

/-- What a lookup writes to D. -/
def GlOp.result (o : GlOp) (tb : GlTable) : List Byte :=
  let row (i : Nat) : Option (Word × List Word) :=
    (Store.find o.rows i).map (fun r => ((o.entries.getD i (0, 0)).2, tb.lanes r.1 r.2))
  let out (l : List Word) : List Byte := l.flatMap (fun v => natLe o.dElem.size (o.dElem.convert true (f32num v)).val)
  if o.func = 0x18 then []
  else if o.func = 0x10 then
    (List.range o.entries.length).flatMap (fun i => out (match row i with
      | some r => r.2
      | none => List.replicate tb.dim 0))
  else
    (List.range (o.bags.length - 1)).flatMap (fun k =>
      out (glPool o.func tb.dim (((bagOf o.bags o.entries.length k).getD []).filterMap row)))

/-- Whether nothing of an operation is outstanding. -/
def Polder.glEnded (q : Polder) (o : GlOp) : Bool :=
  o.started && o.waits.isEmpty && (decide (o.func < 0x20) || q.lock.tx.all (fun t => t.frames.all (fun f => decide (f.token ≠ o.token))))

/-- GLEAN_REPORT: the `n`-th operation of the berth in the Gleaner fails, or pools, writes and reports. -/
def Dom.gleanReport (d : Dom) (b : Ix4) (n dmc : Nat) : Dom :=
  match takeNth (fun o => decide (o.berth = b)) n d.q.gleaner.ops with
  | none => d
  | some (o, rest) =>
    let d1 := d.on (fun q => { q with gleaner := { q.gleaner with ops := rest } })
    match o.fail with
    | some c => if (d1.berth b).running.isSome then d1.trap b c else d1
    | none =>
      if !d.q.glEnded o then d.glPump glQueues
      else
        let x := d1.engWrites b .gleaner o.dst (o.result (d.q.glTable o.table))
        match x.2 with
        | .ok => (if o.span then (x.1.stick Off.glSticky 2).bump (Off.glCount 7) 1 else x.1).report b o.tally o.inc dmc
        | .error => x.1.memue b
        | .breach => x.1.on (·.dropGl b o.token)

/-! ## Remote requests, answers and updates (R363, R364, R368, R478) -/

/-- Rows of this polder read for a request. -/
def Dom.glServe (d : Dom) (tb : GlTable) : List Nat → Dom × Option (List Byte)
  | [] => (d, some [])
  | g :: gs =>
    let x := if tb.rows ≤ g then (d.stick Off.glSticky 1, some (zeros tb.rowBytes, 0)) else d.glOwn tb g
    match x.2 with
    | none => (x.1, none)
    | some r =>
      let y := x.1.glServe tb gs
      (y.1, y.2.map (fun bs => r.1 ++ natLe 4 r.2.toNat ++ bs))

/-- The turn passes from the remote queue to the local ones (R364). -/
def Dom.glTurn (d : Dom) : Dom := (d.on (fun q => { q with gleaner := { q.gleaner with rr := 1 } })).glPump glQueues

/-- A remote request served in frames of at most 1008 bytes of rows. -/
def Dom.glAnswer (d : Dom) (sd : Side) : Dom :=
  let x := d.glTake sd 4
  match x.2 with
  | none => x.1
  | some h =>
    let f := h.frame
    let tb := x.1.q.glTable ((segTag f).toNat % 64)
    let gs := (pieces 4 (f.payload.length + 1) (segData f)).map leNat
    if !tb.valid || !tb.good then x.1.on (·.rxRefuse f 2 h.sf)
    else
      let y := x.1.glServe tb gs
      match y.2 with
      | none => y.1.on (·.rxRefuse f 1 h.sf)
      | some bs =>
        let d1 := (y.1.bump (Off.glCount 4) gs.length).on (·.rxFrameDone f true h.sf)
        let ps := pieces 1008 (bs.length + 1) bs
        (ps.zip (List.range ps.length)).foldl (fun d p =>
          let t := d.q.token
          ({ d with q := t.2 } : Dom).glSend (f.sgrid ++ f.src) 5 (d.q.glDeadline f) t.1 (1008 * p.2) f.seq (segTag f) p.1) d1

/-- GLREQ. -/
def Dom.glreq (d : Dom) (sd : Side) : Dom := (d.glAnswer sd).glTurn

/-- The rows of an answer that is whole, by entry. -/
def GlWait.rows (x : GlWait) (tb : GlTable) : List (Nat × List Byte × Word) :=
  let bs := x.got.flatMap (·.2)
  x.ents.zip ((pieces (tb.rowBytes + 4) (x.ents.length + 1) bs).map (fun p => (p.take tb.rowBytes, word (fieldAt p tb.rowBytes 4))))

/-- The tide in which the rows of a GLROW frame were read (R372, R379): that of its launch less the tides that OPINFO[22:16] gives (log entry
25). -/
def servedIn (t : Nat) (f : Frame) : Nat := tideNear t f.tide - f.opinfo.toNat / 2 ^ 16 % 128

/-- GLROW: a piece of an answer reaches the operation that asked; whole answers give their rows, and the cache is offered them. Rows that a
boundary has superseded stay out of the cache, and WARM asks for them again (R367, R373). -/
def Dom.glrow (d : Dom) (sd : Side) : Dom :=
  let x := d.glTake sd 5
  match x.2 with
  | none => x.1
  | some h =>
    let f := h.frame
    let d1 := x.1.on (·.rxFrameDone f true h.sf)
    let who : BitVec 18 := f.sgrid ++ f.src
    let mine (a : GlWait) : Bool := decide (a.owner = who) && decide (a.seq = segRnote f)
    match d1.q.gleaner.ops.find? (fun o => o.waits.any mine) with
    | none => d1
    | some o =>
      let tb := d1.q.glTable o.table
      let got := o.waits.map (fun a => if mine a then { a with got := Store.insert a.got (segRaddr f) (segData f) } else a)
      let whole (a : GlWait) : Bool := decide ((a.got.map (fun p => p.2.length)).sum = a.ents.length * (tb.rowBytes + 4))
      let new := ((got.filter (fun a => mine a && whole a)).flatMap (fun a => a.rows tb))
      let ep := tb.epoch (servedIn d1.q.wharf.tide f)
      let old := decide (ep ≠ tb.epoch d1.q.wharf.tide)
      let again := if old && decide (o.func = 0x18) then new.map (fun r => (who, r.1)) else []
      let y := d1.glAsk tb o.func o.token (d1.glInfo o.berth) o.entries (byOwner again)
      let d2 := y.1.glSetOp { o with
        waits := got.filter (fun a => !(mine a && whole a)) ++ y.2
        rows := new.foldl (fun m r => Store.insert m r.1 r.2) o.rows
        epoch := if o.rows.isEmpty then ep else o.epoch
        span := o.span || (!o.rows.isEmpty && !new.isEmpty && decide (ep ≠ o.epoch)) }
      if old then d2
      else new.foldl (fun d r =>
        d.glFill tb ⟨tb.t, (o.entries.getD r.1 (0, 0)).1.toNat, r.2.1, r.2.2, true⟩ (decide (o.func = 0x18))) d2

/-- An update message taken: its entries are applied, and its frames acknowledged, or refused with the reason. -/
def Dom.glTakeUpdate (d : Dom) (tb : GlTable) (fs : List Heard) (bytes : List Byte) (func : Nat) : Dom :=
  let refuse (why : Nat) (d : Dom) : Dom := fs.foldl (fun d h => d.on (·.rxRefuse h.frame why h.sf)) d
  if !tb.valid || !tb.good || decide (tb.publish = 0) then refuse 2 d
  else
    let p := tb.payBytes func
    let k := bytes.length / (8 + p)
    let es := glEntries (bytes.take (8 * k))
    let ps := pieces p (k + 1) (bytes.drop (8 * k))
    let x := d.glApplyAll tb func ((es.zip ps).map (fun e => (e.1.1.toNat, e.1.2, e.2)))
    match x.2 with
    | .ok => fs.foldl (fun d h => d.on (·.rxFrameDone h.frame true h.sf)) x.1
    | .full => refuse 0 x.1
    | .memue => refuse 1 x.1

/-- A remote update. A piece waits until its message is whole. -/
def Dom.glTakeUpd (d : Dom) (sd : Side) : Dom :=
  let x := d.glTake sd 6
  match x.2 with
  | none => x.1
  | some h =>
    let f := h.frame
    let func := (segTag f).toNat / 256 % 256
    let tb := x.1.q.glTable ((segTag f).toNat % 64)
    let size := 8 + tb.payBytes func
    if segRaddr f = 0 ∧ (segData f).length % size = 0 then x.1.glTakeUpdate tb [h] (segData f) func
    else
      let first (g : Frame) : Word := g.seq - word (segRaddr g / 1008)
      let same (g : Heard) : Bool :=
        decide (g.frame.src = f.src) && decide (g.frame.sgrid = f.sgrid) && decide (first g.frame = first f)
      let live := x.1.q.gleaner.parts.filter (fun a => !staleAt a.2.frame.tide a.2.frame.opinfo x.1.q.wharf.tide &&
        !(same a.2 && decide (a.2.frame.seq = f.seq)))
      let parts := live ++ [(sd, h)]
      let msg := (parts.filter (fun a => same a.2)).map (·.2)
      let sorted := msg.foldr (insertBy (fun a b => decide (segRaddr a.frame ≤ segRaddr b.frame))) []
      let bytes := sorted.flatMap (fun a => segData a.frame)
      let keep (ps : List (Side × Heard)) : Dom := x.1.on (fun q => { q with gleaner := { q.gleaner with parts := ps } })
      if bytes.length = size then (keep (parts.filter (fun a => !same a.2))).glTakeUpdate tb sorted bytes func
      else keep parts

/-- GLUPD. -/
def Dom.glupd (d : Dom) (sd : Side) : Dom := (d.glTakeUpd sd).glTurn

/-! ## Publication (R371, R373) -/

/-- The Gleaner at the boundary from tide `old` into tide `t`: the tables whose epoch number changes publish. -/
def Polder.glPublish (q : Polder) (old t : Nat) : Polder :=
  let pub (n : Nat) : Bool := let tb := q.glTable n; tb.valid && decide (0 < tb.publish) && decide (tb.epoch old ≠ tb.epoch t)
  let slots := q.gleaner.slots.map (fun s => if pub s.table then { s with committing := true } else s)
  let fresh (c : CacheRow) : Bool := pub c.table && (c.remote || slots.any (fun s => decide (s.table = c.table) && decide (s.g = c.g)))
  { q with gleaner := { q.gleaner with slots := slots, cache := q.gleaner.cache.filter (fun c => !fresh c) } }

/-- COMMITTING_DONE: every published slot is copied back to its row and freed. -/
def Dom.committingDone (d : Dom) : Dom :=
    let old := d.q.gleaner.slots.filter (·.committing)
    let d1 := old.reverse.foldl (fun d s =>
      let tb := d.q.glTable s.table
      let x := d.fetch (tb.slotAt s.slot) (tb.rowBytes + 4)
      match x.2 with
      | none => x.1
      | some bs =>
        let y := (x.1.glWrite (tb.rowAt s.ell) (bs.take tb.rowBytes)).1
        if tb.scaled then (y.glWrite (tb.sbase + 4 * s.ell) (bs.drop tb.rowBytes)).1 else y) d
    d1.on (fun q => { q with gleaner := { q.gleaner with slots := q.gleaner.slots.filter (fun s => !s.committing) } })

def execGleanSum (p b : Ix4) (w : WideBody) (s : State) : Host.Outcome State Fault Refusal := .next (s.wide p b (·.glean b w 0))

def execGleanMean (p b : Ix4) (w : WideBody) (s : State) : Host.Outcome State Fault Refusal := .next (s.wide p b (·.glean b w 1))

def execGleanMax (p b : Ix4) (w : WideBody) (s : State) : Host.Outcome State Fault Refusal := .next (s.wide p b (·.glean b w 2))

def execWsum (p b : Ix4) (w : WideBody) (s : State) : Host.Outcome State Fault Refusal := .next (s.wide p b (·.glean b w 3))

def execGather (p b : Ix4) (w : WideBody) (s : State) : Host.Outcome State Fault Refusal := .next (s.wide p b (·.glean b w 0x10))

def execWarm (p b : Ix4) (w : WideBody) (s : State) : Host.Outcome State Fault Refusal := .next (s.wide p b (·.glean b w 0x18))

def execAssign (p b : Ix4) (w : WideBody) (s : State) : Host.Outcome State Fault Refusal := .next (s.wide p b (·.glean b w 0x20))

def execGleanAdd (p b : Ix4) (w : WideBody) (s : State) : Host.Outcome State Fault Refusal := .next (s.wide p b (·.glean b w 0x21))

def execAxpy (p b : Ix4) (w : WideBody) (s : State) : Host.Outcome State Fault Refusal := .next (s.wide p b (·.glean b w 0x22))

def execGleanReport (p b : Ix4) (n dmc : Nat) (s : State) : Host.Outcome State Fault Refusal :=
  .next (s.actOn p (·.gleanReport b n dmc))

def execCommittingDone (p : Ix4) (s : State) : Host.Outcome State Fault Refusal := .next (s.actOn p (·.committingDone))

def execGlreq (p : Ix4) (sd : Side) (s : State) : Host.Outcome State Fault Refusal := .next (s.actOn p (·.glreq sd))

def execGlrow (p : Ix4) (sd : Side) (s : State) : Host.Outcome State Fault Refusal := .next (s.actOn p (·.glrow sd))

def execGlupd (p : Ix4) (sd : Side) (s : State) : Host.Outcome State Fault Refusal := .next (s.actOn p (·.glupd sd))

end Sys2Proof.Machine
end

