-- ==== Sys2Proof/Machine/Ledger.lean ====
section
/-!
DEFINITION. Machine/Ledger.lean: sequences, pages, APPEND, ATTEND, BACKWARD, OPEN, CLOSE and FETCH, page waits, swap-out and swap-in
(13_ledger.md, R385 to R416). The control block is read at issue; an operation starts when none before it on its sequence is unreported,
and its results are written at its report.
-/
namespace Sys2Proof.Machine

/-! ## Geometry (R385, R387, R388, R390) -/

structure LgGeom where
  nl : Nat
  nh : Nat
  nkv : Nat
  kv : Option Elem
  hd : Nat
  plog : Nat
  maxp : Nat
  scale : Word
  pool : Nat
  pages : Nat
  seqs : Nat
  seqBase : Nat
  ptBase : Nat
  swapBase : Nat
  stride : Nat
  train : Bool
deriving DecidableEq, Repr

def Polder.lgGeom (q : Polder) : LgGeom :=
  let r (o : Nat) := q.stored (Off.ledger + o)
  let r2 (o : Nat) := q.stored64 (Off.ledger + o)
  { nl := bitsOf (r 8) 6 0, nh := bitsOf (r 8) 14 8, nkv := bitsOf (r 8) 22 16
    kv := if bitsOf (r 8) 26 24 < 4 then Elem.ofCode (bitsOf (r 8) 26 24) else none
    hd := bitsOf (r 0xC) 8 0, plog := bitsOf (r 0x10) 3 0, maxp := bitsOf (r 0x10) 23 8, scale := word (r 0x14)
    pool := r2 0x18, pages := r 0x20, seqs := r 0x24, seqBase := r2 0x28, ptBase := r2 0x30, swapBase := r2 0x38, stride := r2 0x40
    train := bitOf (r 4) 0 }

/-- Whether the registers hold a geometry of R385. -/
def LgGeom.good (g : LgGeom) : Bool :=
  g.kv.isSome && decide (1 ≤ g.nl ∧ 1 ≤ g.nkv ∧ 1 ≤ g.nh ∧ g.nh % g.nkv = 0 ∧ g.hd % 16 = 0 ∧ 16 ≤ g.hd ∧ g.hd ≤ 256 ∧ 4 ≤ g.plog ∧
    g.plog ≤ 10 ∧ 1 ≤ g.maxp)

def LgGeom.elem (g : LgGeom) : Elem := g.kv.getD .bf16

/-- PAGE_TOKENS. -/
def LgGeom.tokens (g : LgGeom) : Nat := 2 ^ g.plog

/-- Bytes of the keys of one token. -/
def LgGeom.kvBytes (g : LgGeom) : Nat := g.nkv * g.hd * g.elem.size

/-- PAGE_BYTES. -/
def LgGeom.pageBytes (g : LgGeom) : Nat := 2 * g.tokens * g.kvBytes

def LgGeom.pageAt (g : LgGeom) (n : Nat) : Nat := g.pool + (n - 1) * g.pageBytes

/-- Entries of a page table. -/
def LgGeom.entries (g : LgGeom) : Nat := g.nl * g.maxp

/-- Address of entry `i` of the page table of a sequence. -/
def LgGeom.entryAt (g : LgGeom) (sq i : Nat) : Nat := g.ptBase + 4 * (g.entries * sq + i)

/-- Address of page `i` of the host slot of a sequence (R402). -/
def LgGeom.hostAt (g : LgGeom) (sq i : Nat) : Nat := g.swapBase + sq * g.stride + i * g.pageBytes

/-- A descriptor (R388): STATE 0 FREE, 1 RESIDENT, 2 SWAPPING_OUT, 3 SWAPPED, 4 SWAPPING_IN. -/
structure LgSeq where
  state : Nat
  prio : Nat
  flags : Nat
  len : Nat
  window : Nat
  pages : Nat
  tide : Nat
deriving DecidableEq, Repr

def LgSeq.parse (bs : List Byte) : LgSeq :=
  ⟨fieldAt bs 0 1, fieldAt bs 1 1 % 16, fieldAt bs 2 1, fieldAt bs 4 4, fieldAt bs 8 4, fieldAt bs 0xC 4, fieldAt bs 0x10 8⟩

def LgSeq.bytes (x : LgSeq) : List Byte :=
  natLe 1 x.state ++ natLe 1 x.prio ++ natLe 1 x.flags ++ [0] ++ natLe 4 x.len ++ natLe 4 x.window ++ natLe 4 x.pages
    ++ natLe 8 x.tide ++ zeros 8

def LgSeq.windowed (x : LgSeq) : Bool := bitOf x.flags 0

/-- RING (R390). -/
def LgGeom.ring (g : LgGeom) (w : Nat) : Nat := w / g.tokens + 2

/-- The slot of a token position (R390). -/
def LgGeom.slot (g : LgGeom) (x : LgSeq) (t : Nat) : Nat :=
  if x.windowed then t / g.tokens % g.ring x.window else t / g.tokens

/-- A descriptor as memory holds it. -/
def Polder.lgSeq (q : Polder) (sq : Nat) : LgSeq := LgSeq.parse (q.readMem (q.lgGeom.seqBase + 32 * sq) 32)

/-- A write of the Ledger's own, to its descriptors and page tables (R388, R416); the answer says whether it was written. -/
def Dom.lgWrite (d : Dom) (a : Nat) (bs : List Byte) : Dom × Bool :=
  match d.q.populated a bs.length true with
  | some .granary | some .counter | some .hbm =>
    let r := (d.q.region a).getD .hbm
    if d.q.inSluicePool a bs.length then (d, false)
    else
      let x := (d.sectors r a bs.length true).eccWrite r a bs.length
      if x.2 then (x.1, false) else (x.1.on (·.putBytes none a bs), true)
  | _ => (d, false)

/-- Such writes in order; the answer says whether all were written. -/
def Dom.lgWriteAll (d : Dom) (ws : List (Nat × List Byte)) : Dom × Bool :=
  ws.foldl (fun acc w => let x := acc.1.lgWrite w.1 w.2; (x.1, acc.2 && x.2)) (d, true)

/-- A descriptor as a write. -/
def LgGeom.seqPut (g : LgGeom) (sq : Nat) (x : LgSeq) : Nat × List Byte := (g.seqBase + 32 * sq, x.bytes)

def Dom.lgPut (d : Dom) (sq : Nat) (x : LgSeq) : Dom × Bool := d.lgWriteAll [d.q.lgGeom.seqPut sq x]

/-- Entry `i` of a page table (R389). -/
def Polder.lgEntry (q : Polder) (sq i : Nat) : Nat := q.mem.readNat (q.lgGeom.entryAt sq i) 4

/-- An entry as a write. -/
def LgGeom.entryPut (g : LgGeom) (sq i v : Nat) : Nat × List Byte := (g.entryAt sq i, natLe 4 v)

/-- Entries of a page table read (R416); the answer says whether one is uncorrectable. -/
def Dom.lgTable (d : Dom) (sq : Nat) (is : List Nat) : Dom × Bool :=
  is.foldl (fun acc i => let x := acc.1.fetch (acc.1.q.lgGeom.entryAt sq i) 4; (x.1, acc.2 || x.2.isNone)) (d, false)

/-- Whether an entry holds a pool page, or a page of the host slot. -/
def inPool (e : Nat) : Bool := !bitOf e 31 && decide (e % 2 ^ 24 ≠ 0)

def inHost (e : Nat) : Bool := bitOf e 31

/-- Page-table indices of a sequence whose entries meet a test, ascending. -/
def Polder.lgWhere (q : Polder) (sq : Nat) (t : Nat → Bool) : List Nat :=
  (List.range q.lgGeom.entries).filter (fun i => t (q.lgEntry sq i))

/-! ## The free list (R386, R400) -/

def Dom.onLedger (d : Dom) (f : Ledger → Ledger) : Dom := d.on (fun q => { q with ledger := f q.ledger })

/-- The `n` lowest-numbered free pages. -/
def Polder.lgFree (q : Polder) (n : Nat) : List Nat :=
  (((List.range (q.ledger.used.length + n)).map (· + 1)).filter (fun p => !q.ledger.used.contains p)).take n

/-- Pages allocated (R400), each an event 0x0E (R549). -/
def Dom.lgTake (d : Dom) (ps : List Nat) : Dom := (d.onLedger (fun l => { l with used := ps ++ l.used })).event 0xE ps.length none

def Dom.lgGive (d : Dom) (ps : List Nat) : Dom := d.onLedger (fun l => { l with used := l.used.filter (fun p => !ps.contains p) })

/-! ## Operations in the list -/

def Polder.lgOp (q : Polder) (i : Nat) : Option LgOp := q.ledger.ops[i]?

def Dom.lgSet (d : Dom) (i : Nat) (f : LgOp → LgOp) : Dom :=
  d.onLedger (fun l => { l with ops := match l.ops[i]? with
    | some o => l.ops.set i (f o)
    | none => l.ops })

def Dom.lgRemove (d : Dom) (i : Nat) : Dom := d.onLedger (fun l => { l with ops := l.ops.eraseIdx i })

/-- The operation at place `i` fails and ends its waybill, where that still runs: an impounded one has its record already (R81). -/
def Dom.lgFail (d : Dom) (i : Nat) (o : LgOp) (s : Status) (detail : Nat) : Dom :=
  if (d.berth o.berth).running.isSome then d.cancelRun o.berth s detail
  else (d.blurRuns o.spill).lgRemove i

/-- A failed check at the start (R413). -/
def Dom.lgTrap (d : Dom) (i : Nat) (o : LgOp) (cause : Nat) : Dom :=
  (d.onLedger (fun l => { l with trap := word (cause + 2 ^ 16 * (o.ctl.seq % 4096)) })).lgFail i o .trapped 0xE

/-- A memory error that the operation at place `i` meets (R416). -/
def Dom.lgMemue (d : Dom) (i : Nat) (o : LgOp) : Dom := d.lgFail i o .trapped 0xA

/-- The operations of a berth that have not started are discarded (R78, R410). -/
def Dom.lgDrop (d : Dom) (b : Ix4) : Dom :=
  let gone (o : LgOp) : Bool := decide (o.berth = b) && decide (o.wait ≠ .running)
  (d.blurRuns ((d.q.ledger.ops.filter gone).flatMap (·.spill))).onLedger (fun l => { l with
    ops := l.ops.filter (fun o => !gone o) })

/-- A violation by the Ledger for a berth (R78): the operation and those of the berth not yet started are discarded. -/
def Dom.lgBreach (d : Dom) (o : LgOp) (cause a : Nat) (write : Bool) : Dom :=
  (d.lgDrop o.berth).berthViolation o.berth 2 cause a write 0

/-- Pages for an operation: all at once, in arrival order, or it waits (R400). `k` goes on with the pages. -/
def Dom.lgAlloc (d : Dom) (i n : Nat) (k : Dom → List Nat → Dom) : Dom :=
  if n = 0 then k d []
  else if (d.q.ledger.ops.take i).any (·.isWaiter) || decide (d.q.freePages < n) then
    (d.lgSet i (fun o => { o with wait := .pages n })).stick Off.lgSticky 1
  else
    let ps := d.q.lgFree n
    k (d.lgTake ps) ps

/-! ## Starting an operation (R394, R395, R413) -/

/-- Sub-causes 0x03 to 0x08 of R413. -/
def lgCause (g : LgGeom) (x : LgSeq) (o : LgOp) : Option Nat :=
  let c := o.ctl
  let half (e : Elem) : Bool := decide (e = .bf16) || decide (e = .fp16)
  let outF (e : Elem) : Bool := half e || decide (e = .fp32)
  let att := decide (o.func = 1) || decide (o.func = 2)
  let rows := c.n * g.nh
  if o.func = 0 ∧ (c.pos ≠ x.len ∨ (x.windowed = true ∧ g.tokens < c.n) ∨
      (x.windowed = false ∧ g.maxp * g.tokens < c.pos + c.n)) then some 3
  else if att ∧ x.len < c.pos + c.n then some 4
  else if ((decide (o.func = 1) && bitOf c.cflags.toNat 0) || decide (o.func = 2)) && !g.train then some 5
  else if o.func = 0x10 ∧ bitOf c.cflags.toNat 3 = true ∧
      (c.window = 0 ∨ c.window % g.tokens ≠ 0 ∨ g.maxp < g.ring c.window) then some 6
  else if (decide (o.func = 0) && decide (o.aElem ≠ g.elem)) || (att && !(half o.aElem && outF o.dElem)) ||
      (decide (o.func = 2) && !(match Elem.ofCode c.ofmt with
        | some e => outF e
        | none => false)) then some 7
  else if (decide (o.func ≤ 2) && !decide (1 ≤ c.n ∧ c.n ≤ 65536)) ||
      (decide (o.func = 0) && decide (o.a.length ≠ c.n * 2 * g.kvBytes)) ||
      (att && !decide (o.aShape = (g.hd, rows) ∧ o.dShape = (g.hd, rows))) then some 8
  else none

/-- Format of O and dO. -/
def LgOp.ofmt (o : LgOp) : Elem := (Elem.ofCode o.ctl.ofmt).getD .fp32

/-- Positions of the keys that query `i` of an operation sees: from the first, and how many (R396). -/
def lgVisible (c : LgCtl) (x : LgSeq) (i : Nat) : Nat × Nat :=
  let p := c.pos + i
  let hi := if bitOf c.cflags.toNat 1 then c.pos + c.n else p + 1
  let lo := max c.keyFrom (if x.windowed then p + 1 - x.window else 0)
  (lo, hi - lo)

/-- All positions an operation reads: from the first, and how many. -/
def lgSpan (c : LgCtl) (x : LgSeq) : Nat × Nat :=
  let lo := (lgVisible c x 0).1
  (lo, c.pos + c.n - lo)

/-- The gradient rows of the keys that an operation sees (R399), none where it sees none. -/
def lgGradRuns (g : LgGeom) (x : LgSeq) (c : LgCtl) : List (Nat × Nat) :=
  let sp := lgSpan c x
  let row := 8 * g.nkv * g.hd
  if sp.2 = 0 then [] else [(c.grad + (sp.1 - c.keyFrom) * row, sp.2 * row)]

/-- The statistics of an operation (R398, R399). -/
def lgStats (g : LgGeom) (c : LgCtl) : Nat × Nat := (c.stats, 8 * (c.n * g.nh))

/-- Addresses of the control block that an operation uses, with their lengths, and whether it writes there (R392). -/
def lgRanges (g : LgGeom) (x : LgSeq) (o : LgOp) : List (Nat × Nat × Bool) :=
  let c := o.ctl
  let s := lgStats g c
  let reads (rs : List (Nat × Nat)) : List (Nat × Nat × Bool) := rs.map (fun r => (r.1, r.2, false))
  if o.func = 1 then (if bitOf c.cflags.toNat 0 then [(s.1, s.2, true)] else [])
  else if o.func = 2 then
    (s.1, s.2, false) :: (reads o.oRuns ++ reads o.doRuns ++ (lgGradRuns g x c).map (fun r => (r.1, r.2, true)))
  else []

/-- The first of those accesses that violates (R77, R78). -/
def Polder.lgViolation (q : Polder) (g : LgGeom) (x : LgSeq) (o : LgOp) : Option (Nat × Nat × Bool) :=
  (lgRanges g x o).findSome? (fun r =>
    match q.berthCause o.berth false r.1 r.2.1 r.2.2 with
    | some c => some (c, r.1, r.2.2)
    | none => if r.2.2 then (q.berthCause o.berth false r.1 r.2.1 false).map (fun c => (c, r.1, false)) else none)

/-- Slots that an APPEND writes to: the first position in each. -/
def lgStarts (g : LgGeom) (c : LgCtl) : List Nat :=
  (List.range (ceilDiv (c.pos % g.tokens + c.n) g.tokens)).map (fun k => if k = 0 then c.pos else (c.pos / g.tokens + k) * g.tokens)

/-- Slots that an APPEND reaches for the first time. -/
def Polder.lgNew (q : Polder) (g : LgGeom) (x : LgSeq) (c : LgCtl) : List Nat :=
  ((lgStarts g c).map (fun t => c.layer * g.maxp + g.slot x t)).eraseDups.filter (fun i => !inPool (q.lgEntry c.seq i))

/-- Where the key and the value of a token lie, if its slot has a pool page (R387). -/
def Polder.lgToken (q : Polder) (g : LgGeom) (x : LgSeq) (sq layer t : Nat) : Option (Nat × Nat) :=
  let e := q.lgEntry sq (layer * g.maxp + g.slot x t)
  let a := g.pageAt (e % 2 ^ 24) + t % g.tokens * g.kvBytes
  if inPool e then some (a, a + g.pageBytes / 2) else none

/-- The ranges an APPEND writes. -/
def Polder.lgTargets (q : Polder) (g : LgGeom) (x : LgSeq) (c : LgCtl) : List (Nat × Nat) :=
  (List.range c.n).filterMap (fun i => q.lgToken g x c.seq c.layer (c.pos + i))

/-- Positions from LEN on in the pages of an APPEND, as the ranges of their keys and their values (R410). -/
def Polder.lgTails (q : Polder) (g : LgGeom) (x : LgSeq) (c : LgCtl) : List (Nat × Nat) :=
  (lgStarts g c).flatMap (fun t => match q.lgToken g x c.seq c.layer t with
    | some (ka, va) => let n := (g.tokens - t % g.tokens) * g.kvBytes; [(ka, n), (va, n)]
    | none => [])

/-- The operation runs: its pages enter the table, LAST_TIDE is set, and what it will write has unspecified contents until it reports (R279,
R410); BACKWARD takes the gradient rows that it will add to. -/
def Dom.lgRun (d : Dom) (i : Nat) (g : LgGeom) (x : LgSeq) (o : LgOp) (new : List Nat) (ps : List Nat) : Dom :=
  let c := o.ctl
  let w := d.lgWriteAll ((new.zip ps).map (fun e => g.entryPut c.seq e.1 e.2) ++
    [g.seqPut c.seq { x with tide := d.q.wharf.tide, pages := x.pages + ps.length }])
  let gr := if o.func = 2 then lgGradRuns g x c else []
  let r := w.1.engReads o.berth .ledger gr
  if !w.2 || decide (r.2.1 = .error) then r.1.lgMemue i o
  else if r.2.1 = .breach then r.1.lgDrop o.berth
  else
    let keys := if o.func = 0 then (r.1.q.lgTargets g x c).flatMap (fun k => [(k.1, g.kvBytes), (k.2, g.kvBytes)]) else []
    let stats := if o.func = 1 ∧ bitOf c.cflags.toNat 0 then [lgStats g c] else []
    let tails := if o.func = 0 then r.1.q.lgTails g x c else []
    (r.1.pendingDest o.berth (keys ++ stats ++ gr)).lgSet i (fun o => { o with
      wait := .running, grad := r.2.2, spill := tails })

/-- The operation itself, its sequence RESIDENT (or FREE for OPEN, or SWAPPED for CLOSE). -/
def Dom.lgMain (d : Dom) (i : Nat) (g : LgGeom) (o : LgOp) : Dom :=
  let sq := o.ctl.seq
  let x := d.q.lgSeq sq
  match lgCause g x o with
  | some c => d.lgTrap i o c
  | none =>
    match d.q.lgViolation g x o with
    | some (c, a, w) => d.lgBreach o c a w
    | none =>
      let t := d.lgTable sq (if o.func = 0 then (lgStarts g o.ctl).map (fun t => o.ctl.layer * g.maxp + g.slot x t) else
        if o.func = 0x11 then List.range g.entries else [])
      if t.2 then t.1.lgMemue i o
      else
        let new := if o.func = 0 then t.1.q.lgNew g x o.ctl else []
        t.1.lgAlloc i new.length (fun d ps => d.lgRun i g x o new ps)

/-- A SWAPPED sequence, or one that a failed swap-out left with pages in its host slot, is swapped in before the operation (R403, R415); one
without pages is RESIDENT at once. -/
def Dom.lgFetch (d : Dom) (i : Nat) (g : LgGeom) (o : LgOp) (x : LgSeq) : Dom :=
  let sq := o.ctl.seq
  let away := d.q.lgWhere sq inHost
  let t := if x.state = 3 then d.lgTable sq (List.range g.entries) else (d, false)
  if t.2 then t.1.lgMemue i o
  else if away.isEmpty then
    let y := if x.state = 3 then t.1.lgPut sq { x with state := 1 } else (t.1, true)
    if y.2 then y.1.lgMain i g o else y.1.lgMemue i o
  else t.1.lgAlloc i away.length (fun d ps =>
    let sp := (away.zip ps).map (fun e => (⟨e.1, e.2, d.q.lgEntry sq e.1 % 2 ^ 24⟩ : SwapPage))
    let y := d.lgPut sq { x with state := 4 }
    if y.2 then
      (y.1.onLedger (fun l => { l with swaps := l.swaps ++ [⟨sq, false, sp, []⟩] })).lgSet i (fun o => { o with wait := .swapin })
    else (y.1.lgGive ps).lgMemue i o)

/-- The operation at place `i` starts: swap-in first where pages lie in the host slot (R403, R415). -/
def Dom.lgBegin (d : Dom) (i : Nat) : Dom :=
  match d.q.lgOp i with
  | none => d
  | some o =>
    let g := d.q.lgGeom
    let sq := o.ctl.seq
    if g.seqs ≤ sq ∨ (o.func ≤ 2 ∧ g.nl ≤ o.ctl.layer) then d.lgTrap i o 1
    else
      let f := d.fetch (g.seqBase + 32 * sq) 32
      match f.2 with
      | none => f.1.lgMemue i o
      | some bs =>
        let x := LgSeq.parse bs
        if (x.state = 0) ≠ (o.func = 0x10) then f.1.lgTrap i o 2
        else if o.func = 0x10 ∨ o.func = 0x11 then f.1.lgMain i g o
        else f.1.lgFetch i g o x

/-- The place of the next operation that can start: none before it names its sequence, and no swap moves that. -/
def Polder.lgNext (q : Polder) : Option Nat :=
  (List.range q.ledger.ops.length).find? (fun i =>
    match q.ledger.ops[i]? with
    | some o => decide (o.wait = .queued) && (q.ledger.ops.take i).all (fun x => decide (x.ctl.seq ≠ o.ctl.seq)) &&
        q.ledger.swaps.all (fun s => decide (s.seq ≠ o.ctl.seq))
    | none => false)

/-- Every operation that can start does. `fuel` bounds them. -/
def Dom.lgAdvance (d : Dom) : (fuel : Nat) → Dom
  | 0 => d
  | n + 1 =>
    match d.q.lgNext with
    | some i => (d.lgBegin i).lgAdvance n
    | none => d

def Dom.lgGo (d : Dom) : Dom := d.lgAdvance (d.q.ledger.ops.length + 1)

/-! ## Issue (R391, R392) -/

def LgCtl.parse (bs : List Byte) : LgCtl where
  seq := fieldAt bs 0 2
  layer := fieldAt bs 2 1
  cflags := BitVec.ofNat 8 (fieldAt bs 3 1)
  pos := fieldAt bs 4 4
  n := fieldAt bs 8 4
  prio := fieldAt bs 0xC 1 % 16
  ofmt := fieldAt bs 0xD 1 % 16
  window := fieldAt bs 0x10 4
  keyFrom := fieldAt bs 0x14 4
  stats := fieldAt bs 0x18 8
  oAddr := fieldAt bs 0x20 8
  doAddr := fieldAt bs 0x28 8
  grad := fieldAt bs 0x30 8

/-- Which operands an operation has (R391), in modes and spaces of R264. -/
def lgShape (func : Nat) (o : WideOps) : Bool :=
  let dOk := match o.d with
    | some x => (decide (func = 1) || decide (func = 2)) && x.allowed [.direct, .stackbase, .shape, .ring] [.bin, .gran, .ctr, .stk]
    | none => !(decide (func = 1) || decide (func = 2))
  let src (x : Operand) : Bool := x.allowed [.direct, .stackbase, .shape, .indexed, .ring] [.bin, .gran, .ctr, .com, .stk]
  let aOk := match o.a with
    | some x => decide (func ≤ 2) && src x
    | none => !decide (func ≤ 2)
  let bOk := match o.b with
    | some x => src x
    | none => false
  dOk && aOk && bOk

def lgChecks (g : Group) (o : WideOps) : List Checked :=
  checkedOf o.d true false g none ++ checkedOf o.a false false g none ++ checkedOf (o.b.map (·.packed 64)) false false g none

/-- E0 and the number of rows of an operand. -/
def Operand.rowShape (o : Operand) : Nat × Nat := (o.sh.e0, o.sh.e1 * o.sh.e2 * o.sh.e3)

/-- The runs of O or dO at an address: the layout of D, its byte offsets in the ratio of the element sizes (R399; log entry 124). -/
def Operand.laidOut (o : Operand) (g : Group) (base size : Nat) : List (Nat × Nat) :=
  let first := o.addr g 0 0 0 0 0
  ((List.range o.sh.e3).flatMap (fun j3 => (List.range o.sh.e2).flatMap (fun j2 => (List.range o.sh.e1).flatMap (fun j1 =>
    mergeRuns size ((List.range o.sh.e0).map (fun j0 =>
      place ((base : Int) + (o.addr g 0 j0 j1 j2 j3 - first) * (size : Int) / (o.size : Int))))))))

/-- An operation past its checks enters the Ledger; D has unspecified contents from then on (R279). -/
def Dom.lgQueue (d : Dom) (b : Ix4) (w : WideBody) (func : Nat) (g : Group) (o : WideOps) (cb : Operand) : Dom :=
  let x := d.engReads b .ledger ((cb.packed 64).runs d.q g)
  let rows := match o.a with
    | some a => a.rowRuns x.1.q b g
    | none => []
  let src := joinRuns d.q (rows.flatMap (fun r => r.getD []))
  let y := (x.1.widx b (rows.any (·.isNone))).engReads b .ledger src
  if x.2.1 = .error ∨ (x.2.1 = .ok ∧ y.2.1 = .error) then y.1.memue b
  else if x.2.1 = .breach then x.1.lgDrop b
  else if y.2.1 = .breach then y.1.lgDrop b
  else
    let c := LgCtl.parse x.2.2
    let geom := d.q.lgGeom
    let dst := match o.d with
      | some z => z.runs d.q g
      | none => []
    let lay (base : Nat) : List (Nat × Nat) := match o.d with
      | some z => if func = 2 then joinRuns d.q (z.laidOut g base ((Elem.ofCode c.ofmt).getD .fp32).size) else []
      | none => []
    let hits := if func = 1 ∧ bitOf c.cflags.toNat 0 then [lgStats geom c]
      else if func = 2 then lgGradRuns geom (d.q.lgSeq c.seq) c else []
    (y.1.pendingDest b dst).onLedger (fun l => { l with ops := l.ops ++ [{
      berth := b, stale := runsMeet src dst, func := func, ctl := c, src := src, snap := y.2.2
      a := (match o.a with
        | some a => weave (a.size * a.sh.e0) rows y.2.2
        | none => [])
      aElem := (match o.a with
        | some a => a.elem
        | none => .fp32)
      aShape := (match o.a with
        | some a => a.rowShape
        | none => (0, 0))
      dst := dst
      dElem := (match o.d with
        | some z => z.elem
        | none => .fp32)
      dShape := (match o.d with
        | some z => z.rowShape
        | none => (0, 0))
      oRuns := lay c.oAddr, doRuns := lay c.doAddr, grad := []
      spill := hits.filter (fun r => (d.q.berthCause b false r.1 r.2 true).isNone)
      wait := .queued, tally := w.tally.extractLsb' 4 4, inc := w.tally.extractLsb' 0 4 }] })

/-- A LEDG instruction. MSEL other than 0 and a geometry outside R385 leave an undefined result (R15). -/
def Dom.ledg (d : Dom) (b : Ix4) (w : WideBody) (func : Nat) : Dom :=
  let g := (d.berth b).ownGroup
  if w.msel ≠ 0 ∨ d.q.lgGeom.good = false then d.wide b (fun d => d.havoc b)
  else (d.complete b w .ledger (lgChecks g) (fun _ o => wantShape (lgShape func o)) (fun d o =>
    match o.b with
    | some cb => d.lgQueue b w func g o cb
    | none => d)).lgGo

/-! ## Reading keys and values -/

def wordsOf (e : Elem) (bs : List Byte) : List Word := (pieces e.size (bs.length + 1) bs).map (fun p => f32of (e.num (leNat p)))

/-- Bytes of unspecified contents. -/
def Dom.blurred (d : Dom) (n : Nat) : Dom × List Byte := let x := d.q.freeBytes n; ({ d with q := x.2 }, x.1)

/-- Keys and values of tokens, all KV heads side by side; none at a memory error (R416). -/
def Dom.lgTokens (d : Dom) (g : LgGeom) (x : LgSeq) (sq layer : Nat) : List Nat → Dom × Option (List (List Word × List Word))
  | [] => (d, some [])
  | t :: ts =>
    let e := d.fetch (g.entryAt sq (layer * g.maxp + g.slot x t)) 4
    let kv : Dom × Option (List Byte × List Byte) :=
      match e.2, e.1.q.lgToken g x sq layer t with
      | none, _ => (e.1, none)
      | some _, some (ka, va) =>
        let k := e.1.fetch ka g.kvBytes
        let v := k.1.fetch va g.kvBytes
        (v.1, match k.2, v.2 with
          | some kb, some vb => some (kb, vb)
          | _, _ => none)
      | some _, none =>
        let f := e.1.blurred (2 * g.kvBytes)
        (f.1, some (f.2.take g.kvBytes, f.2.drop g.kvBytes))
    match kv.2 with
    | none => (kv.1, none)
    | some (kb, vb) =>
      let rest := kv.1.lgTokens g x sq layer ts
      (rest.1, rest.2.map (fun l => (wordsOf g.elem kb, wordsOf g.elem vb) :: l))

/-- Part `h` of `hd` lanes. -/
def lanePart (hd h : Nat) (l : List Word) : List Word := (l.drop (h * hd)).take hd

/-- The visible keys and values of a row, from those loaded from position `lo` on. -/
def lgRowKeys (g : LgGeom) (c : LgCtl) (x : LgSeq) (lo : Nat) (kv : List (List Word × List Word)) (i h : Nat) : List (List Word × List Word) :=
  let v := lgVisible c x i
  let gh := h * g.nkv / g.nh
  ((kv.drop (v.1 - lo)).take v.2).map (fun p => (lanePart g.hd gh p.1, lanePart g.hd gh p.2))

/-- Rows (i, h) in query order and then head order. -/
def lgRows (g : LgGeom) (n : Nat) : List (Nat × Nat) := (List.range n).flatMap (fun i => (List.range g.nh).map (fun h => (i, h)))

/-! ## What an operation does when it reports -/

/-- Counters and flags of the rows of an attention operation (R404, R406). -/
def Dom.lgFlags (d : Dom) (empty : Nat) (bad : Bool) : Dom :=
  let d1 := if empty = 0 then d else (d.bump (Off.lgCount 2) empty).stick Off.lgSticky 8
  if bad then d1.stick Off.lgSticky 4 else d1

/-- Runs written in order up to the first that does not end well. -/
def Dom.lgWrites (d : Dom) (b : Ix4) : List (List (Nat × Nat) × List Byte) → Dom × Ran
  | [] => (d, .ok)
  | w :: ws =>
    let x := d.engWrites b .ledger w.1 w.2
    match x.2 with
    | .ok => x.1.lgWrites b ws
    | r => (x.1, r)

/-- ATTEND (R397, R398). -/
def Dom.lgAttend (d : Dom) (g : LgGeom) (x : LgSeq) (o : LgOp) : Dom × Ran :=
  let c := o.ctl
  let sp := lgSpan c x
  let t := d.lgTokens g x c.seq c.layer ((List.range sp.2).map (· + sp.1))
  match t.2 with
  | none => (t.1, .error)
  | some kv =>
    let qs := pieces g.hd (c.n * g.nh + 1) (wordsOf o.aElem o.a)
    let rows := (lgRows g c.n).map (fun r =>
      let keys := lgRowKeys g c x sp.1 kv r.1 r.2
      (keys.isEmpty, attendRow g.scale g.hd (qs.getD (r.1 * g.nh + r.2) []) keys))
    let out := rows.flatMap (fun r => r.2.2.2.1.flatMap (fun v => natLe o.dElem.size (o.dElem.convert true (f32num v)).val))
    let stats := rows.flatMap (fun r => natLe 4 r.2.1.toNat ++ natLe 4 r.2.2.1.toNat)
    let d1 := (t.1.bump (Off.lgCount 1) rows.length).lgFlags (rows.countP (·.1)) (rows.any (·.2.2.2.2))
    d1.lgWrites o.berth ([(o.dst, out)] ++ (if bitOf c.cflags.toNat 0 then [([(c.stats, stats.length)], stats)] else []))

/-- BACKWARD (R399): statistics, O and dO are read, dQ and the gradient rows written. -/
def Dom.lgBackward (d : Dom) (g : LgGeom) (x : LgSeq) (o : LgOp) : Dom × Ran :=
  let c := o.ctl
  let sp := lgSpan c x
  let n := c.n * g.nh
  let t := d.lgTokens g x c.seq c.layer ((List.range sp.2).map (· + sp.1))
  let st := t.1.engReads o.berth .ledger [lgStats g c]
  let ob := if st.2.1 = .ok then st.1.engReads o.berth .ledger o.oRuns else st
  let db := if ob.2.1 = .ok then ob.1.engReads o.berth .ledger o.doRuns else ob
  match t.2, db.2.1 with
  | some kv, .ok =>
    let stats := pieces 8 (n + 1) st.2.2
    let os := pieces g.hd (n + 1) (wordsOf o.ofmt ob.2.2)
    let dos := pieces g.hd (n + 1) (wordsOf o.ofmt db.2.2)
    let qs := pieces g.hd (n + 1) (wordsOf o.aElem o.a)
    let lanes := 2 * g.nkv * g.hd
    let grads := pieces lanes (sp.2 + 1) ((pieces 4 (sp.2 * lanes + 1) o.grad).map (fun p => word (leNat p)))
    let fin := (lgRows g c.n).foldl (fun (acc : List (List Word) × List (List Word) × Nat × Bool) r =>
      let k := r.1 * g.nh + r.2
      let v := lgVisible c x r.1
      let gh := r.2 * g.nkv / g.nh
      let keys := lgRowKeys g c x sp.1 kv r.1 r.2
      let at_ := v.1 - sp.1
      let gs := ((acc.1.drop at_).take v.2).map (fun row => (lanePart g.hd gh row, lanePart g.hd (g.nkv + gh) row))
      let s := stats.getD k []
      let y := backwardRow g.scale g.hd (word (fieldAt s 0 4)) (word (fieldAt s 4 4)) (qs.getD k []) (os.getD k []) (dos.getD k []) keys gs
      let put (row : List Word) (kg : KeyGrad) : List Word :=
        row.take (gh * g.hd) ++ kg.1 ++ (row.drop ((gh + 1) * g.hd)).take ((g.nkv - 1) * g.hd) ++ kg.2 ++ row.drop ((g.nkv + gh + 1) * g.hd)
      let mid := ((acc.1.drop at_).take v.2).zip y.2.1
      (acc.1.take at_ ++ mid.map (fun p => put p.1 p.2) ++ acc.1.drop (at_ + v.2), acc.2.1 ++ [y.1],
        acc.2.2.1 + bit keys.isEmpty, acc.2.2.2 || y.2.2)) (grads, [], 0, false)
    let out := fin.2.1.flatMap (fun l => l.flatMap (fun v => natLe o.dElem.size (o.dElem.convert true (f32num v)).val))
    let gb := fin.1.flatMap (fun l => l.flatMap (fun w => natLe 4 w.toNat))
    (db.1.lgFlags fin.2.2.1 fin.2.2.2).lgWrites o.berth [(o.dst, out), (lgGradRuns g x c, gb)]
  | none, _ => (t.1, .error)
  | _, r => (db.1, r)

/-- APPEND (R394): tokens written, LEN advanced. -/
def Dom.lgAppend (d : Dom) (g : LgGeom) (x : LgSeq) (o : LgOp) : Dom × Ran :=
  let c := o.ctl
  let toks := pieces (2 * g.kvBytes) (c.n + 1) o.a
  let w := if d.changed o.berth o.stale o.src o.snap then (d, true)
    else ((List.range c.n).zip toks).foldl (fun (acc : Dom × Bool) p =>
      match acc.1.q.lgToken g x c.seq c.layer (c.pos + p.1) with
      | some (ka, va) =>
        let k := acc.1.deposit ka (p.2.take g.kvBytes)
        let v := k.1.deposit va (p.2.drop g.kvBytes)
        (v.1, acc.2 && k.2 && v.2)
      | none => acc) (d, true)
  let y := if w.2 then w.1.lgPut c.seq { x with len := c.pos + c.n } else w
  if y.2 then (y.1.bump (Off.lgCount 0) c.n, .ok) else (y.1, .error)

def Ran.of (ok : Bool) : Ran := if ok then .ok else .error

/-- CLOSE (R393): pool pages freed, page table zeroed, the sequence FREE. -/
def Dom.lgClose (d : Dom) (g : LgGeom) (x : LgSeq) (o : LgOp) : Dom × Ran :=
  let sq := o.ctl.seq
  let used := d.q.lgWhere sq (fun e => decide (e ≠ 0))
  let ps := (used.map (d.q.lgEntry sq)).filter inPool
  let w := (d.lgGive (ps.map (· % 2 ^ 24))).lgWriteAll
    (used.map (fun i => g.entryPut sq i 0) ++ [g.seqPut sq { x with state := 0, pages := 0 }])
  (w.1, .of w.2)

/-- OPEN (R393). -/
def Dom.lgOpen (d : Dom) (x : LgSeq) (o : LgOp) : Dom × Ran :=
  let c := o.ctl
  let win := bitOf c.cflags.toNat 3
  let w := d.lgPut c.seq { x with
    state := 1, prio := c.prio, flags := bit win + 2 * bit (bitOf c.cflags.toNat 2), len := 0, window := if win then c.window else 0
    pages := 0 }
  (w.1, .of w.2)

/-- The effect of an operation as it reports. A source changed since issue leaves D unspecified (R279). -/
def Dom.lgEffect (d : Dom) (o : LgOp) : Dom × Ran :=
  let g := d.q.lgGeom
  let x := d.q.lgSeq o.ctl.seq
  if o.func = 0 then d.lgAppend g x o
  else if o.func = 0x10 then d.lgOpen x o
  else if o.func = 0x11 then d.lgClose g x o
  else if o.func = 0x12 then (d, .ok)
  else
    let z := if d.changed o.berth o.stale o.src o.snap then d.blurred o.a.length else (d, o.a)
    if o.func = 1 then z.1.lgAttend g x { o with a := z.2 } else z.1.lgBackward g x { o with a := z.2 }

/-- LEDG_REPORT: the `n`-th operation of the berth in the Ledger, if it runs, takes effect and reports; what waited behind it starts. -/
def Dom.ledgReport (d0 : Dom) (b : Ix4) (n dmc : Nat) : Dom :=
  let d := d0.lgGo
  match takeNth (fun o => decide (o.berth = b)) n d.q.ledger.ops with
  | none => d
  | some (o, rest) =>
    if o.wait ≠ .running then d
    else
      let x := d.lgEffect o
      let d1 := x.1.onLedger (fun l => { l with ops := rest })
      (match x.2 with
        | .ok => d1.report b o.tally o.inc dmc
        | .error => (d1.blurRuns o.spill).memue b
        | .breach => d1.lgDrop b).lgGo

/-- PAGEWAIT: the oldest waiter takes its pages, where enough are free (R400). -/
def Dom.pagewait (d0 : Dom) : Dom :=
  let d := d0.lgGo
  match d.q.ledger.ops.findIdx? (·.isWaiter) with
  | none => d
  | some i =>
    match d.q.lgOp i with
    | some o =>
      (match o.wait with
        | .pages n => if n ≤ d.q.freePages then (d.lgBegin i).lgGo else d
        | _ => d)
    | none => d

/-! ## Pre-emption and swaps (R401 to R403, R408, R414, R415) -/

/-- Pages the waiters need. -/
def Polder.lgNeeds (q : Polder) : Nat :=
  (q.ledger.ops.map (fun o => match o.wait with
    | .pages n => n
    | _ => 0)).sum

/-- A sequence that may be pre-empted (R401): its descriptor and its pool pages. -/
def Polder.lgVictim (q : Polder) (sq : Nat) : Option (LgSeq × List Nat) :=
  let x := q.lgSeq sq
  if x.state = 1 ∧ bitOf x.flags 1 ∧ q.ledger.ops.all (fun o => decide (o.ctl.seq ≠ sq)) then some (x, q.lgWhere sq inPool) else none

/-- Whether victim `a` comes before `b`. -/
def victimBefore (a b : Nat × LgSeq) : Bool :=
  if a.2.prio ≠ b.2.prio then decide (b.2.prio < a.2.prio)
  else if a.2.tide ≠ b.2.tide then decide (a.2.tide < b.2.tide)
  else decide (b.1 ≤ a.1)

/-- The victims in the order of R401. -/
def Polder.lgVictims (q : Polder) : List Nat :=
  (((List.range q.lgGeom.seqs).filterMap (fun sq => (q.lgVictim sq).map (fun v => (sq, v.1)))).foldr (insertBy victimBefore) []).map (·.1)

/-- A victim becomes SWAPPING_OUT; its pages go to the host slot behind those that are there. One without pages is SWAPPED. -/
def Dom.lgSwapOut (d : Dom) (sq : Nat) (x : LgSeq) (pages : List Nat) : Dom :=
  let there := (d.q.lgWhere sq inHost).length
  let sp := (pages.zip (List.range pages.length)).map (fun e =>
    (⟨e.1, d.q.lgEntry sq e.1 % 2 ^ 24, there + e.2⟩ : SwapPage))
  let d1 := d.bump (Off.lgCount 3) 1
  if sp.isEmpty then (d1.lgPut sq { x with state := 3 }).1
  else ((d1.lgPut sq { x with state := 2 }).1).onLedger (fun l => { l with swaps := l.swaps ++ [⟨sq, true, sp, []⟩] })

/-- Victims taken from a list while the shortage lasts; what is left of both is kept for the failures of this boundary's swaps (R401,
R415). -/
def Dom.lgTakeVictims (d : Dom) : (short : Int) → List Nat → Dom
  | short, [] => d.onLedger (fun l => { l with short := short, victims := [] })
  | short, v :: vs =>
    if short ≤ 0 then d.onLedger (fun l => { l with short := short, victims := v :: vs })
    else match d.q.lgVictim v with
      | some x => (d.lgSwapOut v x.1 x.2).lgTakeVictims (short - x.2.length) vs
      | none => d.lgTakeVictims short vs

/-- Pre-emption at a boundary (R401). -/
def Dom.lgPreempt (d : Dom) : Dom := d.lgTakeVictims ((d.q.lgNeeds : Int) - d.q.freePages) d.q.lgVictims

/-- The swap of a sequence replaced, or ended. -/
def Dom.lgSwaps (d : Dom) (s : Swap) (new : Option Swap) : Dom :=
  d.onLedger (fun l => { l with swaps := l.swaps.flatMap (fun x => if x = s then new.toList else [x]) })

/-- SWAPOUT_PAGE: the next page of a swap-out is delivered, or the swap-out fails; the next victim of its boundary then takes its place
(R415). -/
def Dom.swapoutPage (d0 : Dom) (sq : Nat) (ok : Bool) : Dom :=
  match d0.q.ledger.swaps.find? (fun s => s.out && decide (s.seq = sq)) with
  | none => d0
  | some s =>
    match s.left with
    | [] => d0
    | p :: rest =>
      let g := d0.q.lgGeom
      let r := d0.fetch (g.pageAt p.page) g.pageBytes
      let w := match r.2 with
        | some bs => if ok then r.1.hostWrite true (g.hostAt sq p.slot) bs else (r.1, false)
        | none => (r.1, false)
      let x := w.1.q.lgSeq sq
      let e := if w.2 then w.1.lgWriteAll [g.entryPut sq p.entry (2 ^ 31 + p.slot)] else w
      if e.2 then
        let d1 := (e.1.lgGive [p.page]).bump (Off.lgCount 4) 1
        (if rest.isEmpty then ((d1.lgSwaps s none).lgPut sq { x with state := 3 }).1
          else d1.lgSwaps s (some { s with left := rest, moved := s.moved ++ [p] })).lgGo
      else
        let d1 := ((e.1.lgSwaps s none).lgPut sq { x with state := 1 }).1.bump (Off.lgCount 6) 1
        (d1.lgTakeVictims (d1.q.ledger.short + s.left.length) d1.q.ledger.victims).lgGo

/-- The operation that waits for a swap-in, with its place. -/
def Polder.lgSwapper (q : Polder) (sq : Nat) : Option (Nat × LgOp) :=
  match q.ledger.ops.findIdx? (fun o => decide (o.wait = .swapin) && decide (o.ctl.seq = sq)) with
  | some i => (q.lgOp i).map (fun o => (i, o))
  | none => none

/-- A swap-in fails: its pages return to the free list, the sequence is SWAPPED again, and the waybill that needed it ends (R414); `memue`
where the page table or the descriptor could not be written (R416). -/
def Dom.swapinFail (d : Dom) (s : Swap) (memue : Bool) : Dom :=
  let g := d.q.lgGeom
  let w := d.lgWriteAll (s.moved.map (fun m => g.entryPut s.seq m.entry (2 ^ 31 + m.slot)) ++
    [g.seqPut s.seq { d.q.lgSeq s.seq with state := 3 }])
  let d1 := ((((w.1.lgGive ((s.moved ++ s.left).map (·.page))).lgSwaps s none).bump (Off.lgCount 7) 1).stick Off.lgSticky 2)
  (match d1.q.lgSwapper s.seq with
    | some (i, o) => if memue then d1.lgMemue i o else d1.lgFail i o .swapfail 0
    | none => d1).lgGo

/-- SWAPIN_PAGE: the next page of a swap-in returns, or the swap-in fails its operation's waybill. -/
def Dom.swapinPage (d0 : Dom) (sq : Nat) (ok : Bool) : Dom :=
  match d0.q.ledger.swaps.find? (fun s => !s.out && decide (s.seq = sq)) with
  | none => d0
  | some s =>
    match s.left with
    | [] => d0
    | p :: rest =>
      let g := d0.q.lgGeom
      let r := if ok then d0.hostRead (g.hostAt sq p.slot) g.pageBytes else (d0, none)
      match r.2 with
      | none => r.1.swapinFail s false
      | some bs =>
        let w := r.1.deposit (g.pageAt p.page) bs
        let e := if w.2 then w.1.lgWriteAll [g.entryPut sq p.entry p.page] else w
        if !e.2 then e.1.swapinFail s true
        else
          let d1 := e.1.bump (Off.lgCount 5) 1
          if rest.isEmpty then
            let d2 := ((d1.lgSwaps s none).lgPut sq { d1.q.lgSeq sq with state := 1 }).1
            (match d2.q.lgSwapper sq with
              | some (i, o) => (d2.lgSet i (fun o => { o with wait := .queued })).lgMain i g o
              | none => d2).lgGo
          else d1.lgSwaps s (some { s with left := rest, moved := s.moved ++ [p] })

def execAppend (p b : Ix4) (w : WideBody) (s : State) : Host.Outcome State Fault Refusal := .next (s.wide p b (·.ledg b w 0))

def execAttend (p b : Ix4) (w : WideBody) (s : State) : Host.Outcome State Fault Refusal := .next (s.wide p b (·.ledg b w 1))

def execBackward (p b : Ix4) (w : WideBody) (s : State) : Host.Outcome State Fault Refusal := .next (s.wide p b (·.ledg b w 2))

def execLedgOpen (p b : Ix4) (w : WideBody) (s : State) : Host.Outcome State Fault Refusal := .next (s.wide p b (·.ledg b w 0x10))

def execLedgClose (p b : Ix4) (w : WideBody) (s : State) : Host.Outcome State Fault Refusal := .next (s.wide p b (·.ledg b w 0x11))

def execLedgFetch (p b : Ix4) (w : WideBody) (s : State) : Host.Outcome State Fault Refusal := .next (s.wide p b (·.ledg b w 0x12))

def execLedgReport (p b : Ix4) (n dmc : Nat) (s : State) : Host.Outcome State Fault Refusal :=
  .next (s.actOn p (·.ledgReport b n dmc))

def execPagewait (p : Ix4) (s : State) : Host.Outcome State Fault Refusal := .next (s.actOn p (·.pagewait))

def execSwapoutPage (p : Ix4) (q : Nat) (ok : Bool) (s : State) : Host.Outcome State Fault Refusal :=
  .next (s.actOn p (·.swapoutPage q ok))

def execSwapinPage (p : Ix4) (q : Nat) (ok : Bool) (s : State) : Host.Outcome State Fault Refusal :=
  .next (s.actOn p (·.swapinPage q ok))

end Sys2Proof.Machine
end

