-- ==== Sys2Proof/Machine/Boundary.lean ====
section
/-!
DEFINITION. Machine/Boundary.lean: the tide boundary (R58, R108, R114, R203 to R218, R246, R253, R371, R401) and the end of a
TIDE_FREEZE (R543). The whole of R204, cycles b to b + 512, is one step.
-/
namespace Sys2Proof.Machine

/-- TS writes held for this boundary take effect, and those of the boundary cycle are held for the next (R58). -/
def Polder.takeHeld (q : Polder) : Polder :=
  { q.held.foldl (fun q h => q.store h.1 h.2.toNat) q with held := q.heldNext, heldNext := [] }

/-- Whether a waybill is late at the boundary into tide `t` (R203). -/
def Waybill.late (w : Waybill) (t : Nat) : Bool := deadlineLt w.deadline (some t)

/-- Late waybills: of a berth, or of the pool. -/
def Polder.lateSet (q : Polder) (t : Nat) : List (Waybill × Option Ix4) :=
  let running := Ix4.all.filterMap (fun b => match (q.berths.get b).running with
    | some r => if r.wb.late t then some (r.wb, some b) else none
    | none => none)
  running ++ (q.wharf.pool.filter (·.late t)).map (fun w => (w, none))

/-- Records go in ring order and then in read order (R204). -/
def lateOrder (a b : Waybill × Option Ix4) : Bool :=
  if a.1.ring ≠ b.1.ring then decide (a.1.ring < b.1.ring) else decide (a.1.order ≤ b.1.order)

/-- One late waybill dropped. -/
def Dom.dropLate (d : Dom) (x : Waybill × Option Ix4) : Dom :=
  let d1 := d.bump Off.dropCount 1
  match x.2 with
  | some b => d1.cancelRun b .droppedLate 0
  | none =>
    (d1.on (fun q => Ix4.all.foldl (fun q b => q.onBerth b (fun y => match y.pre with
        | some v => if v.order = x.1.order then { y with pre := none, preCtx := [] } else y
        | none => y)) { q with wharf := { q.wharf with pool := q.wharf.pool.filter (fun w => decide (w.order ≠ x.1.order)) } })
      ).completeUnstarted x.1 .droppedLate 0

/-- Aging by the boundaries crossed (R193, R208). -/
def Dom.agePool (d : Dom) (crossed : Nat) : Dom :=
  let new := d.q.wharf.pool.countP (fun w => !w.aged && decide (8 ≤ w.age + crossed))
  (d.onWharf (fun x => { x with pool := x.pool.map (fun w =>
    { w with age := w.age + crossed, aged := w.aged || decide (8 ≤ w.age + crossed) }) })).bump Off.agedCount new

/-- A ring at the boundary: held records are tried again, a ring that could not be read is again where the host answers (R218), and MTAIL is
read (R187). -/
def Dom.ringBoundary (d : Dom) (n : Nat) : Dom :=
  let r := d.q.wharf.ring n
  let d0 := if r.held ≠ [] then d.putRecords n r.held else d
  let d1 := if r.stalled ∧ d.hostUp then d0.on (·.onRing n (fun r => { r with stalled := false })) else d0
  if d1.q.ringEn n then d1.readTail n else d1

/-- Admission resumes: YIELD ends, and TIDE is raised for the waybills that were not dropped (R241, R246, R499, R519). -/
def Dom.resumeTide (d : Dom) : Dom :=
  let d1 := d.on (fun q => Ix4.all.foldl (fun q b => q.onBerth b (fun x => match x.phase with
    | .yielded => if x.impounded then x else { x with phase := .running }
    | _ => x)) q)
  (((d1.on (·.raiseAll 3)).onWharf (fun w => { w with admitting := d1.q.dozing.isNone })).msix 3).source 3

/-- The boundary into tide `t` in OPEN or RUN. -/
def Dom.processBoundary (d : Dom) (t : Nat) : Dom :=
  let old := d.q.wharf.tide
  let opening := decide (d.q.boot = .opened)
  let late := (d.q.lateSet t).foldr (insertBy lateOrder) []
  let d1 := (d.onWharf (fun w => { w with admitting := false, tide := t, slackFired := false })).on (·.takeHeld)
  let d2 := late.foldl Dom.dropLate d1
  let d3 := (List.range 16).foldl (fun d n => d.ringBoundary n) (d2.agePool (t - old))
  let d4 := ((d3.on (·.glPublish old t)).lgPreempt).lgGo
  let d5 := if old + 1 < t then d4.wharfStick 4 else d4
  let d6 := if opening then
      { d5 with q := { d5.q with
        runTime := d5.now, clocks := { d5.q.clocks with window := { d5.q.clocks.window with mills := 0 } } } }.boot .run
    else d5
  let d7 := (d6.on (·.tidyPreloads)).log 2 8 (natLe 8 t ++ natLe 4 late.length ++ natLe 4 (t - old))
  (if opening then d7.sync else d7).resumeTide

/-- A boundary check: what basin time, or the die timebase in a polder with ALONE set, asks for (R108, R181, R542). -/
def Dom.boundary (d : Dom) : Dom :=
  let t := d.q.tideAt d.basinNs
  if d.q.wharf.frozen ∨ t ≤ d.q.wharf.tide ∨ !(d.q.alone || d.q.basin.valid) then d
  else match d.q.boot with
    | .opened | .run => d.processBoundary t
    | .basinjoin => d.onWharf (fun w => { w with tide := t })
    | _ => d

/-- TIMEOUT: a boundary that is due is processed first (R212). -/
def execTimeout (p b : Ix4) (s : State) : Host.Outcome State Fault Refusal := .next (s.actOn p (fun d => d.boundary.timeOut b))

/-- TIDE_BOUNDARY: `dt` ns pass, and the polder checks its boundary. -/
def execTideBoundary (p : Ix4) (dt : Nat) (s : State) : Host.Outcome State Fault Refusal :=
  .next ((s.elapse dt).actOn p Dom.boundary)

end Sys2Proof.Machine
end

