-- ==== Sys2Proof/Machine/Curve.lean ====
section
/-!
DEFINITION. Machine/Curve.lean: the ECDSA verification of FIPS 186-5 over P-384 with SHA-384 that R45 check 4 names.
-/
namespace Sys2Proof.Machine

/-- The field prime of P-384. -/
def p384P : Nat := 2 ^ 384 - 2 ^ 128 - 2 ^ 96 + 2 ^ 32 - 1

/-- The order of the base point. -/
def p384N : Nat :=
  0xffffffffffffffffffffffffffffffffffffffffffffffffc7634d81f4372ddf581a0db248b0a77aecec196accc52973

def p384B : Nat :=
  0xb3312fa7e23ee7e4988e056be3f82d19181d9c6efe8141120314088f5013875ac656398d8a2ed19d2a85c8edd3ec2aef

def p384Gx : Nat :=
  0xaa87ca22be8b05378eb1c71ef320ad746e1d3b628ba79b9859f741e082542a385502f25dbf55296c3a545e3872760ab7

def p384Gy : Nat :=
  0x3617de4a96262c6f5d9e98bf9292dc29f8f41dbd289a147ce9da3113b5f0b8c00a60b1ce1d7e819d7a431d7c90ea0e5f

/-- `b ^ e` modulo `m`, over the low `fuel` bits of `e`. -/
def powMod (m : Nat) : (fuel : Nat) → (b e : Nat) → Nat
  | 0, _, _ => 1 % m
  | f + 1, b, e =>
    let r := powMod m f (b * b % m) (e / 2)
    if e % 2 = 1 then b * r % m else r

/-- The inverse modulo a prime below 2^384. -/
def invMod (m a : Nat) : Nat := powMod m 384 (a % m) (m - 2)

/-- A curve point in Jacobian coordinates; Z = 0 at infinity. -/
structure Jac where
  x : Nat
  y : Nat
  z : Nat

/-- Subtraction modulo the field prime of values below it. -/
def fsub (a b : Nat) : Nat := (a + p384P - b) % p384P

def Jac.dbl (q : Jac) : Jac :=
  let d := q.z * q.z % p384P
  let g := q.y * q.y % p384P
  let b := q.x * g % p384P
  let a := 3 * (fsub q.x d * ((q.x + d) % p384P)) % p384P
  let x := fsub (a * a % p384P) (8 * b % p384P)
  let s := (q.y + q.z) % p384P
  ⟨x, fsub (a * fsub (4 * b % p384P) x % p384P) (8 * (g * g) % p384P), fsub (fsub (s * s % p384P) g) d⟩

def Jac.add (q r : Jac) : Jac :=
  if q.z = 0 then r
  else if r.z = 0 then q
  else
    let z1 := q.z * q.z % p384P
    let z2 := r.z * r.z % p384P
    let u1 := q.x * z2 % p384P
    let u2 := r.x * z1 % p384P
    let s1 := q.y * r.z % p384P * z2 % p384P
    let s2 := r.y * q.z % p384P * z1 % p384P
    let h := fsub u2 u1
    let t := fsub s2 s1
    if h = 0 then (if t = 0 then q.dbl else ⟨1, 1, 0⟩)
    else
      let h2 := h * h % p384P
      let h3 := h * h2 % p384P
      let v := u1 * h2 % p384P
      let x := fsub (fsub (t * t % p384P) h3) (2 * v % p384P)
      ⟨x, fsub (t * fsub v x % p384P) (s1 * h3 % p384P), q.z * r.z % p384P * h % p384P⟩

/-- `k` times a point, over the low `fuel` bits of `k`. -/
def Jac.mul (q : Jac) : (fuel : Nat) → (k : Nat) → Jac
  | 0, _ => ⟨1, 1, 0⟩
  | f + 1, k =>
    let h := (q.mul f (k / 2)).dbl
    if k % 2 = 1 then h.add q else h

def onCurve (x y : Nat) : Bool :=
  y * y % p384P == (x * x * x + (p384P - 3) * x + p384B) % p384P

/-- Whether (r, s) verifies over the message with the key (x, y), the key's and the values' validation included (R45 check 4). -/
def ecdsaVerify (x y r s : Nat) (msg : List Byte) : Bool :=
  if x < p384P && y < p384P && onCurve x y && 1 ≤ r && r < p384N && 1 ≤ s && s < p384N then
    let e := beNat (sha384 msg)
    let w := invMod p384N s
    let q := (Jac.mul ⟨p384Gx, p384Gy, 1⟩ 384 (e * w % p384N)).add (Jac.mul ⟨x, y, 1⟩ 384 (r * w % p384N))
    if q.z = 0 then false
    else
      let zi := invMod p384P q.z
      q.x * (zi * zi % p384P) % p384P % p384N == r
  else false

end Sys2Proof.Machine
end

