-- ==== Sys2Proof/Machine/MemoryOps.lean ====
section
/-!
DEFINITION. Machine/MemoryOps.lean: Granary scrub and its maintenance accesses, patrol scrub, telemetry, command parity and retraining
of the HBM stacks (11_granary_counter_hbm.md, R320 to R351).
-/
namespace Sys2Proof.Machine

def Dom.onMem (d : Dom) (f : MemCtl → MemCtl) : Dom := d.on (fun q => { q with memctl := f q.memctl })

/-! ## Wrong bits -/

/-- Bits of an ECC unit turn wrong. Of three or more the outcome is open (R348): seen as uncorrectable, miscorrected, or not seen. -/
def Dom.inject (d : Dom) (a unit flips : Nat) : Dom :=
  if flips = 0 then d
  else
    let n := Store.getD d.q.memctl.errs a 0 + flips
    if n ≤ 2 then d.onMem (fun m => { m with errs := Store.insert m.errs a n })
    else
      let f := d.q.free
      let d1 : Dom := { d with q := f.2 }
      match f.1.toNat % 3 with
      | 0 => d1.onMem (fun m => { m with errs := Store.insert m.errs a 2 })
      | 1 => (d1.onMem (fun m => { m with errs := Store.insert m.errs a 1 })).on (·.unspecified a unit)
      | _ => (d1.onMem (fun m => { m with errs := Store.erase m.errs a })).on (·.unspecified a unit)

/-- A line or unit read by scrub: what can be corrected is to be written back later, a line of the Granary whole, of HBM each sector (R324,
R336, R345). -/
def Dom.scrubRead (d : Dom) (r : Region) (a len : Nat) : Dom :=
  let fix := ((d.q.badUnits r a len).filter (fun e => decide (e.2 = 1))).map (fun e => if r = .hbm then e.1 else a)
  (d.eccRead r a len).1.onMem (fun m => { m with back := m.back.filter (fun u => !fix.contains u) ++ fix.eraseDups })

/-- A write-back: the single wrong bits of the line or unit are corrected. -/
def Dom.writeBack (d : Dom) (a len : Nat) : Dom :=
  d.onMem (fun m => { m with
    back := m.back.filter (fun u => decide (u ≠ a))
    errs := m.errs.filter (fun e => !(decide (a ≤ e.1) && decide (e.1 < a + len) && decide (e.2 = 1))) })

/-! ## Granary scrub (R320, R321, R324) -/

/-- Whether scrub may make an access: enabled, and the polder's clocks run. -/
def Polder.scrubs (q : Polder) : Bool :=
  bitOf (q.stored Off.granScrub) 0 && !q.clocks.stopped && decide (q.boot ≠ .powered) && decide (q.boot ≠ .absent)

/-- One maintenance access of a bin by scrub: a pending write-back of the bin, or the next line, in which `flips` bits have turned wrong. -/
def Dom.scrubAccess (d : Dom) (bin flips : Nat) : Dom :=
  let base := bin * 0x200000
  let d0 := (d.onMem (fun m => { m with denied := Store.erase m.denied bin })).event 7 1 none
  match d.q.memctl.back.find? (fun u => decide (base ≤ u) && decide (u < base + 0x200000)) with
  | some u => d0.writeBack u 64
  | none =>
    let n := Store.getD d.q.memctl.scrubLine bin 0
    let a := base + 64 * n
    ((d0.inject a 8 flips).scrubRead .granary a 64).onMem (fun m => { m with scrubLine := Store.put m.scrubLine bin ((n + 1) % 32768) 0 })

/-- MAINTENANCE_ACCESS: the Watchhouse, then the host, then scrub; scrub goes first after 63 denials. The access of the Watchhouse or the
host is its own command. -/
def Dom.maintenance (d : Dom) (bin : Nat) (wh host : Bool) (flips : Nat) : Dom :=
  let b := bin % 64
  let denied := Store.getD d.q.memctl.denied b 0
  if !d.q.scrubs then d
  else if (wh || host) && decide (denied < 63) then d.onMem (fun m => { m with denied := Store.insert m.denied b (denied + 1) })
  else d.scrubAccess b flips

/-- GRAN_SCRUB_TAKEOVER: after 63 denials. -/
def Dom.scrubTakeover (d : Dom) (bin flips : Nat) : Dom :=
  let b := bin % 64
  if d.q.scrubs && decide (63 ≤ Store.getD d.q.memctl.denied b 0) then d.scrubAccess b flips else d

/-! ## Patrol scrub (R335, R336) -/

/-- Units of 256 bytes of a stack. -/
def Polder.stackUnits (q : Polder) : Nat :=
  match q.fuses.sku with
  | .jt4x128 => 0x4000000
  | _ => 0x6000000

/-- Address of unit `k` of a stack: bit 8 of the address is the one that R332 makes select the stack. -/
def Polder.unitAt (q : Polder) (st : Ix2) (k : Nat) : Nat :=
  if q.memctl.single then hbmBase + 256 * k
  else
    let a := hbmBase + 512 * k
    if q.stackOf a = st then a else a + 256

/-- Whether a stack's controller serves requests: not on SAFE, where it issues refresh alone, nor while it holds requests with the stack in
self-refresh (R133, R350, R351). -/
def Polder.stackServes (q : Polder) (st : Ix2) : Bool :=
  q.memctl.up.at st && !q.memctl.held.at st && !q.clocks.stopped && !q.clocks.safe

/-- The next patrol read of a stack; corrections that wait are written back first. -/
def Dom.patrol (d : Dom) (st : Ix2) (flips : Nat) : Dom :=
  if !bitOf (d.q.stored Off.hbmCfg) 0 || !d.q.stackServes st then d
  else
    let d1 := (d.q.memctl.back.filter (fun u => decide (hbmBase ≤ u) && decide (d.q.stackOf u = st))).foldl (fun d u => d.writeBack u 32) d
    let k := d1.q.memctl.patrolPos.at st
    let a := d1.q.unitAt st k
    let n := d1.q.stackUnits
    let d2 := ((d1.inject a 32 flips).scrubRead .hbm a 256).onMem (fun m => { m with
      patrolPos := m.patrolPos.put st (if k + 1 < n then k + 1 else 0) })
    if k + 1 < n then d2 else d2.bump (Off.memCount 7) 1

/-! ## Telemetry, parity, retraining (R337, R350, R351) -/

/-- HBM_TELEMETRY_READ: temperatures in °C. -/
def Dom.readTemp (d : Dom) (st : Ix2) (t : Nat) : Dom :=
  if d.q.stackServes st then
    let d1 := d.onMem (fun m => { m with temp := m.temp.put st t, doubled := m.doubled.put st (decide (85 ≤ t)) })
    if 95 ≤ t then d1.stick Off.memSticky 128 else d1
  else d

def Dom.telemetry (d : Dom) (temps : Duo Nat) : Dom := (d.readTemp .z temps.fst).readTemp .o temps.snd

/-- SCRUB_FORCED: after 4096 deferrals the background request goes ahead of foreground. -/
def Dom.forceBackground (d : Dom) (st : Ix2) (req : Background) : Dom :=
  if d.q.stackServes st then
    let d1 := (d.bump (Off.memCount 6) 1).stick Off.memSticky 64
    match req with
    | .telemetry t => d1.readTemp st t
    | .patrol flips => d1.patrol st flips
  else d

/-- New requests of a stack are held, the stack goes into self-refresh, and it retrains (R350): `held` says both. -/
def Dom.retrain (d : Dom) (st : Ix2) : Dom :=
  if d.q.memctl.up.at st then
    (d.onMem (fun m => { m with held := m.held.put st true, parity := m.parity.put st 0 })).bump (Off.memCount 8) 1
  else d

/-- HBM_PARITY: `run` consecutive commands met a parity error. -/
def Dom.parityErrors (d : Dom) (st : Ix2) (run : Nat) : Dom :=
  if d.q.stackServes st then
    let d1 := (d.bump (Off.memCount 9) run).onMem (fun m => { m with parity := m.parity.put st run })
    if 16 ≤ run then d1.retrain st else d1
  else d

/-- HBM_PLL_UNLOCK (R145, R350). -/
def Dom.pllUnlock (d : Dom) (st : Ix2) : Dom := (d.stick Off.clkSticky (16 * 2 ^ st.toNat)).retrain st

/-- HBM_RETRAIN_DONE: the held requests go on, or the retrain failed: a third failure within 1 s takes the stack down. -/
def Dom.retrained (d : Dom) (st : Ix2) (ok : Bool) : Dom :=
  if !d.q.memctl.held.at st then d
  else if ok then d.onMem (fun m => { m with held := m.held.put st false })
  else
    let f := (d.q.memctl.fails.at st).filter (fun t => decide (d.now < t + 1000000000)) ++ [d.now]
    if 3 ≤ f.length then
      (d.onMem (fun m => { m with
        fails := m.fails.put st f, held := m.held.put st false, up := m.up.put st false, down := m.down.put st true })).stick
        Off.memSticky (256 * 2 ^ st.toNat)
    else (d.onMem (fun m => { m with fails := m.fails.put st f })).bump (Off.memCount 8) 1

def execMaintenanceAccess (p : Ix4) (bin : Nat) (wh host : Bool) (flips : Nat) (s : State) : Host.Outcome State Fault Refusal :=
  .next (s.actOn p (·.maintenance bin wh host flips))

def execGranScrubTakeover (p : Ix4) (bin flips : Nat) (s : State) : Host.Outcome State Fault Refusal :=
  .next (s.actOn p (·.scrubTakeover bin flips))

def execPatrolRead (p : Ix4) (st : Ix2) (flips : Nat) (s : State) : Host.Outcome State Fault Refusal :=
  .next (s.actOn p (·.patrol st flips))

def execScrubForced (p : Ix4) (st : Ix2) (req : Background) (s : State) : Host.Outcome State Fault Refusal :=
  .next (s.actOn p (·.forceBackground st req))

def execHbmTelemetryRead (p : Ix4) (temps : Duo Nat) (s : State) : Host.Outcome State Fault Refusal :=
  .next (s.actOn p (·.telemetry temps))

def execHbmParity (p : Ix4) (st : Ix2) (run : Nat) (s : State) : Host.Outcome State Fault Refusal :=
  .next (s.actOn p (·.parityErrors st run))

def execHbmPllUnlock (p : Ix4) (st : Ix2) (s : State) : Host.Outcome State Fault Refusal := .next (s.act p (·.pllUnlock st))

def execHbmRetrainDone (p : Ix4) (st : Ix2) (ok : Bool) (s : State) : Host.Outcome State Fault Refusal :=
  .next (s.act p (·.retrained st ok))

end Sys2Proof.Machine
end

