-- ==== Sys2Proof/Machine/Image.lean ====
section
/-!
DEFINITION. Machine/Image.lean: Charter images and the flash (02_charter.md): the header and signature checks of R45, the mode of
R38 step 3, the records of R48 and the framing scan of R586.
-/
namespace Sys2Proof.Machine

/-- What an image is checked against (R45, R47, R54). -/
structure Target where
  warden : Bool
  maxLen : Nat
  maxLanes : Nat
  sku : Sku
  index : Nat
  serial : Nat
  keyHash : BitVec 384
  rollback : Nat
deriving DecidableEq, Repr

def Polder.target (q : Polder) : Target :=
  ⟨false, 33554432, 3, q.fuses.sku, q.fuses.index.toNat, q.fuses.serial.toNat, q.fuses.keyHash, q.charter.rollbackFuse⟩

/-- The bytes of a slot from `ofs` on: those the rewrite service left there, or else those given; a flash reads all-ones where nothing
is programmed. -/
def slotBytes (left : Option (List Byte)) (given : List Byte) (ofs n : Nat) : List Byte :=
  let bs := match left with
    | some l => (l.drop ofs).take n
    | none => given.take n
  bs ++ List.replicate (n - bs.length) 0xFF#8

/-! ## Header checks (R43, R45) -/

def magicOk (bs : List Byte) (ofs : Nat) (m : List Byte) : Bool := decide ((bs.drop ofs).take 4 = m)

def imageLen (h : List Byte) : Nat := fieldAt h 8 4

/-- R45 check 2. -/
def Target.accepts (t : Target) (h : List Byte) : Bool :=
  let mask := fieldAt h 0x16 1
  decide (fieldAt h 6 1 = bit t.warden) && bitOf (fieldAt h 0x15 1) (t.sku.code - 1)
    && (if t.warden then decide (mask = 1) else bitOf mask t.index)
    && (decide (fieldAt h 0x20 8 = 0) || decide (fieldAt h 0x20 8 = t.serial))

/-- The cause that the header meets, 0 for none. -/
def Target.headerCause (t : Target) (density : Nat) (h : List Byte) : Nat :=
  let n := imageLen h
  if h.all (· == 0xFF#8) then 1
  else if !magicOk h 0 [0x4A, 0x54, 0x43, 0x48] || fieldAt h 4 2 ≠ 1 then 2
  else if n < 328 || t.maxLen < n || n % 8 ≠ 0 || fieldAt h 0xC 4 ≠ n - 320 || density / 2 < n then 3
  else if !t.accepts h then 4
  else if 64 < fieldAt h 0x14 1 then 7
  else 0

/-- The LANES code of R38 step 3. -/
def pickLanes (f : Sfdp) (want : Nat) : Nat :=
  ([3, 2, 1].find? (fun c => decide (c ≤ want) && f.lanes.contains c && (decide (c ≠ 3) || f.octal))).getD 0

/-- The mode of a slot's body: LANES, SCK at 50 MHz, and whether the port can enter it (R576). -/
def Target.mode (t : Target) (f : Sfdp) (h : List Byte) : Nat × Bool × Bool :=
  let link := fieldAt h 7 1
  let c := pickLanes f (min (link % 4) t.maxLanes)
  (c, bitOf link 4 && decide (c ≠ 0) && f.sck50, decide (c ≠ 3) || f.dqs)

/-- The cause that step 5 of R38 meets on a whole image, 0 for none. -/
def Target.imageCause (t : Target) (img : List Byte) : Nat :=
  let sg := img.drop (img.length - 256)
  let pub := (sg.drop 8).take 96
  if !magicOk sg 0 [0x4A, 0x54, 0x53, 0x47] || fieldAt sg 4 4 ≠ 0x384 then 2
  else if BitVec.ofNat 384 (leNat (sha384 pub)) ≠ t.keyHash then 5
  else if !ecdsaVerify (beNat (pub.take 48)) (beNat (pub.drop 48)) (beNat ((sg.drop 0x68).take 48)) (beNat ((sg.drop 0x98).take 48))
      (img.take (img.length - 256)) then 6
  else if fieldAt img 0x14 1 < t.rollback then 7
  else 0

/-- The value ROLLBACK_FUSE has once an accepted image is applied (R47). -/
def Target.committed (t : Target) (h : List Byte) : Nat :=
  if bitOf (fieldAt h 0x17 1) 0 then max t.rollback (fieldAt h 0x14 1) else t.rollback

/-! ## Records (R48, R586, R587) -/

/-- A record: where its header lies in the image, TYPE, RFLAGS and payload. -/
structure Rec where
  ofs : Nat
  typ : Nat
  flags : Nat
  payload : List Byte
deriving DecidableEq, Repr

def Rec.known (r : Rec) : Bool := (decide (1 ≤ r.typ) && decide (r.typ ≤ 7)) || decide (r.typ = 0x7FFF)

/-- The framing scan from byte `ofs` of the image, `body` being the bytes from there to the signature block and `left` the records of
RECORD_COUNT still to come: the records up to END, or the offset at which the scan fails. An END with a payload fails it (R49). -/
def scanBody : (fuel : Nat) → (ofs : Nat) → (body : List Byte) → (left : Nat) → Except Nat (List Rec)
  | 0, ofs, _, _ => .error ofs
  | f + 1, ofs, body, left =>
    let n := fieldAt body 4 4
    let size := 8 + ceilDiv n 8 * 8
    let r : Rec := ⟨ofs, fieldAt body 0 2, fieldAt body 2 2, (body.drop 8).take n⟩
    if body.length < 8 || body.length < size || left = 0 then .error ofs
    else if r.typ = 0x7FFF then (if left = 1 && n = 0 && body.length = size then .ok [r] else .error ofs)
    else if !r.known && !bitOf r.flags 0 then .error ofs
    else match scanBody f (ofs + size) (body.drop size) (left - 1) with
      | .ok rs => .ok (r :: rs)
      | .error e => .error e

/-- The records of an image. -/
def imageRecs (img : List Byte) : Except Nat (List Rec) :=
  let body := (img.drop 64).take (img.length - 320)
  scanBody (body.length / 8 + 1) 64 body (fieldAt img 0x10 4)

/-- The entries of a REG record: offset and value. -/
def Rec.regs (r : Rec) : List (Nat × Nat) :=
  (pieces 8 r.payload.length r.payload).map (fun p => (fieldAt p 0 4, fieldAt p 4 4))

/-- Whether the payload of a REG record keeps R584. -/
def Rec.regsOk (r : Rec) : Bool :=
  decide (r.payload.length % 8 = 0) && r.regs.all (fun e => decide (e.1 % 4 = 0) && decide (e.1 < 2 ^ 22))

end Sys2Proof.Machine
end

