-- ==== Sys2Proof/Machine/CharterLoad.lean ====
section
/-!
DEFINITION. Machine/CharterLoad.lean: the boot states CHARTER, HBMTRAIN and the entry into BASINJOIN (02_charter.md R38 to R62, R584;
04_start_up_and_reset.md R97 to R104): how a polder reads, checks and applies its Charter.
-/
namespace Sys2Proof.Machine

def Dom.onCharter (d : Dom) (f : Charter → Charter) : Dom := d.on (fun q => { q with charter := f q.charter })

/-- A range of memory zero-filled, with good ECC (R98, R101). -/
def Polder.wipe (q : Polder) (lo len : Nat) : Polder :=
  { q with
    mem := q.mem.fill lo len none
    memctl := { q.memctl with errs := q.memctl.errs.filter (fun e => !(decide (lo ≤ e.1) && decide (e.1 < lo + len))) } }

/-- The first byte of the top `n` bins. -/
def stagingBase (n : Nat) : Nat := 0x8000000 - n * 0x200000

/-- `n` bins are staged in: their contents are unspecified (R41). -/
def Polder.stage (q : Polder) (n : Nat) : Polder :=
  let m := max n q.charter.staged
  let q1 := q.unspecified (stagingBase n) (n * 0x200000)
  { q1 with charter := { q1.charter with staged := m } }

/-- The flash goes into deep power-down and every bin staged in is zeroed (R38 step 8, R61). -/
def Polder.closeFlash (q : Polder) : Polder :=
  let q1 := q.wipe (stagingBase q.charter.staged) (q.charter.staged * 0x200000)
  { q1 with charter := { q1.charter with dpd := true, lock := true, phase := .over, header := [], deferred := [] } }

/-- The cause of the slot being read. -/
def Charter.setCause (c : Charter) (cause : Nat) : Charter :=
  if c.slotB then { c with causeB := BitVec.ofNat 8 cause } else { c with causeA := BitVec.ofNat 8 cause }

/-- The polder strands from the slot being read (R61). -/
def Dom.strand (d : Dom) (cause ofs : Nat) : Dom :=
  ((d.onCharter (fun c => { c.setCause cause with failOfs := ofs })).on (·.closeFlash)).boot .stranded

/-- A slot fails: causes up to 0x08 on slot A are tried again on slot B (R46, R61). -/
def Dom.slotFails (d : Dom) (cause : Nat) : Dom :=
  if !d.q.charter.slotB ∧ cause ≤ 8 then
    d.onCharter (fun c => { c.setCause cause with slotB := true, phase := .sfdp, header := [] })
  else d.strand cause 0

/-- CHARTER_ZERO_FILL_DONE: step 1 begins with 0xAB (R38, R65). -/
def Dom.zeroFilled (d : Dom) : Dom :=
  if d.q.boot = .charter ∧ d.q.charter.phase = .zeroFill then
    (d.on (fun q => (q.wipe 0 0x8000000).wipe counterBase counterSize)).onCharter (fun c => { c with phase := .sfdp, dpd := false })
  else d

/-- CHARTER_SFDP_READ. -/
def Dom.sfdpRead (d : Dom) (f : Sfdp) : Dom :=
  if d.q.boot = .charter ∧ d.q.charter.phase = .sfdp then
    let d1 := d.onCharter (fun c => { c with sfdp := f, dpd := false })
    if f.valid then d1.onCharter (fun c => { c with phase := .header }) else d1.slotFails 1
  else d

/-- What the rewrite service left in the slot being read. -/
def Charter.left (c : Charter) : Option (List Byte) := if c.slotB then c.flashB else c.flashA

/-- CHARTER_HEADER_READ: the header checks, and the mode of step 3. Whether 8D-8D-8D always takes 4-byte addresses the spec does not say: ADDR4
follows the density, above 128 Mbit, in every mode (log entry 108). -/
def Dom.headerRead (d : Dom) (bytes : List Byte) : Dom :=
  if d.q.boot = .charter ∧ d.q.charter.phase = .header then
    let c := d.q.charter
    let h := slotBytes c.left bytes 0 64
    let t := d.q.target
    let d1 := d.on (·.stage 1)
    let cause := t.headerCause c.sfdp.density h
    if cause ≠ 0 then d1.slotFails cause
    else
      let m := t.mode c.sfdp h
      if m.2.2 then
        d1.onCharter (fun c => { c with
          phase := .body, header := h, lanes := m.1, sck50 := m.2.1, addr4 := decide (0x1000000 < c.sfdp.density) })
      else d1.slotFails 8
  else d

/-! ## Records (R49, R50, R584) -/

def Dom.charterWrites (d : Dom) (es : List (Nat × Nat)) : Dom := es.foldl (fun d e => d.charterWrite e.1 e.2) d

/-- REG. -/
def Dom.recReg (d : Dom) (r : Rec) : Dom × Nat := if r.regsOk then (d.charterWrites r.regs, 0) else (d, 9)

/-- Whether a block's destination lies in the HBM part of the map (R20), so that it waits for step 7. -/
def hbmDest (dest : Nat) : Bool := decide (hbmBase ≤ dest) && decide (dest < 0xD00000000)

/-- Whether a Granary or Counter block may be written at its destination (R50). A block of no bytes is bound by its destination as any other:
outside every permitted region it fails, though no byte of it lies there (log entry 109). -/
def Polder.blockFits (q : Polder) (dest n : Nat) : Bool :=
  (decide (dest + n ≤ stagingBase (ceilDiv q.charter.imageLen 0x200000)))
    || (decide (counterBase ≤ dest) && decide (dest + n ≤ counterBase + counterSize))

/-- BLOCK: applied at once, or kept for step 7; a block for HBM is checked at the end of step 6 (R50). -/
def Dom.recBlock (d : Dom) (r : Rec) : Dom × Nat :=
  let dest := fieldAt r.payload 0 8
  let data := r.payload.drop 8
  if r.payload.length < 8 then (d, 9)
  else if hbmDest dest then (d.onCharter (fun c => { c with deferred := c.deferred ++ [⟨dest, data⟩] }), 0)
  else if dest % 8 = 0 ∧ d.q.blockFits dest data.length then ((d.deposit dest data).1, 0)
  else (d, 0xA)

/-- HBMTRAIN. -/
def Dom.recTrain (d : Dom) (r : Rec) : Dom × Nat :=
  let p := r.payload
  let mask := fieldAt p 0 1
  let rate := fieldAt p 1 1
  let pass := fieldAt p 4 4
  if p.length ≠ 8 ∨ mask = 0 ∨ 3 < mask ∨ (1 ≤ rate ∧ rate ≤ 31) ∨ pass = 0 ∨ 65535 < pass then (d, 9)
  else
    let d1 := d.onCharter (fun c => { c with
      stackMask := mask, rate := rate, patrolEn := bitOf (fieldAt p 2 1) 0, extended := bitOf (fieldAt p 2 1) 1,
      patrolPass := pass, trainOfs := r.ofs })
    (d1.on (fun q => ({ q with memctl := { q.memctl with single := decide (mask ≠ 3) } } : Polder).store Off.hbmCfg
      (fieldAt p 2 1 % 2 + 65536 * pass)), 0)

/-- ROSTER. -/
def Dom.recRoster (d : Dom) (r : Rec) : Dom × Nat :=
  let n := fieldAt r.payload 4 4
  if r.payload.length < 8 ∨ 4096 < n ∨ r.payload.length ≠ 8 + 4 * n then (d, 9)
  else
    let es := (pieces 4 n (r.payload.drop 8)).map (fun p => BitVec.ofNat 18 (leNat p))
    (((d.charterWrite 0xC (fieldAt r.payload 0 4 % 2 ^ 18)).on (fun q => { q with lock := { q.lock with roster := es } })).onCharter
      (fun c => { c with hasRoster := true }), 0)

/-- Offset and number of words of key slot `id`. -/
def keySlot (id : Nat) : Nat × Nat :=
  match id with
  | 0 => (0x10080, 4) | 1 => (0x10090, 4) | 2 => (0x100A0, 8) | _ => (0x100C0, 8)

/-- KEY. -/
def Dom.recKey (d : Dom) (r : Rec) : Dom × Nat :=
  let id := fieldAt r.payload 0 1
  let k := keySlot id
  if 3 < id ∨ r.payload.length ≠ 4 + 4 * k.2 then (d, 9)
  else (d.charterWrites ((List.range k.2).map (fun i => (k.1 + 4 * i, fieldAt r.payload (4 + 4 * i) 4))), 0)

/-- TIDE. -/
def Dom.recTide (d : Dom) (r : Rec) : Dom × Nat :=
  let per := fieldAt r.payload 0 4
  let slack := fieldAt r.payload 4 4
  let wl := fieldAt r.payload 8 1
  if r.payload.length ≠ 12 ∨ per < 10 ∨ 100000 < per ∨ per ≤ slack ∨ wl < 16 ∨ 40 < wl then (d, 9)
  else (d.charterWrites [(Off.tidePeriod, per), (Off.slack, slack), (Off.watchLog2, wl)], 0)

/-- FENCE: an entry that is written is enabled. -/
def Dom.recFence (d : Dom) (r : Rec) : Dom × Nat :=
  let es := pieces 24 r.payload.length r.payload
  let ok (e : List Byte) : Bool :=
    decide (fieldAt e 0 8 % 4096 = 0) && decide (fieldAt e 8 8 % 4096 = 4095) && decide (fieldAt e 0 8 < 2 ^ 48)
      && decide (fieldAt e 8 8 < 2 ^ 48) && decide (fieldAt e 19 1 ≤ 31)
  if r.payload.length % 24 ≠ 0 ∨ !es.all ok then (d, 9)
  else
    (d.on (fun q => es.foldl (fun q e =>
      let o := Off.fence (fieldAt e 19 1)
      ((q.store64 o (fieldAt e 0 8)).store64 (o + 8) (fieldAt e 8 8)).store (o + 0x10)
        (fieldAt e 16 2 % 512 + 65536 * (fieldAt e 18 1 % 4) + 2 ^ 31)) q), 0)

def Dom.applied (d : Dom) (n : Nat) : Dom := d.onCharter (fun c => { c with applied := c.applied + n })

/-- One record applied: the polder, and the cause it meets, 0 for none. -/
def Dom.applyRec (d : Dom) (r : Rec) : Dom × Nat :=
  match r.typ with
  | 1 => d.recReg r
  | 2 => d.recBlock r
  | 3 => d.recTrain r
  | 4 => d.recRoster r
  | 5 => d.recKey r
  | 6 => d.recTide r
  | 7 => d.recFence r
  | _ => (d, 0)

/-- Whether CHARTER_APPLIED counts a record in step 6: not one that is skipped, nor a block that waits for step 7. END is counted as a record of
its own, on which the spec is silent (log entry 110). -/
def Rec.countsNow (r : Rec) : Bool := r.known && !(decide (r.typ = 2) && hbmDest (fieldAt r.payload 0 8))

/-- The records in order, up to one that fails: its cause and offset. -/
def Dom.applyRecs (d : Dom) : List Rec → Dom × Option (Nat × Nat)
  | [] => (d, none)
  | r :: rs =>
    let x := d.applyRec r
    if x.2 ≠ 0 then (x.1, some (x.2, r.ofs))
    else (if r.countsNow then x.1.applied 1 else x.1).applyRecs rs

/-- The first block for HBM whose destination R50 does not permit, at the end of step 6: no multiple of 8, or not all in the populated HBM below
the sluice-pool region. -/
def Polder.badBlock (q : Polder) (rs : List Rec) : Option Rec :=
  rs.find? (fun r => decide (r.typ = 2) && hbmDest (fieldAt r.payload 0 8)
    && (decide (fieldAt r.payload 0 8 % 8 ≠ 0) || decide (q.poolBase < fieldAt r.payload 0 8 + (r.payload.length - 8))))

/-- Step 6 of R38 on a scanned image, and the entry into HBMTRAIN, where the Root PLL locks (R99). -/
def Dom.applyImage (d : Dom) (rs : List Rec) : Dom :=
  let x := d.applyRecs rs
  match x.2 with
  | some (cause, ofs) => x.1.strand cause ofs
  | none =>
    match x.1.q.badBlock rs with
    | some r => x.1.strand 0xA r.ofs
    | none =>
      (((x.1.onCharter (fun c => { c with phase := .training })).onClocks (fun c => { c.askRelock with boot := true }))).boot .hbmtrain

/-- CHARTER_BODY_READ: steps 4 to 6 of R38. CHARTER_LEN, CHARTER_BUILD and IMAGE_ROLLBACK take the values of the image once it passes R45, even
where the framing scan then fails and no record is applied; the spec does not say at which point they change (log entry 111). -/
def Dom.bodyRead (d : Dom) (rd : BodyRead) : Dom :=
  if d.q.boot = .charter ∧ d.q.charter.phase = .body then
    let c := d.q.charter
    let n := imageLen c.header
    let d1 := d.on (·.stage (ceilDiv n 0x200000))
    if !rd.ok then d1.slotFails 8
    else
      let img := c.header ++ slotBytes c.left rd.bytes 64 (n - 64)
      let t := d.q.target
      let cause := t.imageCause img
      if cause ≠ 0 then d1.slotFails cause
      else
        let d2 := d1.onCharter (fun c => { c with
          imageLen := n, build := BitVec.ofNat 64 (fieldAt img 0x18 8), imageRollback := fieldAt img 0x14 1
          rollbackFuse := t.committed img })
        match imageRecs img with
        | .error ofs => d2.strand 9 ofs
        | .ok rs => d2.applyImage rs
  else d

/-! ## HBMTRAIN (R99 to R101) -/

/-- Whether step 7 runs: the Root PLL has released its outputs after step 6. -/
def Polder.trains (q : Polder) : Bool :=
  decide (q.boot = .hbmtrain) && decide (q.charter.phase = .training) && !q.clocks.boot && q.clocks.locked

/-- HBM_TRAINING_DONE: the enabled stacks are up and the zero fill starts. A stack that is DOWN fails training (R351). -/
def Dom.trained (d : Dom) : Dom :=
  let m := d.q.charter.stackMask
  if !d.q.trains then d
  else if (bitOf m 0 && d.q.memctl.down.fst) || (bitOf m 1 && d.q.memctl.down.snd) then d.strand 0xB d.q.charter.trainOfs
  else (d.onMem (fun x => { x with up := ⟨bitOf m 0, bitOf m 1⟩ })).onCharter (fun c => { c with phase := .hbmFill })

/-- HBM_TRAINING_TIMEOUT: a stack has not trained in time, and the polder strands. -/
def Dom.trainLate (d : Dom) : Dom := if d.q.trains then d.strand 0xB d.q.charter.trainOfs else d

/-- BASINJOIN: both sluices listen for a beacon, or, with no ROSTER record, the polder is alone and opens at once (R102, R104). -/
def Dom.enterJoin (d : Dom) : Dom :=
  let d1 := (d.boot .basinjoin).on (fun q => { q with joinFrom := d.now })
  if d1.q.charter.hasRoster then (d1.listen .r).listen .c
  else { d1 with q := { d1.q with alone := true } }.openUp

/-- HBM_ZERO_FILL_DONE: the deferred blocks, step 8 of R38, the Ledger's free list (R386) and the groups that CHARTER_LOCK fixes. -/
def Dom.hbmFilled (d : Dom) : Dom :=
  if d.q.boot = .hbmtrain ∧ d.q.charter.phase = .hbmFill then
    let d1 := d.on (fun q => q.wipe hbmBase (q.hbmTop - hbmBase))
    let d2 := d.q.charter.deferred.foldl (fun d b => (d.deposit b.dest b.bytes).1.applied 1) d1
    ((d2.on (fun q => q.closeFlash.computeGroupOk)).onLedger (fun l => { l with built := true })).enterJoin
  else d

def execCharterZeroFillDone (p : Ix4) (s : State) : Host.Outcome State Fault Refusal := .next (s.actOn p Dom.zeroFilled)

def execCharterSfdpRead (p : Ix4) (f : Sfdp) (s : State) : Host.Outcome State Fault Refusal := .next (s.actOn p (·.sfdpRead f))

def execCharterHeaderRead (p : Ix4) (bytes : List Byte) (s : State) : Host.Outcome State Fault Refusal :=
  .next (s.actOn p (·.headerRead bytes))

def execCharterBodyRead (p : Ix4) (rd : BodyRead) (s : State) : Host.Outcome State Fault Refusal := .next (s.actOn p (·.bodyRead rd))

def execHbmTrainingDone (p : Ix4) (s : State) : Host.Outcome State Fault Refusal := .next (s.actOn p Dom.trained)

def execHbmTrainingTimeout (p : Ix4) (s : State) : Host.Outcome State Fault Refusal := .next (s.actOn p Dom.trainLate)

def execHbmZeroFillDone (p : Ix4) (s : State) : Host.Outcome State Fault Refusal := .next (s.actOn p Dom.hbmFilled)

end Sys2Proof.Machine
end

