-- ==== Sys2Proof/Machine/Csr.lean ====
section
/-!
DEFINITION. Machine/Csr.lean: the registers of a clerk hart, its control and status registers, traps, returns, pending interrupts and PMP
(16_clerks.md R488 to R490, R496, R500; the layout is that of the RISC-V manuals R488 names, log entry 26).
-/
namespace Sys2Proof.Machine

def Priv.code : Priv → Nat
  | .u => 0 | .s => 1 | .m => 3

/-- The mode of an MPP field. -/
def Priv.of (n : Nat) : Priv :=
  match n % 4 with
  | 0 => .u | 1 => .s | _ => .m

def Dom.hart (d : Dom) (h : Ix4) : Hart := d.q.clerks.harts.get h

def Dom.onHart (d : Dom) (h : Ix4) (f : Hart → Hart) : Dom :=
  d.on (fun q => { q with clerks := { q.clerks with harts := q.clerks.harts.set h (f (q.clerks.harts.get h)) } })

/-! ## Integer and floating-point registers -/

def Hart.getX (x : Hart) (r : Nat) : Nat := if r % 32 = 0 then 0 else (Store.getD x.x (r % 32) 0).toNat

/-- A write to x0 is discarded. -/
def Hart.putX (x : Hart) (r v : Nat) : Hart := if r % 32 = 0 then x else { x with x := Store.put x.x (r % 32) (cell v) 0 }

def Hart.getF (x : Hart) (r : Nat) : Nat := (Store.getD x.f (r % 32) 0).toNat

/-! ## CSRs -/

/-- Reset values other than 0: mstatus has 64-bit S and U modes. -/
def csrReset (c : Nat) : Nat := if c = 0x300 then 0xA00000000 else 0

def Hart.csrWord (x : Hart) (c : Nat) : Nat := (Store.getD x.csr c (cell (csrReset c))).toNat

def Hart.setCsr (x : Hart) (c v : Nat) : Hart := { x with csr := Store.put x.csr c (cell v) (cell (csrReset c)) }

/-- mstatus.FS. -/
def Hart.fs (x : Hart) : Nat := bitsOf (x.csrWord 0x300) 14 13

/-- FS becomes dirty, since a register f or fcsr is written. -/
def Hart.dirtyFs (x : Hart) : Hart := x.setCsr 0x300 (x.csrWord 0x300 ||| 0x6000)

/-- A register f written. -/
def Hart.putF (x : Hart) (r v : Nat) : Hart := { x with f := Store.put x.f (r % 32) (cell v) 0 }.dirtyFs

/-- misa: RV64 with A, C, D, F, I, M, S and U. -/
def misaValue : Nat := 2 * 2 ^ 62 + 0x14112D

/-- Whether the harts have a CSR. -/
def csrExists (c : Nat) : Bool :=
  (decide (1 ≤ c) && decide (c ≤ 3)) || (decide (0xC00 ≤ c) && decide (c ≤ 0xC1F)) || [0xCC0, 0xCC1].contains c
    || [0x100, 0x104, 0x105, 0x106, 0x10A, 0x140, 0x141, 0x142, 0x143, 0x144, 0x180].contains c
    || (decide (0x300 ≤ c) && decide (c ≤ 0x306)) || [0x30A, 0x340, 0x341, 0x342, 0x343, 0x344].contains c
    || (decide (0x320 ≤ c) && decide (c ≤ 0x33F) && decide (c ≠ 0x321) && decide (c ≠ 0x322))
    || [0x3A0, 0x3A2].contains c || (decide (0x3B0 ≤ c) && decide (c ≤ 0x3BF))
    || (decide (0xB00 ≤ c) && decide (c ≤ 0xB1F) && decide (c ≠ 0xB01)) || (decide (0xF11 ≤ c) && decide (c ≤ 0xF15))

/-- Pending interrupts of a hart, as mip reads (R498, R500). -/
def Polder.mip (q : Polder) (h : Ix4) : Nat :=
  let n := h.toNat
  let ext (x : Nat) : Bool := match q.plicBest x with
    | some s => decide ((Store.getD q.clerks.plic.threshold x 0).toNat < q.clerks.plic.priority s)
    | none => false
  (8 * bit (bitOf (q.stored (Off.msip n)) 0) + 128 * bit (decide (q.stored64 (Off.mtimecmp n) ≤ q.clerks.mtime))
    + 2048 * bit (ext (2 * n))) + ((q.clerks.harts.get h).csrWord 0x344 &&& 0x222 ||| 512 * bit (ext (2 * n + 1)))

/-- Byte n of the PMP configuration registers. -/
def Hart.pmpCfg (x : Hart) (n : Nat) : Nat := x.csrWord (0x3A0 + n / 8 * 2) / 2 ^ (8 * (n % 8)) % 256

/-- What pmpaddr `n` reads as with a granularity of 4 KiB: its low bits are ones in NAPOT mode and zeros in the others, whatever it holds. -/
def Hart.pmpAddr (x : Hart) (n : Nat) : Nat :=
  let v := x.csrWord (0x3B0 + n)
  if 2 ≤ bitsOf (x.pmpCfg n) 4 3 then v ||| 0x1FF else without v 0x3FF

/-- What a CSR reads as; the counters of cycles and instructions follow execution that the model does not count, and are free. -/
def Dom.csrRead (d : Dom) (h : Ix4) (c : Nat) : Dom × Nat :=
  let x := d.hart h
  let st := x.csrWord 0x300 + 2 ^ 63 * bit (decide (x.fs = 3))
  if c = 0xF13 then (d, d.q.regRead 0)
  else if c = 0xF14 then (d, h.toNat)
  else if c = 0x301 then (d, misaValue)
  else if c = 0xCC0 then (d, d.q.wharf.tide)
  else if c = 0xCC1 then (d, d.basinNs)
  else if c = 0xC01 then (d, d.q.clerks.mtime)
  else if c = 0xC00 ∨ c = 0xC02 ∨ c = 0xB00 ∨ c = 0xB02 then
    let f := d.q.free
    ({ d with q := f.2 }, f.1.toNat)
  else if c = 0x300 then (d, st)
  else if c = 0x100 then (d, st &&& 0x80000003000C6122)
  else if c = 0x344 then (d, d.q.mip h)
  else if c = 0x144 then (d, d.q.mip h &&& x.csrWord 0x303)
  else if c = 0x104 then (d, x.csrWord 0x304 &&& x.csrWord 0x303)
  else if c = 1 then (d, x.csrWord 3 % 32)
  else if c = 2 then (d, x.csrWord 3 / 32 % 8)
  else if 0x3B0 ≤ c ∧ c ≤ 0x3BF then (d, x.pmpAddr (c - 0x3B0))
  else (d, x.csrWord c)

/-- A byte of a PMP configuration register as it may be written: a locked byte stays, and a reserved encoding keeps its old permissions
or mode. NA4 cannot be selected with a granularity of 4 KiB. -/
def pmpByte (old new : Nat) : Nat :=
  if bitOf old 7 then old
  else
    let rwx := if bitOf new 1 && !bitOf new 0 then old % 8 else new % 8
    let a := if bitsOf new 4 3 = 2 then bitsOf old 4 3 else bitsOf new 4 3
    rwx + 8 * a + 128 * bit (bitOf new 7)

/-- Whether pmpaddr `n` is locked, by its own entry or by a locked TOR entry above it. -/
def Hart.pmpLocked (x : Hart) (n : Nat) : Bool :=
  bitOf (x.pmpCfg n) 7 || (decide (n < 15) && bitOf (x.pmpCfg (n + 1)) 7 && decide (bitsOf (x.pmpCfg (n + 1)) 4 3 = 1))

/-- The CBIE field of an envcfg register as it may be written (R493). -/
def envcfgPut (old new : Nat) : Nat :=
  let v := new &&& 0x71
  if bitsOf new 5 4 = 2 then (without v 0x30) + (old &&& 0x30) else v

/-- A CSR written, each field as it may be; a read-only one ignores it. -/
def Hart.csrWrite (x : Hart) (c v : Nat) : Hart :=
  let old := x.csrWord c
  let st := x.csrWord 0x300
  if c / 1024 = 3 ∨ !csrExists c then x
  else if c = 1 then (x.setCsr 3 (blend (x.csrWord 3) v 0x1F)).dirtyFs
  else if c = 2 then (x.setCsr 3 (blend (x.csrWord 3) (32 * (v % 8)) 0xE0)).dirtyFs
  else if c = 3 then (x.setCsr 3 (v % 256)).dirtyFs
  else if c = 0x100 then x.setCsr 0x300 (blend st v 0xC6122)
  else if c = 0x104 then x.setCsr 0x304 (blend (x.csrWord 0x304) v (x.csrWord 0x303))
  else if c = 0x144 then x.setCsr 0x344 (blend (x.csrWord 0x344) v (x.csrWord 0x303 &&& 2))
  else if c = 0x300 then x.setCsr 0x300 (blend st v (if bitsOf v 12 11 = 2 then 0x7E61AA else 0x7E79AA))
  else if c = 0x301 then x
  else if c = 0x302 then x.setCsr c (v &&& 0xB3FF)
  else if c = 0x303 ∨ c = 0x344 then x.setCsr c (v &&& 0x222)
  else if c = 0x304 then x.setCsr c (v &&& 0xAAA)
  else if c = 0x105 ∨ c = 0x305 then (if v % 4 < 2 then x.setCsr c v else x.setCsr c (v / 4 * 4 + old % 4))
  else if c = 0x141 ∨ c = 0x341 then x.setCsr c (v / 2 * 2)
  else if c = 0x106 ∨ c = 0x306 ∨ c = 0x320 then x.setCsr c (v % 2 ^ 32)
  else if c = 0x10A ∨ c = 0x30A then x.setCsr c (envcfgPut old v)
  else if c = 0x180 then (if v / 2 ^ 60 = 0 ∨ v / 2 ^ 60 = 8 then x.setCsr c v else x)
  else if c = 0x3A0 ∨ c = 0x3A2 then
    x.setCsr c ((List.range 8).map (fun i => pmpByte (old / 2 ^ (8 * i) % 256) (v / 2 ^ (8 * i) % 256) * 2 ^ (8 * i))).sum
  else if 0x3B0 ≤ c ∧ c ≤ 0x3BF then (if x.pmpLocked (c - 0x3B0) then x else x.setCsr c (v % 2 ^ 54))
  else if (0x323 ≤ c ∧ c ≤ 0x33F) ∨ (0xB00 ≤ c ∧ c ≤ 0xB1F) then x
  else x.setCsr c v

/-! ## Traps and returns -/

/-- A trap to M-mode, or to S-mode where it is delegated. -/
def Hart.trap (x : Hart) (int : Bool) (cause epc tval : Nat) : Hart :=
  let st := x.csrWord 0x300
  let code := cause + 2 ^ 63 * bit int
  let vec (tv : Nat) : BitVec 64 := cell (tv / 4 * 4 + (if int && decide (tv % 4 = 1) then 4 * cause else 0))
  if bitOf (x.csrWord (if int then 0x303 else 0x302)) cause ∧ x.priv ≠ .m then
    { ((((x.setCsr 0x142 code).setCsr 0x141 epc).setCsr 0x143 tval).setCsr 0x300
        (without st 0x122 + 0x20 * bit (bitOf st 1) + 0x100 * bit (decide (x.priv = .s)))) with
      priv := .s, pc := vec (x.csrWord 0x105) }
  else
    { ((((x.setCsr 0x342 code).setCsr 0x341 epc).setCsr 0x343 tval).setCsr 0x300
        (without st 0x1888 + 0x80 * bit (bitOf st 3) + 2048 * x.priv.code)) with
      priv := .m, pc := vec (x.csrWord 0x305) }

/-- MRET. -/
def Hart.mret (x : Hart) : Hart :=
  let st := x.csrWord 0x300
  let mode := Priv.of (bitsOf st 12 11)
  { x.setCsr 0x300 (without st (if mode = .m then 0x1888 else 0x21888) + 8 * bit (bitOf st 7) + 0x80) with
    priv := mode, pc := cell (x.csrWord 0x341) }

/-- SRET. -/
def Hart.sret (x : Hart) : Hart :=
  let st := x.csrWord 0x300
  { x.setCsr 0x300 (without st 0x20122 + 2 * bit (bitOf st 5) + 0x20) with
    priv := if bitOf st 8 then .s else .u, pc := cell (x.csrWord 0x141) }

/-- The interrupt that the hart takes at its next instruction boundary, if any. -/
def Polder.hartInterrupt (q : Polder) (h : Ix4) : Option Nat :=
  let x := q.clerks.harts.get h
  let pend := q.mip h &&& x.csrWord 0x304
  let toS := x.csrWord 0x303
  let st := x.csrWord 0x300
  let mOn := decide (x.priv ≠ .m) || bitOf st 3
  let sOn := decide (x.priv = .u) || (decide (x.priv = .s) && bitOf st 1)
  ([11, 3, 7, 9, 1, 5].find? (fun i => bitOf (without pend toS) i && mOn)).or
    ([11, 3, 7, 9, 1, 5].find? (fun i => bitOf (pend &&& toS) i && sOn))

/-! ## PMP (R496) -/

/-- Consecutive set bits of a number from bit 0 up. -/
def trailingOnes : (fuel : Nat) → Nat → Nat
  | 0, _ => 0
  | f + 1, v => if v % 2 = 1 then trailingOnes f (v / 2) + 1 else 0

/-- The addresses of a PMP entry, first and past the end. -/
def Hart.pmpRange (x : Hart) (n : Nat) : Option (Nat × Nat) :=
  let tor (i : Nat) : Nat := x.csrWord (0x3B0 + i) / 1024 * 4096
  match bitsOf (x.pmpCfg n) 4 3 with
  | 1 => some (if n = 0 then 0 else tor (n - 1), tor n)
  | 3 =>
    let v := x.csrWord (0x3B0 + n) ||| 0x1FF
    let k := trailingOnes 54 v
    some (v / 2 ^ (k + 1) * 2 ^ (k + 3), (v / 2 ^ (k + 1) + 1) * 2 ^ (k + 3))
  | _ => none

/-- Whether PMP permits an access in a mode; `perm` is 0 for a read, 1 for a write, 2 for a fetch. -/
def Hart.pmpOk (x : Hart) (pr : Priv) (perm a len : Nat) : Bool :=
  match (List.range 16).findSome? (fun n => match x.pmpRange n with
    | some r => if r.1 < a + len ∧ a < r.2 then some (n, r) else none
    | none => none) with
  | none => decide (pr = .m)
  | some (n, r) =>
    decide (r.1 ≤ a) && decide (a + len ≤ r.2) &&
      ((decide (pr = .m) && !bitOf (x.pmpCfg n) 7) || bitOf (x.pmpCfg n) perm)

end Sys2Proof.Machine
end

