-- ==== Sys2Proof/Machine/ClerkOps.lean ====
section
/-!
DEFINITION. Machine/ClerkOps.lean: what a clerk hart does with memory and its caches (16_clerks.md R490 to R506): Sv39 walks, PMP and the
attributes of R492, then the polder checks; loads, stores, AMOs, LR and SC, fetches, cache-block operations, FENCE, and mtime.
-/
namespace Sys2Proof.Machine

/-- How a step of a hart access ends: with a value, with an exception (0 address-misaligned, 1 access fault, 2 page fault), or held by an
impound. -/
inductive Got (α : Type) where
  | ok (v : α)
  | exc (k : Nat)
  | held

/-- What an access does. -/
inductive HartAcc where
  | fetch | load | store
deriving DecidableEq, Repr

/-- The exception code of an access. -/
def HartAcc.code (a : HartAcc) (k : Nat) : Nat :=
  match a with
  | .fetch => if k = 2 then 12 else k
  | .load => if k = 2 then 13 else 4 + k
  | .store => if k = 2 then 15 else 6 + k

/-- The PMP permission of an access. -/
def HartAcc.perm : HartAcc → Nat
  | .fetch => 2 | .load => 0 | .store => 1

/-! ## The caches (R493, R497) -/

def Dom.onCache (d : Dom) (f : Store Line → Store Line) : Dom :=
  d.on (fun q => { q with clerks := { q.clerks with cache := f q.clerks.cache } })

/-- The bytes of a line, filled from memory where the caches do not hold it; none for an uncorrectable error. -/
def Dom.line (d : Dom) (l : Nat) : Dom × Option (List Byte) :=
  match Store.find d.q.clerks.cache l with
  | some x => (d, some x.bytes)
  | none =>
    let r := d.fetch (64 * l) 64
    match r.2 with
    | some bs => (r.1.onCache (Store.insert · l ⟨false, bs⟩), some bs)
    | none => (r.1, none)

/-- A dirty line written to its memory. -/
def Dom.cleanLine (d : Dom) (l : Nat) : Dom :=
  match Store.find d.q.clerks.cache l with
  | some x =>
    if x.dirty then ((d.deposit (64 * l) x.bytes).1).onCache (Store.insert · l { x with dirty := false })
    else d
  | none => d

/-- Lines leave the caches as hart accesses need room. Which ones, and when, the spec does not say: each line goes or stays by a free
bit (log entry 27). -/
def Dom.evict (d : Dom) : Dom :=
  let gone (l : Nat) : Bool := (Config.junk d.q.fuses.index.toNat d.q.fresh 200 l).getLsbD 0
  let d1 := d.on (fun q => { q with fresh := q.fresh + 1 })
  ((d.q.clerks.cache.map (·.1)).filter gone).foldl (fun d l => (d.cleanLine l).onCache (Store.erase · l)) d1

/-- Bytes of main memory through the caches; none for an uncorrectable error (R506). -/
def Dom.cached (d : Dom) (a n : Nat) : Dom × Option (List Byte) :=
  let r := d.line (a / 64)
  match r.2 with
  | none => (r.1, none)
  | some bs =>
    if a / 64 = (a + n - 1) / 64 then (r.1, some ((bs.drop (a % 64)).take n))
    else
      let r2 := r.1.line ((a + n - 1) / 64)
      (r2.1, r2.2.map (fun cs => ((bs ++ cs).drop (a % 64)).take n))

/-- Bytes written into lines that the caches hold. -/
def Dom.cacheStore (d : Dom) (a : Nat) (bs : List Byte) : Dom :=
  d.onCache (fun c => (List.range bs.length).foldl (fun c i =>
    match Store.find c ((a + i) / 64) with
    | some x => Store.insert c ((a + i) / 64) ⟨true, setAt x.bytes ((a + i) % 64) (bs.getD i 0)⟩
    | none => c) c)

/-- Reservations of other harts on a line that is written are lost. -/
def Dom.dropReserves (d : Dom) (h : Ix4) (a n : Nat) : Dom :=
  d.each (Ix4.all.filter (fun g => decide (g ≠ h))) (fun g d => d.onHart g (fun x => match x.reserve with
    | some r => if r.1 < a + n ∧ a < r.1 + r.2 then { x with reserve := none } else x
    | none => x))

/-! ## Physical accesses (R77, R86, R492, R496, R506) -/

def isMain : Option Region → Bool
  | some .granary | some .hbm => true
  | _ => false

/-- A polder check that an access fails: the hart is impounded. -/
def Dom.hartBreach (d : Dom) (h : Ix4) (c a : Nat) (write : Bool) (v : Nat) : Dom := d.breachBy (.hart h) 0 c a write v

/-- A read of `n` bytes at a physical address; `mis` for a misaligned one. -/
def Dom.physRead (d : Dom) (h : Ix4) (a n : Nat) (mis : Bool) : Dom × Got (List Byte) :=
  match d.q.region a with
  | some .window =>
    let x := d.regRd (.hart h) 0 (a - winBase) n
    (x.1, if x.2.2.isSome then .held else .ok (natLe n x.2.1))
  | r =>
    if mis ∧ (r = some .counter ∨ r = some .host) then (d, .exc 0)
    else match d.q.causeOf (.hart h) a n false with
    | some c => (d.hartBreach h c a false 0, .held)
    | none =>
      let x := if isMain r then d.cached a n else d.fetch a n
      (x.1, match x.2 with
        | some bs => .ok bs
        | none => .exc 1)

/-- A write of bytes at a physical address. A write of the host window that fails is dropped (R528). -/
def Dom.physWrite (d : Dom) (h : Ix4) (a : Nat) (bs : List Byte) (mis : Bool) : Dom × Got Unit :=
  let n := bs.length
  match d.q.region a with
  | some .window =>
    let x := d.regWrite (.hart h) 0 (a - winBase) n (leNat bs) Coincide.none
    (x.1, if x.2 = some 4 ∨ x.2 = some 5 then .held else .ok ())
  | r =>
    if mis ∧ (r = some .counter ∨ r = some .host) then (d, .exc 0)
    else match d.q.causeOf (.hart h) a n true with
    | some c => (d.hartBreach h c a true (leNat bs), .held)
    | none =>
      if isMain r then
        let x := d.cached a n
        match x.2 with
        | some _ => ((x.1.cacheStore a bs).dropReserves h a n, .ok ())
        | none => (x.1, .exc 1)
      else if r = some .host then ((d.hostWrite false a bs).1, .ok ())
      else
        let x := d.deposit a bs
        (x.1, if x.2 then .ok () else .exc 1)

/-! ## Translation (R489, R492, R496) -/

/-- Whether a leaf entry permits an access (Sv39, with SUM and MXR of mstatus). -/
def leafOk (pte st : Nat) (pr : Priv) (acc : HartAcc) : Bool :=
  let r := bitOf pte 1
  let x := bitOf pte 3
  (match pr with
    | .u => bitOf pte 4
    | _ => !bitOf pte 4 || (decide (acc ≠ .fetch) && bitOf st 18)) &&
  (match acc with
    | .fetch => x
    | .load => r || (bitOf st 19 && x)
    | .store => bitOf pte 2) &&
  bitOf pte 6 && (decide (acc ≠ .store) || bitOf pte 7)

/-- A page-table entry read as an implicit S-mode access. -/
def Dom.readPte (d : Dom) (h : Ix4) (a : Nat) : Dom × Got Nat :=
  if 2 ^ 48 ≤ a ∨ !(d.hart h).pmpOk .s 0 a 8 then (d, .exc 1)
  else
    let x := d.physRead h a 8 false
    (x.1, match x.2 with
      | .ok bs => .ok (leNat bs)
      | .exc _ => .exc 1
      | .held => .held)

/-- The Sv39 walk from the table at `tab`, `n` levels still to go. The walker never sets A or D (R489). -/
def Dom.walk (d : Dom) (h : Ix4) (acc : HartAcc) (pr : Priv) (va : Nat) : (n : Nat) → (tab : Nat) → Dom × Got Nat
  | 0, _ => (d, .exc 2)
  | n + 1, tab =>
    let x := d.readPte h (tab + 8 * (va / 2 ^ (12 + 9 * n) % 512))
    match x.2 with
    | .exc k => (x.1, .exc k)
    | .held => (x.1, .held)
    | .ok pte =>
      let ppn := bitsOf pte 53 10
      if !bitOf pte 0 ∨ (!bitOf pte 1 ∧ bitOf pte 2) ∨ pte / 2 ^ 54 ≠ 0 then (x.1, .exc 2)
      else if !bitOf pte 1 ∧ !bitOf pte 3 then x.1.walk h acc pr va n (4096 * ppn)
      else if ppn % 2 ^ (9 * n) ≠ 0 ∨ !leafOk pte ((d.hart h).csrWord 0x300) pr acc then (x.1, .exc 2)
      else (x.1, .ok (4096 * ppn + va % 2 ^ (12 + 9 * n)))

/-- The mode an access is made in (MPRV). -/
def Hart.accPriv (x : Hart) (acc : HartAcc) : Priv :=
  let st := x.csrWord 0x300
  if acc ≠ .fetch ∧ bitOf st 17 then Priv.of (bitsOf st 12 11) else x.priv

/-- The physical address of `n` bytes within one page, after PMP and the limit of R492. -/
def Dom.translate (d : Dom) (h : Ix4) (acc : HartAcc) (va n : Nat) : Dom × Got Nat :=
  let x := d.hart h
  let pr := x.accPriv acc
  let satp := x.csrWord 0x180
  let t : Dom × Got Nat :=
    if pr = .m ∨ satp / 2 ^ 60 = 0 then (d, .ok va)
    else if va / 2 ^ 38 ≠ 0 ∧ va / 2 ^ 38 ≠ 2 ^ 26 - 1 then (d, .exc 2)
    else d.walk h acc pr va 3 (4096 * (satp % 2 ^ 44))
  match t.2 with
  | .ok pa => (t.1, if pa < 2 ^ 48 ∧ x.pmpOk pr acc.perm pa n then .ok pa else .exc 1)
  | .exc k => (t.1, .exc k)
  | .held => (t.1, .held)

/-! ## Accesses of a hart -/

/-- The physical pieces of an access, one per page; an exception carries its address. -/
def Dom.hartPieces (d : Dom) (h : Ix4) (acc : HartAcc) (va n : Nat) : Dom × Got (List (Nat × Nat)) × Nat :=
  let k := min n (4096 - va % 4096)
  let x := d.translate h acc va k
  match x.2 with
  | .exc e => (x.1, .exc e, va)
  | .held => (x.1, .held, va)
  | .ok pa =>
    if k = n then (x.1, .ok [(pa, n)], va)
    else
      let y := x.1.translate h acc ((va + k) % 2 ^ 64) (n - k)
      (y.1, match y.2 with
        | .ok pb => .ok [(pa, k), (pb, n - k)]
        | .exc e => .exc e
        | .held => .held, (va + k) % 2 ^ 64)

/-- How a hart's access ends for the instruction: a value, a trap taken, or the hart held. -/
inductive HartEnd where
  | value (v : Nat)
  | trapped
  | held
deriving DecidableEq, Repr

/-- An exception taken, with the pc of the instruction saved. -/
def Dom.hartTrap (d : Dom) (h : Ix4) (cause tval : Nat) : Dom := d.onHart h (fun x => x.trap false cause x.pc.toNat tval)

def Dom.hartExc (d : Dom) (h : Ix4) (acc : HartAcc) (k va : Nat) : Dom × HartEnd := (d.hartTrap h (acc.code k) va, .trapped)

/-- A data access of a hart commits first what the hart holds of a register pair; where that impounds it, the access is not made (R69, R80).
One to the register window does so by itself. A fetch or a walk is none that the rule means (log entry 134). -/
def Dom.hartFirst (d : Dom) (h : Ix4) (ps : List (Nat × Nat)) : Dom × Bool :=
  match ps with
  | [(a, _)] =>
    if d.q.region a = some .window then (d, false)
    else let d1 := d.flushHolder (.hart h) 0; (d1, d1.cutOff d.q (.hart h))
  | _ => let d1 := d.flushHolder (.hart h) 0; (d1, d1.cutOff d.q (.hart h))

/-- The cause of the polder checks that an access across two pages meets, and where; of several the lowest (R23, R77). -/
def Polder.crossCause (q : Polder) (h : Ix4) (ps : List (Nat × Nat)) (write : Bool) : Option (Nat × Nat) :=
  (ps.filter (fun p => decide (q.region p.1 ≠ some .window))).foldl (fun best p => match best, q.causeOf (.hart h) p.1 p.2 write with
    | none, some c => some (c, p.1)
    | some (b, a), some c => if c < b then some (c, p.1) else some (b, a)
    | x, none => x) none

/-- What keeps a misaligned access across two pages from being made whole: an exception, a breach, or the register window, where it is
malformed (R23, R86, R492); `z` is what that answers. -/
def Dom.crossBar {α : Type} (d : Dom) (h : Ix4) (ps : List (Nat × Nat)) (write : Bool) (v : Nat) (z : α) : Option (Dom × Got α) :=
  let inside (r : Region) : Option (Nat × Nat) := ps.find? (fun p => decide (d.q.region p.1 = some r))
  if (inside .counter).isSome || (inside .host).isSome then some (d, .exc 0)
  else match d.q.crossCause h ps write, inside .window with
  | some (c, a), _ => some (d.hartBreach h c a write v, .held)
  | none, some (a, _) => some (d.accLog (.hart h) .badalign a, .ok z)
  | none, none => none

/-- A load or a fetch of `n` bytes. -/
def Dom.hartRead (d : Dom) (h : Ix4) (acc : HartAcc) (va n : Nat) : Dom × HartEnd :=
  let mis := decide (va % (if acc = .fetch then 2 else n) ≠ 0)
  let x := d.hartPieces h acc va n
  match x.2.1 with
  | .exc k => x.1.hartExc h acc k x.2.2
  | .held => (x.1, .held)
  | .ok ps =>
    let f := if acc = .fetch then (x.1, false) else x.1.hartFirst h ps
    let finish (y : Dom × Got (List Byte)) (k : Dom → List Byte → Dom × HartEnd) : Dom × HartEnd :=
      match y.2 with
      | .ok bs => k y.1 bs
      | .exc e => y.1.hartExc h acc e va
      | .held => (y.1, .held)
    let done (d : Dom) (bs : List Byte) : Dom × HartEnd := (d, .value (leNat bs))
    if f.2 then (f.1, .held)
    else match ps with
    | [(a, m), (b, l)] =>
      (match f.1.crossBar h ps false 0 (List.replicate n (0xFF : Byte)) with
        | some y => finish y done
        | none => finish (f.1.physRead h a m false) (fun d1 bs => finish (d1.physRead h b l false) (fun d2 cs => done d2 (bs ++ cs))))
    | _ => finish (f.1.physRead h (ps.headD (0, 0)).1 n mis) done

/-- A store of `n` bytes. -/
def Dom.hartWrite (d : Dom) (h : Ix4) (va n v : Nat) : Dom × HartEnd :=
  let mis := decide (va % n ≠ 0)
  let bs := natLe n v
  let x := d.hartPieces h .store va n
  match x.2.1 with
  | .exc k => x.1.hartExc h .store k x.2.2
  | .held => (x.1, .held)
  | .ok ps =>
    let f := x.1.hartFirst h ps
    let finish (y : Dom × Got Unit) (k : Dom → Dom × HartEnd) : Dom × HartEnd :=
      match y.2 with
      | .ok _ => k y.1
      | .exc e => y.1.hartExc h .store e va
      | .held => (y.1, .held)
    let done (d : Dom) : Dom × HartEnd := (d, .value 0)
    if f.2 then (f.1, .held)
    else match ps with
    | [(a, m), (b, _)] =>
      (match f.1.crossBar h ps true (leNat bs) () with
        | some y => finish y done
        | none => finish (f.1.physWrite h a (bs.take m) false) (fun d1 => finish (d1.physWrite h b (bs.drop m) false) done))
    | _ => finish (f.1.physWrite h (ps.headD (0, 0)).1 bs mis) done

/-- A number of `n` bytes as signed. -/
def toSigned (n v : Nat) : Int := (BitVec.ofNat (8 * n) v).toInt

/-- The value an AMO writes. -/
def amoEval (op : AmoOp) (n old v : Nat) : Nat :=
  let m := 2 ^ (8 * n)
  let b := v % m
  match op with
  | .swap => b
  | .add => (old + b) % m
  | .xor => old ^^^ b
  | .and => old &&& b
  | .or => old ||| b
  | .min => if toSigned n old ≤ toSigned n b then old else b
  | .max => if toSigned n old ≤ toSigned n b then b else old
  | .minu => min old b
  | .maxu => max old b

/-- An AMO; the value is the old contents (R492). One at the register window is malformed, aligned or not, and reads 0 (R86); elsewhere one
that is misaligned raises its exception, as the A extension has it (log entry 133). -/
def Dom.hartAmo (d : Dom) (h : Ix4) (op : AmoOp) (va n v : Nat) : Dom × HartEnd :=
  let x := d.translate h .store va (min n (4096 - va % 4096))
  match x.2 with
  | .exc k => x.1.hartExc h .store k va
  | .held => (x.1, .held)
  | .ok a =>
    let r := x.1.q.region a
    if r = some .window then
      let f := x.1.flushHolder (.hart h) 0
      if f.cutOff x.1.q (.hart h) then (f, .held) else (f.accLog (.hart h) .badwidth a, .value 0)
    else if va % n ≠ 0 then x.1.hartExc h .store 0 va
    else if r = some .host then x.1.hartExc h .store 1 va
    else
      let f := x.1.hartFirst h [(a, n)]
      if f.2 then (f.1, .held)
      else match (f.1.q.causeOf (.hart h) a n true).or (f.1.q.causeOf (.hart h) a n false) with
      | some c => (f.1.hartBreach h c a true (v % 2 ^ (8 * n)), .held)
      | none =>
        let y := f.1.physRead h a n false
        match y.2 with
        | .ok bs =>
          let w := y.1.physWrite h a (natLe n (amoEval op n (leNat bs) v)) false
          (match w.2 with
            | .ok _ => (w.1, .value (leNat bs))
            | .exc k => w.1.hartExc h .store k va
            | .held => (w.1, .held))
        | .exc k => y.1.hartExc h .store k va
        | .held => (y.1, .held)

/-- LR: the reservation is the naturally aligned datum. LR and SC reach main memory alone (R492). -/
def Dom.hartLr (d : Dom) (h : Ix4) (va n : Nat) : Dom × HartEnd :=
  if va % n ≠ 0 then d.hartExc h .load 0 va
  else
    let x := d.translate h .load va n
    match x.2 with
    | .exc k => x.1.hartExc h .load k va
    | .held => (x.1, .held)
    | .ok a =>
      if isMain (x.1.q.region a) || (x.1.q.region a).isNone then
        let f := x.1.hartFirst h [(a, n)]
        let y : Dom × Got (List Byte) := if f.2 then (f.1, .held) else f.1.physRead h a n false
        (match y.2 with
          | .ok bs => (y.1.onHart h (fun z => { z with reserve := some (a, n) }), .value (leNat bs))
          | .exc k => y.1.hartExc h .load k va
          | .held => (y.1, .held))
      else x.1.hartExc h .load 1 va

/-- SC: 0 where it stores, 1 where the reservation does not cover it. -/
def Dom.hartSc (d : Dom) (h : Ix4) (va n v : Nat) : Dom × HartEnd :=
  if va % n ≠ 0 then d.hartExc h .store 0 va
  else
    let x := d.translate h .store va n
    match x.2 with
    | .exc k => x.1.hartExc h .store k va
    | .held => (x.1, .held)
    | .ok a =>
      let f := x.1.hartFirst h [(a, n)]
      let d1 := f.1.onHart h (fun z => { z with reserve := none })
      if f.2 then (f.1, .held)
      else if isMain (x.1.q.region a) || (x.1.q.region a).isNone then
        if (x.1.hart h).reserve = some (a, n) then
          let y := d1.physWrite h a (natLe n v) false
          (match y.2 with
            | .ok _ => (y.1, .value 0)
            | .exc k => y.1.hartExc h .store k va
            | .held => (y.1, .held))
        else (d1, .value 1)
      else x.1.hartExc h .store 1 va

/-! ## HART_LOAD_STORE_AMO -/

/-- A number of `n` bytes extended to 64 bits. -/
def extended (signed : Bool) (n v : Nat) : Nat :=
  if signed then ((BitVec.ofNat (8 * n) v).signExtend 64).toNat else v % 2 ^ (8 * n)

/-- The result of an access goes to its register; a load that impounded its hart leaves it unspecified (R85). -/
def Dom.retire (d : Dom) (h : Ix4) (e : HartEnd) (put : Hart → Nat → Hart) : Dom :=
  match e with
  | .value v => d.onHart h (fun x => put x v)
  | .held =>
    let f := d.q.free
    { d with q := f.2 }.onHart h (fun x => put x f.1.toNat)
  | .trapped => d

/-- A loaded single is boxed in ones. -/
def boxed (n v : Nat) : Nat := if n = 4 then v % 2 ^ 32 + (2 ^ 64 - 2 ^ 32) else v

/-- The access of an instruction, its register write included. -/
def Dom.hartDo (d : Dom) (h : Ix4) (k : HartKind) (va n v : Nat) : Dom × HartEnd :=
  match k with
  | .load rd sg fp =>
    if fp ∧ (d.hart h).fs = 0 then (d.hartTrap h 2 0, .trapped)
    else
      let x := d.hartRead h .load va n
      (x.1.retire h x.2 (fun y w => if fp then y.putF rd.toNat (boxed n w) else y.putX rd.toNat (extended sg n w)), x.2)
  | .store => d.hartWrite h va n v
  | .amo op rd =>
    let x := d.hartAmo h op va n v
    (x.1.retire h x.2 (fun y w => y.putX rd.toNat (extended true n w)), x.2)
  | .lr rd =>
    let x := d.hartLr h va n
    (x.1.retire h x.2 (fun y w => y.putX rd.toNat (extended true n w)), x.2)
  | .sc rd =>
    let x := d.hartSc h va n v
    (match x.2 with
      | .value w => x.1.onHart h (fun y => y.putX rd.toNat w)
      | _ => x.1, x.2)
  | .fetch =>
    let x := d.hartRead h .fetch va n
    (match x.2 with
      | .trapped => x.1
      | _ => x.1.onHart h (fun y => { y with pc := cell va }), x.2)

/-- A pending interrupt taken at an instruction boundary. -/
def Dom.hartBoundary (d : Dom) (h : Ix4) : Dom × Bool :=
  match d.q.hartInterrupt h with
  | some i => (d.onHart h (fun x => x.trap true i x.pc.toNat 0), true)
  | none => (d, false)

/-- Sizes of an access: 1, 2, 4 or 8 bytes; 4 or 8 of an AMO, LR and SC. -/
def sizeOk (k : HartKind) (n : Nat) : Bool :=
  match k with
  | .amo _ _ | .lr _ | .sc _ => [4, 8].contains n
  | .fetch => [2, 4].contains n
  | _ => [1, 2, 4, 8].contains n

/-- An instruction begins with its fetch: an interrupt that is due is taken first, and then only a fetch at the handler goes on (log
entry 28). A fetch that faults is an exception of the instruction at its address. -/
def Dom.hartOp (d : Dom) (h : Ix4) (op : HartOp) : Dom :=
  if !d.q.canIssue (.hart h) || !sizeOk op.kind op.size then d
  else
    let d0 := d.onHart h (fun x => { x with wfi := false })
    match op.kind with
    | .fetch =>
      let x := d0.hartBoundary h
      if x.2 && decide ((x.1.hart h).pc ≠ op.va) then x.1
      else ((x.1.onHart h (fun y => { y with pc := op.va })).hartDo h .fetch op.va.toNat op.size 0).1.evict
    | k => (d0.hartDo h k op.va.toNat op.size op.value.toNat).1.evict

/-! ## Cache-block operations (R493) -/

/-- Kinds of cache-block operations. -/
inductive CboKind where
  | clean | flush | inval
deriving DecidableEq, Repr

/-- What an operation does in the hart's mode by menvcfg and senvcfg; none where it is an illegal instruction. -/
def Hart.cboAs (x : Hart) (k : CboKind) : Option CboKind :=
  let envs := match x.priv with
    | .m => []
    | .s => [x.csrWord 0x30A]
    | .u => [x.csrWord 0x30A, x.csrWord 0x10A]
  match k with
  | .inval =>
    if envs.any (fun e => decide (bitsOf e 5 4 = 0)) then none
    else if envs.any (fun e => decide (bitsOf e 5 4 = 1)) then some .flush
    else some .inval
  | _ => if envs.all (fun e => bitOf e 6) then some k else none

/-- The operation on a line. -/
def Dom.cboLine (d : Dom) (k : CboKind) (l : Nat) : Dom :=
  match k with
  | .clean => d.cleanLine l
  | .flush => (d.cleanLine l).onCache (Store.erase · l)
  | .inval => d.onCache (Store.erase · l)

/-- A cache-block operation as an instruction: whether it completed. -/
def Dom.cboDo (d : Dom) (h : Ix4) (k : CboKind) (va : Nat) : Dom × HartEnd :=
  match (d.hart h).cboAs k with
  | none => (d.hartTrap h 2 0, .trapped)
  | some k' =>
    let x := d.translate h .load (va / 64 * 64) 64
    match x.2 with
    | .ok a => (x.1.cboLine k' (a / 64), .value 0)
    | .exc e => x.1.hartExc h .store e va
    | .held => (x.1, .held)

def Dom.cbo (d : Dom) (h : Ix4) (k : CboKind) (va : Nat) : Dom :=
  if d.q.canIssue (.hart h) then (d.cboDo h k va).1 else d

/-! ## CSRs, FENCE and mtime -/

/-- A hart reads one of the custom CSRs (R490). -/
def Dom.customCsr (d : Dom) (h : Ix4) (c rd : Nat) : Dom :=
  if d.q.canIssue (.hart h) then
    let x := d.csrRead h c
    x.1.onHart h (fun y => y.putX rd x.2)
  else d

/-- A FENCE completes once what it orders has performed; accesses of harts perform as they are issued (R494). -/
def Dom.fence (d : Dom) (h : Ix4) (_pred _succ : BitVec 4) : Dom :=
  if d.q.canIssue (.hart h) then d.onHart h (fun x => { x with wfi := false }) else d

/-- MTIMECMP: where mtime has reached a hart's MTIMECMP with the timer interrupt enabled, that hart's WFI ends (R500). -/
def Dom.mtimeWake (d : Dom) : Dom :=
  d.each Ix4.all (fun h d => if bitOf (d.q.mip h &&& (d.hart h).csrWord 0x304) 7 then d.onHart h (fun x => { x with wfi := false }) else d)

def execCboClean (p h : Ix4) (va : BitVec 64) (s : State) : Host.Outcome State Fault Refusal :=
  .next (s.actOn p (·.cbo h .clean va.toNat))

def execCboFlush (p h : Ix4) (va : BitVec 64) (s : State) : Host.Outcome State Fault Refusal :=
  .next (s.actOn p (·.cbo h .flush va.toNat))

def execCboInval (p h : Ix4) (va : BitVec 64) (s : State) : Host.Outcome State Fault Refusal :=
  .next (s.actOn p (·.cbo h .inval va.toNat))

def execFence (p h : Ix4) (pred succ : BitVec 4) (s : State) : Host.Outcome State Fault Refusal :=
  .next (s.actOn p (·.fence h pred succ))

def execTideCsr (p h : Ix4) (rd : BitVec 5) (s : State) : Host.Outcome State Fault Refusal :=
  .next (s.actOn p (·.customCsr h 0xCC0 rd.toNat))

def execBasinns (p h : Ix4) (rd : BitVec 5) (s : State) : Host.Outcome State Fault Refusal :=
  .next (s.actOn p (·.customCsr h 0xCC1 rd.toNat))

/-- MTIMECMP of hart `h`: `ticks` tick edges pass, ten nanoseconds each, and the event happens where they bring mtime to the hart's MTIMECMP. -/
def execMtimecmp (p h : Ix4) (ticks : Nat) (s : State) : Host.Outcome State Fault Refusal :=
  let t := s.elapse (10 * ticks)
  .next (if (s.pol p).mtimeRuns && decide ((s.pol p).stored64 (Off.mtimecmp h.toNat) ≤ (t.pol p).clerks.mtime) then
    t.actOn p Dom.mtimeWake else s)

def execHartLoadStoreAmo (p h : Ix4) (op : HartOp) (s : State) : Host.Outcome State Fault Refusal :=
  .next (s.actOn p (·.hartOp h op))

end Sys2Proof.Machine
end

