-- ==== Sys2Proof/Machine/Power.lean ====
section
/-!
DEFINITION. Machine/Power.lean: rails, the reset kinds and the release from POWERED (04_start_up_and_reset.md R94 to R122; R4, R32, R60,
R555, R577), and the answers of the regulators (R165).
-/
namespace Sys2Proof.Machine

/-- A polder fused off (R3). -/
def Fuses.off (f : Fuses) : Bool := decide (f.sku = .jt4x144) && decide (f.index = .i3)

/-- The join seed of a sluice (R103). -/
def Fuses.joinSeed (f : Fuses) (sd : Side) : Word :=
  crc32c (natLe 8 f.serial.toNat ++ [BitVec.ofNat 8 f.index.toNat, match sd with
    | .r => 0
    | .c => 1])

/-- What a rewrite that is cut short leaves in slot B of the polder's flash or, with `warden`, of the Warden's: a slot whose programming has
begun and has not been read back is invalid (R60, R555). An invalid slot reads as erased (log entry 107). -/
def Rewrite.cutB (r : Rewrite) (warden : Bool) (now : Option (List Byte)) : Option (List Byte) :=
  if r.warden = warden ∧ ((r.step = .checked ∧ r.written ≠ []) ∨ r.step = .programmed) then some [] else now

/-- What a rewrite that is cut short leaves in slot A: the slot is invalid while slot B is being copied to it. -/
def Rewrite.cutA (r : Rewrite) (warden : Bool) (now : Option (List Byte)) : Option (List Byte) :=
  if r.warden = warden ∧ r.step = .copying then some [] else now

/-- The polder's flash once its rewrite, if one runs, is cut short. -/
def Charter.cut (c : Charter) (r : Option Rewrite) : Charter :=
  match r with
  | some r => { c with flashA := r.cutA false c.flashA, flashB := r.cutB false c.flashB }
  | none => c

/-- A polder after a power-on reset: only fuses and flash keep what they hold. A polder fused off is ABSENT (R3). -/
def Polder.powerOn (q : Polder) : Polder :=
  let c := q.charter.cut q.watch.rewrite
  { Polder.reset q.fuses (q.fuses.joinSeed .r) (q.fuses.joinSeed .c) q.charter.rollbackFuse with
    boot := if q.fuses.off then .absent else .powered
    clocks := Clocks.reset q.clocks.refPresent
    charter := Charter.reset q.charter.rollbackFuse c.flashA c.flashB
    fresh := q.fresh }

/-- The state of a PF's function after an FLR; the link stays. -/
def HostFn.flr (h : HostFn) : HostFn :=
  { HostFn.reset with rate := h.rate, width := h.width, linkUp := h.linkUp, flit := h.flit, sent := h.sent }

/-- The state of a PF's function after a reset of the link; the PBA keeps its bits (R525, R527). -/
def HostFn.linkDown (h : HostFn) : HostFn := { HostFn.reset with pba := h.pba, sent := h.sent }

/-- A polder cold or warm reset (R109, R110): everything starts again but the fuses, the flash, the Watchhouse's Logbook, level, counters
and trace configuration, and memory, which CHARTER and HBMTRAIN zero. A stack that is DOWN stays so until training has failed (R351). `stop`
says that THERMTRIP# keeps the clocks stopped (R120). -/
def Polder.restart (q : Polder) (cause : ResetCause) (warm stop : Bool) : Polder :=
  let base := Polder.reset q.fuses (q.fuses.joinSeed .r) (q.fuses.joinSeed .c) q.charter.rollbackFuse
  let c := q.charter.cut q.watch.rewrite
  { base with
    boot := q.boot
    cause := cause
    bootCount := q.bootCount
    regs := q.regs.filter (fun e => decide (Off.evcnt 0 ≤ e.1) && decide (e.1 < Off.evcnt 64))
    charter := Charter.reset c.rollbackFuse c.flashA c.flashB
    clocks := { Clocks.reset q.clocks.refPresent with tripped := stop }
    mem := q.mem
    memctl := { MemCtl.reset with
      errs := q.memctl.errs, down := if warm ∧ q.boot ≠ .stranded then q.memctl.down else ⟨false, false⟩ }
    watch := { q.watch with rewrite := none, dozeStart := 0 }
    host := if warm then q.host.flr else { HostFn.reset with sent := q.host.sent }
    fresh := q.fresh }

/-- The reset of a polder, with its boot-state message and its Logbook record. -/
def Dom.restart (d : Dom) (cause : ResetCause) (warm stop : Bool) : Dom :=
  ((d.on (·.restart cause warm stop)).boot .powered).log 0x0F 15 (natLe 4 cause.code)

/-- The Warden's flash is given back when the rewrite of polder `p` is cut short. -/
def Warden.freeFlash (w : Warden) (p : Ix4) (r : Option Rewrite) : Warden :=
  match r with
  | some r => if r.warden ∧ w.flashTaken = some p then { w with
      flashA := r.cutA true w.flashA, flashB := r.cutB true w.flashB, flashTaken := none } else w
  | none => w

/-- A reset of one polder, unless it is ABSENT. -/
def State.resetPolder (s : State) (p : Ix4) (cause : ResetCause) (warm : Bool) : State :=
  if (s.pol p).boot = .absent then s
  else (s.onWarden (·.freeFlash p (s.pol p).watch.rewrite)).act p (·.restart cause warm s.warden.thermtrip)

/-- A cold reset of every present polder. -/
def State.coldReset (s : State) (cause : ResetCause) : State := Ix4.all.foldl (fun s p => s.resetPolder p cause false) s

/-- POWER_ON (R95): the whole die, with VDD_AON alone in range. Fuses and flash keep what they hold; board pins and host memory are
not the die's. -/
def State.powerOn (s : State) : State :=
  let w := Ix4.all.foldl (fun w p => w.freeFlash p (s.pol p).watch.rewrite) s.warden
  { s with
    polders := s.polders.map Polder.powerOn
    warden := { Warden.reset w.stepping w.keyHash w.rollbackFuse with clkCal := s.peRefclk, flashA := w.flashA, flashB := w.flashB }
    pf4 := HostFn.reset
    rails := [.aon] }

/-- The host port reset: the link and every function's configuration, those of PF4 and of an ABSENT polder's PF too (R109, R110). A present
polder's function starts again with its polder. -/
def State.resetHost (s : State) : State :=
  { s with
    pf4 := { HostFn.reset with sent := s.pf4.sent }
    polders := s.polders.map (fun (q : Polder) =>
      if q.boot = .absent then { q with host := { HostFn.reset with sent := q.host.sent } } else q) }

/-- PERST_ASSERT: polder cold reset of every present polder, and reset of the host port. After THERMTRIP# it is the recovery, which ends
the assertion where the junction is below T_HARD (R120, R159). -/
def State.perstAssert (s : State) : State :=
  if s.perst then s
  else
    let w := s.warden
    let cool := decide (w.temp < 16 * (w.tHard : Int))
    let s1 := { s.resetHost with
      perst := true
      warden := if w.thermtrip then { w with tripHeld := false, thermtrip := !cool } else w }
    s1.coldReset (if w.thermtrip then .thermtrip else .perst)

def State.perstDeassert (s : State) : State := { s with perst := false }

def allRails : List Rail := [.aon, .io, .core, .hbm, .opt]

/-- Whether R96 holds, and after THERMTRIP# R120: the rails are in range, PERST# is deasserted, and the Warden has its charter (R179). -/
def State.mayRelease (s : State) : Bool :=
  allRails.all (fun r => s.rails.contains r) && !s.perst && s.warden.lock &&
    (!s.warden.thermtrip || (!s.warden.tripHeld && decide (s.warden.temp < 16 * (s.warden.tHard : Int))))

/-- CHn_RST# as the die drives it, once VDD_IO has risen: low before and throughout POWERED, high from the entry into CHARTER (R588). -/
def State.chRst (s : State) (p : Ix4) : Option Bool :=
  if s.rails.contains .io then some (decide ((s.pol p).boot ≠ .powered)) else none

/-- WD_CS# between accesses, once VDD_IO has risen: low until the Warden has first read its flash (R562). -/
def State.wdCs (s : State) : Option Bool := if s.rails.contains .io then some s.warden.lock else none

/-- THERMTRIP# as the die drives it: low while the trip stands and VDD_AON is in range (R159, R578). -/
def State.thermtripPin (s : State) : Bool := !(s.rails.contains .aon && s.warden.thermtrip)

/-- A polder leaves POWERED: for CHARTER, where the zero fill of R98 begins, for ABSENT (R3), or, with fewer than 64 good mill sites, for
STRANDED (R4). -/
def Dom.release (d : Dom) : Dom :=
  if d.q.boot ≠ .powered then d
  else if d.q.fuses.off then d.boot .absent
  else
    let d1 := d.on (fun q => { q with clocks := { q.clocks with tripped := false } })
    if d1.q.fuses.goodSites.length < 64 then d1.boot .stranded
    else
      (d1.on (fun q => { q with
        bootCount := min (q.bootCount + 1) 0xFFFFFFFF, charter := { q.charter with phase := .zeroFill } })).boot .charter

/-- POLDER_RELEASE. -/
def State.polderRelease (s : State) : State :=
  if s.mayRelease then
    Ix4.all.foldl (fun s p => s.act p Dom.release) (s.onWarden (fun w => { w with thermtrip := false, tripHeld := false }))
  else s

/-- RAIL_IN_RANGE. -/
def State.railUp (s : State) (r : Rail) : State := { s with rails := if s.rails.contains r then s.rails else s.rails ++ [r] }

/-- A rail fault of a rail but VDD_AON (R119), in the scope of the PERST# kind, the host port with it (R109); under THERMTRIP# the polders stay
stopped for its recovery (R577). The Warden monitors these rails once it has read its charter (R95). -/
def State.faultReset (s : State) : State :=
  if s.warden.thermtrip || !s.warden.lock then s else s.resetHost.coldReset .railfault

/-- RAILFAULT. Loss of VDD_AON is a power-on reset. -/
def State.railFault (s : State) (r : Rail) : State :=
  let s1 := { s with rails := s.rails.filter (fun x => decide (x ≠ r)) }
  match r with
  | .aon => { s1.powerOn with rails := s1.rails }
  | _ => s1.faultReset

/-- FLR of PFn: a polder warm reset (R84), or, of an ABSENT polder, of the PF's function state alone. While PERST# is asserted its row
governs (R116). -/
def State.flr (s : State) (p : Ix4) : State :=
  if s.perst then s
  else if (s.pol p).boot = .absent then s.onPol p (fun q => { q with host := q.host.flr })
  else s.resetPolder p .flr true

/-- FLR of PF4 (R32, R178). -/
def State.pf4Flr (s : State) : State := { s with pf4 := s.pf4.flr, warden := { s.warden with imp := none } }

/-- The counters and configuration that a Watchhouse reset clears (R110). -/
def Polder.clearEvents (q : Polder) : Polder :=
  (List.range 64).foldl (fun q m => q.store64 (Off.evcnt m) 0) { q with watch := { q.watch with evsel := [] } }

/-- A Watchhouse reset (R110, R555): commands abort, halts and the freeze end, levels return to L0; the Logbook stays. -/
def Dom.watchReset (d : Dom) : Dom :=
  d.on (fun q =>
    let q1 := q.clearEvents
    let w := q1.watch
    { q1 with
      berths := q1.berths.map (fun x => { x with halted := false, armed := false, haltReq := false })
      clerks := { q1.clerks with harts := q1.clerks.harts.map (fun x => { x with halted := false }) }
      wharf := { q1.wharf with frozen := false }
      watch := { w with box := Duo.const Mailbox.reset, lbEn := true, stopMode := false, classMask := 0xFFFFFFFF#32, rewrite := none }
      charter := q1.charter.cut w.rewrite })

/-- A Watchhouse reset asked for by a write of the host to WH_RESET (R555); the inner mailbox's ignores writes. -/
def State.whReset (s : State) (p : Ix4) (box : Ix2) (v : Word) : State :=
  if box = .z ∧ (s.pol p).canIssue .host then
    let s1 := s.act p (·.bump Off.hostRx 4)
    if v = 0x5752#32 then (s1.onWarden (·.freeFlash p (s.pol p).watch.rewrite)).act p Dom.watchReset else s1
  else s

/-- STATUS_WORD of regulator `n` (R165), by the rows of its table in order. A halving ends with any read that finds its bits clear. -/
def State.statusWord (s : State) (n : Ix4) (ans : Option (BitVec 16)) : State :=
  if !s.warden.configured n || !(s.warden.vrAlertPin || s.warden.vrHalved.get n) then s
  else
    let s1 := s.answered n ans.isSome
    match ans with
    | none => s1
    | some v =>
      let warm := v.getLsbD 2 || v.getLsbD 14
      let halve (b : Bool) (s : State) : State := s.onWarden (fun w => { w with vrHalved := w.vrHalved.set n b })
      if v.getLsbD 5 || v.getLsbD 4 then (halve (s.warden.vrHalved.get n && warm) s1).faultReset
      else if warm then (halve true s1).onWarden (fun w => { w with vrUnread := w.vrUnread.set n false })
      else (s1.onWarden (·.clearFaults n)).wstick 2

def execPowerOn (s : State) : Host.Outcome State Fault Refusal := .next s.powerOn

def execPerstAssert (s : State) : Host.Outcome State Fault Refusal := .next s.perstAssert

def execPerstDeassert (s : State) : Host.Outcome State Fault Refusal := .next s.perstDeassert

def execPolderRelease (s : State) : Host.Outcome State Fault Refusal := .next s.polderRelease

def execRailInRange (r : Rail) (s : State) : Host.Outcome State Fault Refusal := .next (s.railUp r)

def execRailfault (r : Rail) (s : State) : Host.Outcome State Fault Refusal := .next (s.railFault r)

def execFlr (p : Ix4) (s : State) : Host.Outcome State Fault Refusal := .next (s.flr p)

def execPf4Flr (s : State) : Host.Outcome State Fault Refusal := .next s.pf4Flr

def execWhReset (p : Ix4) (box : Ix2) (v : Word) (s : State) : Host.Outcome State Fault Refusal := .next (s.whReset p box v)

def execStatusWord (n : Ix4) (ans : Option (BitVec 16)) (s : State) : Host.Outcome State Fault Refusal := .next (s.statusWord n ans)

end Sys2Proof.Machine
end

