-- ==== Sys2Proof/Machine/WardenHost.lean ====
section
/-!
DEFINITION. Machine/WardenHost.lean: the Warden charter (02_charter.md R54, R55) and the registers of PF4 (06_warden.md R178 to R180).
-/
namespace Sys2Proof.Machine

/-! ## The registers of PF4 -/

/-- RW fields of a PF4 register. -/
def wrw (o : Nat) : Nat :=
  if o = 0x10 ∨ o = 0x14 ∨ o = 0x18 ∨ o = 0x1C ∨ o = 0x20 then 0x7FF
  else if o = 0x28 ∨ o = 0x2C then 0xFFFF
  else if o = 0x30 then 0xFFFFFFF
  else if o = 0x34 then 1
  else 0

/-- Whether an offset is half of a counter pair. -/
def wCounter (o : Nat) : Bool := decide (0x90 ≤ o) && decide (o < 0xB0)

/-- Whether an offset is half of a pair. -/
def wPair (o : Nat) : Bool := decide (0x80 ≤ o) && decide (o < 0xB0)


/-- What a PF4 register reads as (R180 and its table). -/
def Warden.view (w : Warden) (o : Nat) : Nat :=
  let n := Ix4.of ((o - 0x40) / 16)
  if o = 0 then 0x4A570000 + 256 * w.stepping.toNat
  else if o = 4 then
    w.causeA.toNat + 256 * bit w.defaults + 512 * bit w.lock + 1024 * bit w.slotB + 65536 * w.causeB.toNat
  else if o = 8 then
    bit w.rawWindow + 2 * bit w.vrForce + 4 * bit (w.vrHalved.toList.any id) + 8 * bit w.derating + 16 * bit w.thermtrip
      + 32 * bit w.clkCal
  else if o = 0x10 then w.budget
  else if 0x14 ≤ o ∧ o ≤ 0x20 then w.floors.get (Ix4.of ((o - 0x14) / 4))
  else if o = 0x24 then w.pool % 2048 + 65536 * (w.pEff % 2048)
  else if o = 0x28 then w.tSoft + 256 * w.tHard + 65536 * 115
  else if o = 0x2C then w.weights.a0 + 16 * w.weights.a1 + 256 * w.weights.a2 + 4096 * w.weights.a3
  else if o = 0x30 then w.pmbusAddr.a0 + 2 ^ 7 * w.pmbusAddr.a1 + 2 ^ 14 * w.pmbusAddr.a2 + 2 ^ 21 * w.pmbusAddr.a3
  else if o = 0x34 then bit w.pecEn
  else if o = 0x38 then twos 16 w.temp
  else if o = 0x3C then w.iout % 65536 + 65536 * twos 16 w.vrTemp
  else if 0x40 ≤ o ∧ o < 0x80 then
    match o % 16 with
    | 0 => w.req.get n % 2048
    | 4 => w.grant.get n % 2048
    | 8 => w.imon.get n % 2048 + 2 ^ 31 * bit (w.imonBad.get n)
    | _ => w.skip.get n + 256 * bit w.vrForce + 4096 * w.live.get n
  else if o = 0x80 ∨ o = 0x84 then wordOf w.dieTime o
  else if o = 0x88 ∨ o = 0x8C then wordOf w.epoch o
  else if o = 0xB0 then
    match w.imp with
    | some a => 1 + 256 * (a % 65536)
    | none => 0
  else w.wreg o

/-- A value written into the RW fields of a PF4 register. -/
def Warden.putField (w : Warden) (o v : Nat) : Warden :=
  if o = 0x10 then { w with budget := v % 2048 }
  else if 0x14 ≤ o ∧ o ≤ 0x20 then { w with floors := w.floors.set (Ix4.of ((o - 0x14) / 4)) (v % 2048) }
  else if o = 0x28 then { w with tSoft := v % 256, tHard := v / 256 % 256 }
  else if o = 0x2C then { w with weights := ⟨v % 16, v / 16 % 16, v / 256 % 16, v / 4096 % 16⟩ }
  else if o = 0x30 then { w with pmbusAddr := ⟨v % 128, v / 2 ^ 7 % 128, v / 2 ^ 14 % 128, v / 2 ^ 21 % 128⟩ }
  else if o = 0x34 then { w with pecEn := bitOf v 0 }
  else w

/-- The other fields that a write reaches: W1C bits but those of `keep`, which hardware sets in the same cycle (R175), and the counters,
in which an increment in the same cycle is lost (R92). -/
def Warden.putEvent (w : Warden) (o v keep inc : Nat) : Warden :=
  if o = wSticky then w.setWreg o (without (w.wreg o) (without (v &&& 0xFF) keep))
  else if wCounter o then
    let w1 := if o % 8 = 0 then w.setWreg o v
      else w.setWreg o (v % 65536 + without (w.wreg o / 65536 % 4 * 65536) (v &&& 0x30000))
    if inc = 0 then w1 else w1.setWreg (o / 8 * 8 + 4) (w1.wreg (o / 8 * 8 + 4) ||| 0x20000)
  else w

/-- One word written by the charter loader. -/
def Warden.charterPut (w : Warden) (o v : Nat) : Warden := (w.putField o v).putEvent o v 0 0

/-! ## The Warden charter -/

/-- Whether the values that stand keep the last column of R55: 0, or the cause. -/
def Warden.valuesCause (w : Warden) : Nat :=
  if w.budget < 800 ∨ 1560 < w.budget ∨ 95 < w.tSoft ∨ 105 < w.tHard ∨ w.tHard ≤ w.tSoft ∨ w.weights.toList.any (· == 0) then 9
  else if w.floors.toList.any (fun f => decide (w.budget / 4 < f)) ∨ w.budget < w.floors.toList.sum then 0xC
  else 0

/-- The Warden's fuses and what the die tells it, as an image is checked against (R47, R54). -/
def State.wardenTarget (s : State) : Target :=
  let f := (s.pol .i0).fuses
  ⟨true, 65536, 2, f.sku, 0, f.serial.toNat, s.warden.keyHash, s.warden.rollbackFuse⟩

/-- A slot of the Warden flash: the cause it meets, or its image. -/
def Target.readSlot (t : Target) (f : Sfdp) (left : Option (List Byte)) (r : SlotRead) : Except Nat (List Byte) :=
  if !f.valid then .error 1
  else
    let h := slotBytes left r.header 0 64
    let cause := t.headerCause f.density h
    if cause ≠ 0 then .error cause
    else if !r.body.ok || !(t.mode f h).2.2 then .error 8
    else
      let img := h ++ slotBytes left r.body.bytes 64 (imageLen h - 64)
      let c := t.imageCause img
      if c ≠ 0 then .error c else .ok img

/-- An accepted image applied to the Warden, or the cause for which it is discarded whole. -/
def Warden.applyImage (w : Warden) (img : List Byte) : Except Nat Warden :=
  match imageRecs img with
  | .error _ => .error 9
  | .ok rs =>
    if rs.all (fun r => decide (r.typ = 0x7FFF) || (decide (r.typ = 1) && r.regsOk)) then
      let w1 := (rs.filter (fun r => decide (r.typ = 1))).foldl (fun w r => r.regs.foldl (fun w e => w.charterPut e.1 e.2) w) w
      if w1.valuesCause ≠ 0 then .error w1.valuesCause else .ok w1
    else .error 9

/-- The Warden with an accepted image of slot A, or of B. -/
def Warden.take (w : Warden) (t : Target) (img : List Byte) (b : Bool) : Warden :=
  let w0 := { w with rollbackFuse := t.committed img, slotB := b }
  match w0.applyImage img with
  | .ok w1 => w1
  | .error c =>
    if b then { w0 with defaults := true, causeB := BitVec.ofNat 8 c } else { w0 with defaults := true, causeA := BitVec.ofNat 8 c }

/-- WARDEN_CHARTER_LOAD: slot A, then slot B, then the defaults; WARDEN_LOCK is set (R179). -/
def State.wardenLoad (s : State) (f : WardenFlash) : State :=
  let w := s.warden
  let t := s.wardenTarget
  if w.lock then s
  else
    let w1 := match t.readSlot f.sfdp w.flashA f.slotA with
      | .ok img => w.take t img false
      | .error a =>
        let wa := { w with causeA := BitVec.ofNat 8 a, slotB := true }
        match t.readSlot f.sfdp w.flashB f.slotB with
        | .ok img => wa.take t img true
        | .error b => { wa with causeB := BitVec.ofNat 8 b, defaults := true }
    { s with warden := { w1 with lock := true, density := if f.sfdp.valid then some f.sfdp.density else none } }

/-! ## Host writes to PF4 (R178) -/

/-- `n` bits of WARDEN_STICKY on which a W1C write and a set have met are counted in SETWIN_COUNT (R72). There is one in each polder, and
the spec does not say which of them counts a meeting in the Warden: each counts it or not, by a free value. Log entry 119. -/
def State.wmet (s : State) (n : Nat) : State :=
  if n = 0 then s
  else { s with polders := s.polders.map (fun (q : Polder) => q.free.2.bump Off.setwinCount (n * (q.free.1.toNat % 2))) }

/-- One commit to PF4: `n` bytes at `o`. -/
def State.wcommit (s : State) (o n v : Nat) (co : Coincide) : State :=
  let ws := commitWords o n
  if ws.any (fun w => decide (wrw w ≠ 0)) then
    (s.onWarden (fun w => { w with imp := some o })).msix4 2
  else
    let sets := co.setBits.toNat
    let one (s : State) (o v sets : Nat) : State :=
      let s1 := if o = wSticky then s.wstick (sets &&& 0xFF) else s
      s1.onWarden (·.putEvent o v sets co.inc)
    let t := if n = 8 then one (one s o (v % 2 ^ 32) (sets % 2 ^ 32)) (o + 4) (v / 2 ^ 32) (sets / 2 ^ 32)
      else one s o (v % 2 ^ 32) (sets % 2 ^ 32)
    if o = wSticky then t.wmet (popcount 8 (v &&& sets &&& 0xFF)) else t

/-- A held low half committed alone before the host's next access to PF4 (R69). -/
def State.wflush (s : State) : State :=
  match s.warden.wholder with
  | some (o, v) => ({ s with warden := { s.warden with wholder := none } }).wcommit o 4 v.toNat Coincide.none
  | none => s

/-- Whether the host's requests reach PF4. -/
def State.wreaches (s : State) : Bool := s.pf4.linkUp && s.pf4.mse && s.warden.lock && s.warden.imp.isNone

/-- WARDEN_WRITE: a host write of 4 or 8 bytes, under R66 to R70; a malformed one is dropped. -/
def State.wardenWrite (s : State) (o size v : Nat) (co : Coincide) : State :=
  if !s.wreaches then s
  else if (malformedAs o size).isSome then s.wflush
  else if size = 8 then
    let s0 := s.wflush
    if wPair o then s0.wcommit o 8 v co
    else
      let s1 := if s0.wreaches then s0.wcommit o 4 (v % 2 ^ 32) { co with setBits := co.setBits &&& 0xFFFFFFFF#64 } else s0
      if s1.wreaches then s1.wcommit (o + 4) 4 (v / 2 ^ 32) { co with setBits := co.setBits >>> 32 } else s1
  else
    let w := v % 2 ^ 32
    if wPair o && decide (o % 8 = 0) then
      let s0 := s.wflush
      { s0 with warden := { s0.warden with wholder := some (o, word w) } }
    else if wPair o then
      match s.warden.wholder with
      | some (h, lo) =>
        if h + 4 = o then
          ({ s with warden := { s.warden with wholder := none } }).wcommit h 8 (lo.toNat + 2 ^ 32 * w) { co with setBits := co.setBits <<< 32 }
        else s.wflush.wcommit o 4 w co
      | none => s.wcommit o 4 w co
    else
      let s0 := s.wflush
      if s0.wreaches then s0.wcommit o 4 w co else s0

def execWardenCharterLoad (f : WardenFlash) (s : State) : Host.Outcome State Fault Refusal := .next (s.wardenLoad f)

def execWardenWrite (off size : Nat) (v : BitVec 64) (co : Coincide) (s : State) : Host.Outcome State Fault Refusal :=
  .next (s.wardenWrite off size v.toNat co)

end Sys2Proof.Machine
end

