-- ==== Sys2Proof/Machine/HostPort.lean ====
section
/-!
DEFINITION. Machine/HostPort.lean: host requests to BAR2 (R509, R510, R520 to R522, R529) with the mapping of R71, the link, configuration
writes, and held MSI-X messages (17_host_port.md).
-/
namespace Sys2Proof.Machine

/-! ## Byte enables (R71, R510) -/

/-- The byte enables of a request, lowest address first. -/
def reqEnables (r : HostReq) : List Bool :=
  let four (b : BitVec 4) : List Bool := (List.range 4).map (fun i => b.getLsbD i)
  if r.dw = 0 then []
  else if r.dw = 1 then four r.firstBE
  else four r.firstBE ++ List.replicate (4 * (r.dw - 2)) true ++ four r.lastBE

/-- The first enabled byte and the number of bytes up to the last one, none where no byte is enabled. -/
def enabledSpan (es : List Bool) : Option (Nat × Nat) :=
  match (List.range es.length).filter (fun i => es.getD i false) with
  | [] => none
  | i :: is => some (i, (i :: is).foldl max 0 + 1 - i)

/-- Bytes of `new` where enabled, of `old` elsewhere. -/
def mergeBytes : List Bool → (new old : List Byte) → List Byte
  | e :: es, n :: ns, o :: os => (if e then n else o) :: mergeBytes es ns os
  | _, _, os => os

def Dom.completes (d : Dom) (c : Completion) : Dom := d.on (fun q => { q with host := { q.host with cpl := c } })

/-- A successful completion with data, whose bytes are device-to-host payload. -/
def Dom.completesWith (d : Dom) (bs : List Byte) : Dom := (d.completes (.success bs)).bump Off.hostTx bs.length

/-! ## Memory through BAR2 -/

/-- A host write to Granary, Counter or HBM at `a`: the enabled bytes alone are written (R340). -/
def Dom.hostMemWrite (d : Dom) (a : Nat) (es : List Bool) (data : List Byte) : Dom :=
  match enabledSpan es with
  | none => d
  | some (i, n) => d.precede .host 0 fun d =>
    match d.q.causeOf .host (a + i) n true with
    | some c => d.breachBy .host 0 c (a + i) true (leNat ((data.drop i).take (min n 8)))
    | none =>
      let bs := mergeBytes ((es.drop i).take n) ((data.drop i).take n) (d.q.readMem (a + i) n)
      ((d.maintained (a + i) n).deposit (a + i) bs).1

/-- A host read of memory: an uncorrectable error poisons the completion (R349). -/
def Dom.hostMemRead (d : Dom) (a : Nat) (es : List Bool) : Dom :=
  match enabledSpan es with
  | none => d.completesWith (zeros es.length)
  | some (i, n) =>
    let x := d.flushHolder .host 0
    if x.cutOff d.q .host then x.completes .unsupported else
    let d := x
    match d.q.causeOf .host (a + i) n false with
    | some c => (d.breachBy .host 0 c (a + i) false 0).completes .unsupported
    | none =>
      let x := (d.maintained (a + i) n).fetch (a + i) n
      match x.2 with
      | some bs => x.1.completesWith (zeros i ++ bs ++ zeros (es.length - i - n))
      | none => x.1.completes .poisoned

/-! ## The register window through a TLP (R71, R86) -/

/-- A narrow or otherwise malformed host access to the window: logged, after what is held has been committed. -/
def Dom.hostMalformed (d : Dom) (c : LogCause) (o : Nat) : Dom := d.precede .host 0 (·.accLog .host c (winBase + o))

/-- The enabled bytes of a 32-bit value, the other bytes 0. -/
def maskBytes (be : BitVec 4) (v : Nat) : Nat :=
  ((List.range 4).map (fun i => if be.getLsbD i then v / 2 ^ (8 * i) % 256 * 2 ^ (8 * i) else 0)).sum

/-- The lowest enabled byte. -/
def firstByte (be : BitVec 4) : Nat := ((List.range 4).find? (fun i => be.getLsbD i)).getD 0

/-- One 32-bit slot of a write; a host PF that the slot before has impounded makes no access (log entry 115). -/
def Dom.slotWrite (d : Dom) (o : Nat) (be : BitVec 4) (v : Nat) : Dom :=
  if d.q.imp.host ∨ be = 0 then d
  else if be = 0xF#4 then (d.regWrite .host 0 o 4 v Coincide.none).1
  else d.hostMalformed .badwidth (o + firstByte be)

/-- One 32-bit slot of a read. -/
def Dom.slotRead (d : Dom) (o : Nat) (be : BitVec 4) : Dom × Nat :=
  if d.q.imp.host ∨ be = 0 then (d, 0)
  else if be = 0xF#4 then
    let x := d.regRd .host 0 o 4
    (x.1, x.2.1)
  else
    let d1 := d.flushHolder .host 0
    if d1.q.imp.host then (d1, 0)
    else
      let v := if readsClear o || isInner o then 0 else maskBytes be (d1.q.peek .host o)
      (d1.accLog .host .badwidth (winBase + o + firstByte be), v)

/-- A host write to the window at offset `o`, a multiple of 4. -/
def Dom.tlpWrite (d : Dom) (o : Nat) (r : HostReq) : Dom :=
  if r.dw = 1 then d.slotWrite o r.firstBE (fieldAt r.data 0 4)
  else if r.dw ≠ 2 then d.hostMalformed .badwidth o
  else if o % 8 ≠ 0 then d.hostMalformed .badalign o
  else if r.firstBE = 0xF#4 ∧ r.lastBE = 0xF#4 then (d.regWrite .host 0 o 8 (fieldAt r.data 0 8) Coincide.none).1
  else (d.slotWrite o r.firstBE (fieldAt r.data 0 4)).slotWrite (o + 4) r.lastBE (fieldAt r.data 4 4)

/-- A host read of the window. -/
def Dom.tlpRead (d : Dom) (o : Nat) (r : HostReq) : Dom × List Byte :=
  if r.dw = 1 then
    let x := d.slotRead o r.firstBE
    (x.1, natLe 4 x.2)
  else if r.dw ≠ 2 then (d.hostMalformed .badwidth o, List.replicate (4 * r.dw) 0xFF#8)
  else if o % 8 ≠ 0 then (d.hostMalformed .badalign o, List.replicate 8 0xFF#8)
  else if r.firstBE = 0xF#4 ∧ r.lastBE = 0xF#4 then
    let x := d.regRd .host 0 o 8
    (x.1, natLe 8 x.2.1)
  else
    let x := d.slotRead o r.firstBE
    let y := x.1.slotRead (o + 4) r.lastBE
    (y.1, natLe 4 x.2 ++ natLe 4 y.2)

/-- A read of the window completes, but for one that impounded the PF (R71, R81). -/
def Dom.tlpReadDone (d : Dom) (o : Nat) (r : HostReq) : Dom :=
  let x := d.tlpRead o r
  if x.1.q.imp.host then x.1.completes .unsupported else x.1.completesWith x.2

/-! ## BAR2_ACCESS -/

/-- A host request to the register window (BAR0, or BAR2 in the register range), or to memory. BAR2 takes nothing in POWERED, CHARTER and
HBMTRAIN; BAR0 follows R59 there (R520). -/
def Dom.hostRequest (d : Dom) (r : HostReq) (a : Nat) : Dom :=
  let d1 := if r.write then d.bump Off.hostRx (4 * r.dw) else d
  if r.atomic || r.tlpPfx then
    (if r.write && !r.atomic then d1 else d1.completes .unsupported).accLog .host .badwidth a
  else if r.write && r.poisoned then d1.stick Off.hostSticky 4
  else if d.q.bootWrites && !r.bar0 then
    (if r.write then d1.accLog .host .bootwrite a else d1.completesWith (List.replicate (4 * r.dw) 0xFF#8))
  else if winBase ≤ a ∧ a < winBase + 0x400000 then
    (if r.write then d1.tlpWrite (a - winBase) r else d1.tlpReadDone (a - winBase) r)
  else if r.write then d1.hostMemWrite a (reqEnables r) r.data
  else d1.hostMemRead a (reqEnables r)

/-- The polder physical address of a request, where it lies in its BAR (R508, R509). -/
def reqAddress (r : HostReq) : Option Nat :=
  let o := r.addr / 4 * 4
  if r.dw = 0 then none
  else if r.bar0 then (if o + 4 * r.dw ≤ 0x400000 then some (winBase + o) else none)
  else if o + 4 * r.dw ≤ 0x1000000000 then some o else none

def Dom.bar2 (d : Dom) (r : HostReq) : Dom :=
  match reqAddress r with
  | none => d
  | some a =>
    if !d.q.host.linkUp then d
    else if !d.q.canIssue .host then (if r.write then d else d.completes .unsupported)
    else d.hostRequest r a

/-! ## The link and configuration (R507, R521, R525, R527) -/

/-- LINK_DOWN, of one polder's PF. -/
def Dom.loseLink (d : Dom) : Dom :=
  if d.q.host.linkUp then
    ((d.on (fun q => { q with host := q.host.linkDown })).bump Off.linkDownCount 1).stick Off.hostSticky 1
  else d

def State.linkDown (s : State) : State :=
  let s1 := Ix4.all.foldl (fun s p => s.act p Dom.loseLink) s
  { s1 with pf4 := if s1.pf4.linkUp then s1.pf4.linkDown else s1.pf4 }

/-- LINK_UP: a link that forms neither x16 nor x8 stays down. -/
def State.linkUp (s : State) (rate : BitVec 4) (width : BitVec 5) (flit : Bool) : State :=
  if s.perst ∨ (width ≠ 8#5 ∧ width ≠ 16#5) then s
  else
    let up (h : HostFn) : HostFn := { h with rate := rate, width := width, linkUp := true, flit := flit }
    { s with polders := s.polders.map (fun (q : Polder) => ({ q with host := up q.host } : Polder)), pf4 := up s.pf4 }

def HostFn.config (h : HostFn) (k : ConfigBits) : HostFn :=
  if h.linkUp then { h with 
    mse := k.mse, bme := k.bme, msixEn := k.msixEnable, fmask := k.functionMask, payload := k.payload, readSize := k.readSize } else h

/-- CONFIG_WRITE, of a PF of a polder or of PF4. -/
def State.configWrite (s : State) (pf : Option Ix4) (k : ConfigBits) : State :=
  match pf with
  | some p => s.onPol p (fun q => { q with host := q.host.config k })
  | none => s.onPf4 (·.config k)

/-- Whether a held message of a vector is to be sent now. -/
def HostFn.due (h : HostFn) (v : Nat) : Bool := h.pba.getLsbD v && h.canSend v

/-- MSIX_PENDING_SEND: one message however many events were held. -/
def HostFn.sendHeld (h : HostFn) (v : Nat) : HostFn :=
  if h.due v then { h with sent := v :: h.sent, pba := h.pba &&& ~~~(1#64 <<< v) } else h

def State.sendHeld (s : State) (pf : Option Ix4) (v : Nat) : State :=
  match pf with
  | some p => s.onPol p (fun q => if q.host.due v then { q with host := q.host.sendHeld v }.bump Off.hostTx 4 else q)
  | none => s.onPf4 (·.sendHeld v)

def execBar2Access (p : Ix4) (r : HostReq) (s : State) : Host.Outcome State Fault Refusal := .next (s.actOn p (·.bar2 r))

def execLinkDown (s : State) : Host.Outcome State Fault Refusal := .next s.linkDown

def execLinkUp (rate : BitVec 4) (width : BitVec 5) (flit : Bool) (s : State) : Host.Outcome State Fault Refusal :=
  .next (s.linkUp rate width flit)

def execConfigWrite (pf : Option Ix4) (k : ConfigBits) (s : State) : Host.Outcome State Fault Refusal := .next (s.configWrite pf k)

def execMsixPendingSend (pf : Option Ix4) (v : Nat) (s : State) : Host.Outcome State Fault Refusal := .next (s.sendHeld pf v)

end Sys2Proof.Machine
end

