-- ==== Sys2Proof/Machine/Issue.lean ====
section
/-!
DEFINITION. Machine/Issue.lean: the meaning of each short instruction of a berth as a command (R229, R242, R247), and the decoding of short
instructions from code bytes (R223, R229), which FEED and STEP use.
-/
namespace Sys2Proof.Machine

/-! ## Decoding -/

/-- The immediate of `n` bytes that follows an opcode. -/
def immAt (bs : List Byte) (n : Nat) : Nat := fieldAt bs 1 n

/-- Stack, arithmetic and logic opcodes: 0x00 to 0x2F. -/
def Short.decodeAlu (bs : List Byte) : Nat → Option Short
  | 0x00 => some (.nop)
  | 0x01 => some (.stack .dup)
  | 0x02 => some (.stack .drop)
  | 0x03 => some (.stack .swap)
  | 0x04 => some (.stack .over)
  | 0x05 => some (.stack .rot)
  | 0x06 => some (.stack .nip)
  | 0x07 => some (.stack .tuck)
  | 0x08 => some (.stack .pick)
  | 0x09 => some (.stack .roll)
  | 0x0A => some (.stack .twoDup)
  | 0x0B => some (.stack .twoDrop)
  | 0x0C => some (.stack .twoSwap)
  | 0x0D => some (.stack .depth)
  | 0x0E => some (.stack .dropn)
  | 0x0F => some (.stack .clear)
  | 0x10 => some (.alu .add)
  | 0x11 => some (.alu .sub)
  | 0x12 => some (.alu .mul)
  | 0x13 => some (.alu .mulhu)
  | 0x14 => some (.alu .mulhs)
  | 0x15 => some (.alu .divu)
  | 0x16 => some (.alu .divs)
  | 0x17 => some (.alu .remu)
  | 0x18 => some (.alu .rems)
  | 0x19 => some (.alu .neg)
  | 0x1A => some (.alu .abs)
  | 0x1B => some (.alu .mins)
  | 0x1C => some (.alu .maxs)
  | 0x1D => some (.alu .minu)
  | 0x1E => some (.alu .maxu)
  | 0x1F => some (.alu (.addi (BitVec.ofNat 8 (immAt bs 1))))
  | 0x20 => some (.alu .and)
  | 0x21 => some (.alu .or)
  | 0x22 => some (.alu .xor)
  | 0x23 => some (.alu .not)
  | 0x24 => some (.alu .shl)
  | 0x25 => some (.alu .shru)
  | 0x26 => some (.alu .shrs)
  | 0x27 => some (.alu .rotl)
  | 0x28 => some (.alu .clz)
  | 0x29 => some (.alu .ctz)
  | 0x2A => some (.alu .popc)
  | 0x2B => some (.alu .sext)
  | 0x2C => some (.alu .zext)
  | 0x2D => some (.alu .bext)
  | 0x2E => some (.alu .bins)
  | 0x2F => some (.alu .alignup)
  | _ => none

/-- Comparison, control and memory opcodes: 0x30 to 0x4F. -/
def Short.decodeFlow (bs : List Byte) : Nat → Option Short
  | 0x30 => some (.alu .eq)
  | 0x31 => some (.alu .ne)
  | 0x32 => some (.alu .lts)
  | 0x33 => some (.alu .ltu)
  | 0x34 => some (.alu .les)
  | 0x35 => some (.alu .leu)
  | 0x36 => some (.alu .eqz)
  | 0x37 => some (.alu .select)
  | 0x38 => some (.flow .br (BitVec.ofNat 16 (immAt bs 2)).toInt 2)
  | 0x39 => some (.flow .bz (BitVec.ofNat 16 (immAt bs 2)).toInt 2)
  | 0x3A => some (.flow .bnz (BitVec.ofNat 16 (immAt bs 2)).toInt 2)
  | 0x3B => some (.flow .br (BitVec.ofNat 8 (immAt bs 1)).toInt 1)
  | 0x3C => some (.flow .bz (BitVec.ofNat 8 (immAt bs 1)).toInt 1)
  | 0x3D => some (.flow .bnz (BitVec.ofNat 8 (immAt bs 1)).toInt 1)
  | 0x3E => some (.flow .djnz (BitVec.ofNat 16 (immAt bs 2)).toInt 2)
  | 0x3F => some (.jmp)
  | 0x40 => some (.load .d64)
  | 0x41 => some (.load .u32)
  | 0x42 => some (.load .s32)
  | 0x43 => some (.load .u16)
  | 0x44 => some (.load .s16)
  | 0x45 => some (.load .u8)
  | 0x46 => some (.load .s8)
  | 0x47 => some (.store 8)
  | 0x48 => some (.store 4)
  | 0x49 => some (.store 2)
  | 0x4A => some (.store 1)
  | 0x4B => some (.ldp64)
  | 0x4C => some (.stp64)
  | 0x4D => some (.fencest)
  | 0x4E => some (.cadd)
  | 0x4F => some (.cswap)
  | _ => none

/-- Literals, the return stack, tallies and shapes: 0x50 to 0x8F. -/
def Short.decodeData (bs : List Byte) : Nat → Option Short
  | 0x50 => some (.lit ((BitVec.ofNat 8 (immAt bs 1)).signExtend 64) 1)
  | 0x51 => some (.lit ((BitVec.ofNat 16 (immAt bs 2)).signExtend 64) 2)
  | 0x52 => some (.lit ((BitVec.ofNat 32 (immAt bs 4)).signExtend 64) 4)
  | 0x53 => some (.lit (BitVec.ofNat 64 (immAt bs 8)) 8)
  | 0x54 => some (.lit ((BitVec.ofNat 8 (immAt bs 1)).setWidth 64) 1)
  | 0x55 => some (.lit ((BitVec.ofNat 16 (immAt bs 2)).setWidth 64) 2)
  | 0x56 => some (.lit ((BitVec.ofNat 32 (immAt bs 4)).setWidth 64) 4)
  | 0x57 => some (.lit 0 0)
  | 0x58 => some (.lit 1 0)
  | 0x59 => some (.lit (-1#64) 0)
  | 0x5A => some (.litpc)
  | 0x60 => some (.call (BitVec.ofNat 16 (immAt bs 2)).toInt 2)
  | 0x61 => some (.call (BitVec.ofNat 24 (immAt bs 3)).toInt 3)
  | 0x62 => some (.calli)
  | 0x63 => some (.ret)
  | 0x64 => some (.toR)
  | 0x65 => some (.rFrom)
  | 0x66 => some (.rFetch)
  | 0x67 => some (.rdepth)
  | 0x68 => some (.jmpl (BitVec.ofNat 24 (immAt bs 3)).toInt)
  | 0x70 => some (.tread)
  | 0x71 => some (.twrite false)
  | 0x72 => some (.tadd)
  | 0x73 => some (.waitt)
  | 0x74 => some (.waitt8 (BitVec.ofNat 8 (immAt bs 1)))
  | 0x75 => some (.idle8 (BitVec.ofNat 8 (immAt bs 1)))
  | 0x76 => some (.idle16 (BitVec.ofNat 16 (immAt bs 2)))
  | 0x77 => some (.idle)
  | 0x78 => some (.tarm)
  | 0x80 => some (.shld)
  | 0x81 => some (.shst)
  | 0x82 => some (.shget)
  | 0x83 => some (.shset)
  | 0x84 => some (.shbase)
  | 0x85 => some (.shaddb)
  | 0x86 => some (.shclr)
  | 0x87 => some (.shcopy)
  | _ => none

/-- System and long operations: 0x90 to 0xA2. -/
def Short.decodeSystem (bs : List Byte) : Nat → Option Short
  | 0x90 => some (.endOp 0)
  | 0x91 => some (.yieldOp)
  | 0x92 => some (.ei)
  | 0x93 => some (.di)
  | 0x94 => some (.setiv)
  | 0x95 => some (.reti)
  | 0x96 => some (.imask)
  | 0x97 => some (.ipend)
  | 0x98 => some (.trap (BitVec.ofNat 8 (immAt bs 1)))
  | 0x99 => some (.tide)
  | 0x9A => some (.berth)
  | 0x9B => some (.mc)
  | 0x9C => some (.signal)
  | 0xA0 => some (.long .bmove .whole)
  | 0xA1 => some (.long .bfill .whole)
  | 0xA2 => some (.long .crc .whole)
  | _ => none

/-- The short instruction that starts a list of code bytes; a code left unlisted by R229 is a reserved opcode, and an escape is no short
instruction. -/
def Short.decode (bs : List Byte) : Option Short :=
  match bs with
  | [] => none
  | o :: _ =>
    let c := o.toNat
    if 0xF0 ≤ c ∧ c ≤ 0xF7 then none
    else
      let i := if c < 0x30 then Short.decodeAlu bs c
        else if c < 0x50 then Short.decodeFlow bs c
        else if c < 0x90 then Short.decodeData bs c
        else Short.decodeSystem bs c
      some (i.getD (.reserved o))

/-! ## Accesses after a held half (R69) -/

/-- Whether an instruction accesses memory. -/
def Short.accesses : Short → Bool
  | .load _ | .store _ | .ldp64 | .stp64 | .cadd | .cswap | .shld | .shst | .long _ _ => true
  | _ => false

/-- An instruction of the berth's program; a register half that an engine wrote for the berth is committed before the access (R69). -/
def Dom.shortAfter (d : Dom) (b : Ix4) (i : Short) : Dom :=
  if i.accesses then d.precede (.berth b) 0 (·.short b i) else d.short b i

/-- `State.short` for an instruction that accesses memory. -/
def State.shortMem (s : State) (p b : Ix4) (i : Short) : State :=
  if (s.pol p).issues b then s.act p (·.shortAfter b i) else s

/-! ## The commands -/

/-- NOP (R229). Does nothing for 1 mc. -/
def execNop (p b : Ix4) (s : State) : Host.Outcome State Fault Refusal := .next (s.short p b .nop)

/-- DUP (R229). Duplicates the top cell. -/
def execDup (p b : Ix4) (s : State) : Host.Outcome State Fault Refusal := .next (s.short p b (.stack .dup))

/-- DROP (R229). Drops the top cell. -/
def execDrop (p b : Ix4) (s : State) : Host.Outcome State Fault Refusal := .next (s.short p b (.stack .drop))

/-- SWAP (R229). Swaps the top two cells. -/
def execSwap (p b : Ix4) (s : State) : Host.Outcome State Fault Refusal := .next (s.short p b (.stack .swap))

/-- OVER (R229). Copies the second cell to the top. -/
def execOver (p b : Ix4) (s : State) : Host.Outcome State Fault Refusal := .next (s.short p b (.stack .over))

/-- ROT (R229). Rotates the third cell to the top. -/
def execRot (p b : Ix4) (s : State) : Host.Outcome State Fault Refusal := .next (s.short p b (.stack .rot))

/-- NIP (R229). Drops the second cell. -/
def execNip (p b : Ix4) (s : State) : Host.Outcome State Fault Refusal := .next (s.short p b (.stack .nip))

/-- TUCK (R229). Copies the top cell below the second. -/
def execTuck (p b : Ix4) (s : State) : Host.Outcome State Fault Refusal := .next (s.short p b (.stack .tuck))

/-- PICK (R231). Copies cell n to the top, trapping with PICKRANGE above 30. -/
def execPick (p b : Ix4) (s : State) : Host.Outcome State Fault Refusal := .next (s.short p b (.stack .pick))

/-- ROLL (R231). Moves cell n to the top, trapping with PICKRANGE above 30. -/
def execRoll (p b : Ix4) (s : State) : Host.Outcome State Fault Refusal := .next (s.short p b (.stack .roll))

/-- TWO_DUP (R229). 2DUP duplicates the top pair. -/
def execTwoDup (p b : Ix4) (s : State) : Host.Outcome State Fault Refusal := .next (s.short p b (.stack .twoDup))

/-- TWO_DROP (R229). 2DROP drops the top pair. -/
def execTwoDrop (p b : Ix4) (s : State) : Host.Outcome State Fault Refusal := .next (s.short p b (.stack .twoDrop))

/-- TWO_SWAP (R229). 2SWAP swaps the top two pairs. -/
def execTwoSwap (p b : Ix4) (s : State) : Host.Outcome State Fault Refusal := .next (s.short p b (.stack .twoSwap))

/-- DEPTH (R229). Pushes the operand depth. -/
def execDepth (p b : Ix4) (s : State) : Host.Outcome State Fault Refusal := .next (s.short p b (.stack .depth))

/-- DROPN (R231). Drops k cells and the count. -/
def execDropn (p b : Ix4) (s : State) : Host.Outcome State Fault Refusal := .next (s.short p b (.stack .dropn))

/-- CLEAR (R231). Empties the operand stack. -/
def execClear (p b : Ix4) (s : State) : Host.Outcome State Fault Refusal := .next (s.short p b (.stack .clear))

/-- ADD (R229). Adds modulo 2^64. -/
def execAdd (p b : Ix4) (s : State) : Host.Outcome State Fault Refusal := .next (s.short p b (.alu .add))

/-- SUB (R229). Subtracts modulo 2^64. -/
def execSub (p b : Ix4) (s : State) : Host.Outcome State Fault Refusal := .next (s.short p b (.alu .sub))

/-- MUL (R229). Low 64 bits of the product. -/
def execMul (p b : Ix4) (s : State) : Host.Outcome State Fault Refusal := .next (s.short p b (.alu .mul))

/-- MULHU (R229). High 64 bits of the unsigned product. -/
def execMulhu (p b : Ix4) (s : State) : Host.Outcome State Fault Refusal := .next (s.short p b (.alu .mulhu))

/-- MULHS (R229). High 64 bits of the signed product. -/
def execMulhs (p b : Ix4) (s : State) : Host.Outcome State Fault Refusal := .next (s.short p b (.alu .mulhs))

/-- DIVU (R230). Unsigned division, with the divide-by-zero result defined. -/
def execDivu (p b : Ix4) (s : State) : Host.Outcome State Fault Refusal := .next (s.short p b (.alu .divu))

/-- DIVS (R230). Signed division, with the special cases defined. -/
def execDivs (p b : Ix4) (s : State) : Host.Outcome State Fault Refusal := .next (s.short p b (.alu .divs))

/-- REMU (R230). Unsigned remainder. -/
def execRemu (p b : Ix4) (s : State) : Host.Outcome State Fault Refusal := .next (s.short p b (.alu .remu))

/-- REMS (R230). Signed remainder, with the sign of a. -/
def execRems (p b : Ix4) (s : State) : Host.Outcome State Fault Refusal := .next (s.short p b (.alu .rems))

/-- NEG (R229). Negates the top cell. -/
def execNeg (p b : Ix4) (s : State) : Host.Outcome State Fault Refusal := .next (s.short p b (.alu .neg))

/-- ABS (R229). Absolute value of the top cell. -/
def execAbs (p b : Ix4) (s : State) : Host.Outcome State Fault Refusal := .next (s.short p b (.alu .abs))

/-- MINS (R229). Signed minimum. -/
def execMins (p b : Ix4) (s : State) : Host.Outcome State Fault Refusal := .next (s.short p b (.alu .mins))

/-- MAXS (R229). Signed maximum. -/
def execMaxs (p b : Ix4) (s : State) : Host.Outcome State Fault Refusal := .next (s.short p b (.alu .maxs))

/-- MINU (R229). Unsigned minimum. -/
def execMinu (p b : Ix4) (s : State) : Host.Outcome State Fault Refusal := .next (s.short p b (.alu .minu))

/-- MAXU (R229). Unsigned maximum. -/
def execMaxu (p b : Ix4) (s : State) : Host.Outcome State Fault Refusal := .next (s.short p b (.alu .maxu))

/-- ADDI8 (R229). Adds a sign-extended 8-bit immediate. -/
def execAddi8 (p b : Ix4) (imm : BitVec 8) (s : State) : Host.Outcome State Fault Refusal := .next (s.short p b (.alu (.addi imm)))

/-- AND (R229). Bitwise AND. -/
def execAndOp (p b : Ix4) (s : State) : Host.Outcome State Fault Refusal := .next (s.short p b (.alu .and))

/-- OR (R229). Bitwise OR. -/
def execOrOp (p b : Ix4) (s : State) : Host.Outcome State Fault Refusal := .next (s.short p b (.alu .or))

/-- XOR (R229). Bitwise XOR. -/
def execXorOp (p b : Ix4) (s : State) : Host.Outcome State Fault Refusal := .next (s.short p b (.alu .xor))

/-- NOT (R229). Bitwise complement. -/
def execNotOp (p b : Ix4) (s : State) : Host.Outcome State Fault Refusal := .next (s.short p b (.alu .not))

/-- SHL (R229). Shifts left by n modulo 64. -/
def execShl (p b : Ix4) (s : State) : Host.Outcome State Fault Refusal := .next (s.short p b (.alu .shl))

/-- SHRU (R229). Logical right shift. -/
def execShru (p b : Ix4) (s : State) : Host.Outcome State Fault Refusal := .next (s.short p b (.alu .shru))

/-- SHRS (R229). Arithmetic right shift. -/
def execShrs (p b : Ix4) (s : State) : Host.Outcome State Fault Refusal := .next (s.short p b (.alu .shrs))

/-- ROTL (R229). Rotates left. -/
def execRotl (p b : Ix4) (s : State) : Host.Outcome State Fault Refusal := .next (s.short p b (.alu .rotl))

/-- CLZ (R229). Counts leading zeros. -/
def execClz (p b : Ix4) (s : State) : Host.Outcome State Fault Refusal := .next (s.short p b (.alu .clz))

/-- CTZ (R229). Counts trailing zeros. -/
def execCtz (p b : Ix4) (s : State) : Host.Outcome State Fault Refusal := .next (s.short p b (.alu .ctz))

/-- POPC (R229). Population count. -/
def execPopc (p b : Ix4) (s : State) : Host.Outcome State Fault Refusal := .next (s.short p b (.alu .popc))

/-- SEXT (R229). Sign-extends from bit n − 1. -/
def execSext (p b : Ix4) (s : State) : Host.Outcome State Fault Refusal := .next (s.short p b (.alu .sext))

/-- ZEXT (R229). Zero-extends from bit n − 1. -/
def execZext (p b : Ix4) (s : State) : Host.Outcome State Fault Refusal := .next (s.short p b (.alu .zext))

/-- BEXT (R230). Extracts a bit field. -/
def execBext (p b : Ix4) (s : State) : Host.Outcome State Fault Refusal := .next (s.short p b (.alu .bext))

/-- BINS (R230). Inserts a bit field. -/
def execBins (p b : Ix4) (s : State) : Host.Outcome State Fault Refusal := .next (s.short p b (.alu .bins))

/-- ALIGNUP (R229). Rounds up to a multiple of 2^k. -/
def execAlignup (p b : Ix4) (s : State) : Host.Outcome State Fault Refusal := .next (s.short p b (.alu .alignup))

/-- EQ (R229). Pushes 1 if equal. -/
def execEq (p b : Ix4) (s : State) : Host.Outcome State Fault Refusal := .next (s.short p b (.alu .eq))

/-- NE (R229). Pushes 1 if not equal. -/
def execNe (p b : Ix4) (s : State) : Host.Outcome State Fault Refusal := .next (s.short p b (.alu .ne))

/-- LTS (R229). Signed less-than. -/
def execLts (p b : Ix4) (s : State) : Host.Outcome State Fault Refusal := .next (s.short p b (.alu .lts))

/-- LTU (R229). Unsigned less-than. -/
def execLtu (p b : Ix4) (s : State) : Host.Outcome State Fault Refusal := .next (s.short p b (.alu .ltu))

/-- LES (R229). Signed less-or-equal. -/
def execLes (p b : Ix4) (s : State) : Host.Outcome State Fault Refusal := .next (s.short p b (.alu .les))

/-- LEU (R229). Unsigned less-or-equal. -/
def execLeu (p b : Ix4) (s : State) : Host.Outcome State Fault Refusal := .next (s.short p b (.alu .leu))

/-- EQZ (R229). Pushes 1 if zero. -/
def execEqz (p b : Ix4) (s : State) : Host.Outcome State Fault Refusal := .next (s.short p b (.alu .eqz))

/-- SELECT (R229). Selects a or b by a flag. -/
def execSelect (p b : Ix4) (s : State) : Host.Outcome State Fault Refusal := .next (s.short p b (.alu .select))

/-- BR (R229). Unconditional relative branch with a 16-bit offset. -/
def execBr (p b : Ix4) (imm : BitVec 16) (s : State) : Host.Outcome State Fault Refusal := .next (s.short p b (.flow .br imm.toInt 2))

/-- BZ (R229). Branches if the flag is zero. -/
def execBz (p b : Ix4) (imm : BitVec 16) (s : State) : Host.Outcome State Fault Refusal := .next (s.short p b (.flow .bz imm.toInt 2))

/-- BNZ (R229). Branches if the flag is non-zero. -/
def execBnz (p b : Ix4) (imm : BitVec 16) (s : State) : Host.Outcome State Fault Refusal := .next (s.short p b (.flow .bnz imm.toInt 2))

/-- BR8 (R229). Unconditional branch with an 8-bit offset. -/
def execBr8 (p b : Ix4) (imm : BitVec 8) (s : State) : Host.Outcome State Fault Refusal := .next (s.short p b (.flow .br imm.toInt 1))

/-- BZ8 (R229). Branch if zero, with an 8-bit offset. -/
def execBz8 (p b : Ix4) (imm : BitVec 8) (s : State) : Host.Outcome State Fault Refusal := .next (s.short p b (.flow .bz imm.toInt 1))

/-- BNZ8 (R229). Branch if non-zero, with an 8-bit offset. -/
def execBnz8 (p b : Ix4) (imm : BitVec 8) (s : State) : Host.Outcome State Fault Refusal := .next (s.short p b (.flow .bnz imm.toInt 1))

/-- DJNZ (R229). Decrements and branches if non-zero. -/
def execDjnz (p b : Ix4) (imm : BitVec 16) (s : State) : Host.Outcome State Fault Refusal := .next (s.short p b (.flow .djnz imm.toInt 2))

/-- JMP (R229). Jumps to a[16:0]. -/
def execJmp (p b : Ix4) (s : State) : Host.Outcome State Fault Refusal := .next (s.short p b .jmp)

/-- LD64 (R226). 64-bit load that pushes a pending cell landing L mc later. -/
def execLd64 (p b : Ix4) (s : State) : Host.Outcome State Fault Refusal := .next (s.shortMem p b (.load .d64))

/-- LD32U (R226). 32-bit zero-extending load. -/
def execLd32u (p b : Ix4) (s : State) : Host.Outcome State Fault Refusal := .next (s.shortMem p b (.load .u32))

/-- LD32S (R226). 32-bit sign-extending load. -/
def execLd32s (p b : Ix4) (s : State) : Host.Outcome State Fault Refusal := .next (s.shortMem p b (.load .s32))

/-- LD16U (R226). 16-bit zero-extending load. -/
def execLd16u (p b : Ix4) (s : State) : Host.Outcome State Fault Refusal := .next (s.shortMem p b (.load .u16))

/-- LD16S (R226). 16-bit sign-extending load. -/
def execLd16s (p b : Ix4) (s : State) : Host.Outcome State Fault Refusal := .next (s.shortMem p b (.load .s16))

/-- LD8U (R226). 8-bit zero-extending load. -/
def execLd8u (p b : Ix4) (s : State) : Host.Outcome State Fault Refusal := .next (s.shortMem p b (.load .u8))

/-- LD8S (R226). 8-bit sign-extending load. -/
def execLd8s (p b : Ix4) (s : State) : Host.Outcome State Fault Refusal := .next (s.shortMem p b (.load .s8))

/-- ST64 (R227). 64-bit store landing L mc after issue. -/
def execSt64 (p b : Ix4) (s : State) : Host.Outcome State Fault Refusal := .next (s.shortMem p b (.store 8))

/-- ST32 (R227). Stores the low 32 bits. -/
def execSt32 (p b : Ix4) (s : State) : Host.Outcome State Fault Refusal := .next (s.shortMem p b (.store 4))

/-- ST16 (R227). Stores the low 16 bits. -/
def execSt16 (p b : Ix4) (s : State) : Host.Outcome State Fault Refusal := .next (s.shortMem p b (.store 2))

/-- ST8 (R227). Stores the low byte. -/
def execSt8 (p b : Ix4) (s : State) : Host.Outcome State Fault Refusal := .next (s.shortMem p b (.store 1))

/-- LDP64 (R229). 64-bit load with post-increment of the address. -/
def execLdp64 (p b : Ix4) (s : State) : Host.Outcome State Fault Refusal := .next (s.shortMem p b .ldp64)

/-- STP64 (R229). 64-bit store with post-increment of the address. -/
def execStp64 (p b : Ix4) (s : State) : Host.Outcome State Fault Refusal := .next (s.shortMem p b .stp64)

/-- FENCEST (R229). Waits until every short store of the berth has landed. -/
def execFencest (p b : Ix4) (s : State) : Host.Outcome State Fault Refusal := .next (s.short p b .fencest)

/-- CADD (R229). Atomic 64-bit add on a Counter cell. -/
def execCadd (p b : Ix4) (s : State) : Host.Outcome State Fault Refusal := .next (s.shortMem p b .cadd)

/-- CSWAP (R229). Atomic compare-and-swap on a Counter cell. -/
def execCswap (p b : Ix4) (s : State) : Host.Outcome State Fault Refusal := .next (s.shortMem p b .cswap)

/-- LIT8 (R229). Pushes a sign-extended 8-bit literal. -/
def execLit8 (p b : Ix4) (imm : BitVec 8) (s : State) : Host.Outcome State Fault Refusal := .next (s.short p b (.lit (imm.signExtend 64) 1))

/-- LIT16 (R229). Pushes a sign-extended 16-bit literal. -/
def execLit16 (p b : Ix4) (imm : BitVec 16) (s : State) : Host.Outcome State Fault Refusal :=
  .next (s.short p b (.lit (imm.signExtend 64) 2))

/-- LIT32 (R229). Pushes a sign-extended 32-bit literal. -/
def execLit32 (p b : Ix4) (imm : BitVec 32) (s : State) : Host.Outcome State Fault Refusal :=
  .next (s.short p b (.lit (imm.signExtend 64) 4))

/-- LIT64 (R229). Pushes a 64-bit literal. -/
def execLit64 (p b : Ix4) (imm : BitVec 64) (s : State) : Host.Outcome State Fault Refusal := .next (s.short p b (.lit imm 8))

/-- LIT8U (R229). Pushes a zero-extended 8-bit literal. -/
def execLit8u (p b : Ix4) (imm : BitVec 8) (s : State) : Host.Outcome State Fault Refusal := .next (s.short p b (.lit (imm.setWidth 64) 1))

/-- LIT16U (R229). Pushes a zero-extended 16-bit literal. -/
def execLit16u (p b : Ix4) (imm : BitVec 16) (s : State) : Host.Outcome State Fault Refusal :=
  .next (s.short p b (.lit (imm.setWidth 64) 2))

/-- LIT32U (R229). Pushes a zero-extended 32-bit literal. -/
def execLit32u (p b : Ix4) (imm : BitVec 32) (s : State) : Host.Outcome State Fault Refusal :=
  .next (s.short p b (.lit (imm.setWidth 64) 4))

/-- ZERO (R229). Pushes 0. -/
def execZero (p b : Ix4) (s : State) : Host.Outcome State Fault Refusal := .next (s.short p b (.lit 0 0))

/-- ONE (R229). Pushes 1. -/
def execOne (p b : Ix4) (s : State) : Host.Outcome State Fault Refusal := .next (s.short p b (.lit 1 0))

/-- MINUS1 (R229). Pushes −1. -/
def execMinus1 (p b : Ix4) (s : State) : Host.Outcome State Fault Refusal := .next (s.short p b (.lit (-1#64) 0))

/-- LITPC (R229). Pushes the offset of the next instruction. -/
def execLitpc (p b : Ix4) (s : State) : Host.Outcome State Fault Refusal := .next (s.short p b .litpc)

/-- CALL (R232). Relative call that pushes a return cell. -/
def execCall (p b : Ix4) (imm : BitVec 16) (s : State) : Host.Outcome State Fault Refusal := .next (s.short p b (.call imm.toInt 2))

/-- CALLL (R232). Relative call with a 24-bit offset. -/
def execCalll (p b : Ix4) (imm : BitVec 24) (s : State) : Host.Outcome State Fault Refusal := .next (s.short p b (.call imm.toInt 3))

/-- CALLI (R232). Indirect call to a[16:0]. -/
def execCalli (p b : Ix4) (s : State) : Host.Outcome State Fault Refusal := .next (s.short p b .calli)

/-- RET (R232). Pops a return cell, trapping with RETMIX on an interrupt cell. -/
def execRet (p b : Ix4) (s : State) : Host.Outcome State Fault Refusal := .next (s.short p b .ret)

/-- TO_R (R229). >R moves a cell to the return stack. -/
def execToR (p b : Ix4) (s : State) : Host.Outcome State Fault Refusal := .next (s.short p b .toR)

/-- R_FROM (R229). R> moves a cell from the return stack. -/
def execRFrom (p b : Ix4) (s : State) : Host.Outcome State Fault Refusal := .next (s.short p b .rFrom)

/-- R_FETCH (R229). R@ copies the top of the return stack. -/
def execRFetch (p b : Ix4) (s : State) : Host.Outcome State Fault Refusal := .next (s.short p b .rFetch)

/-- RDEPTH (R229). Pushes the return depth. -/
def execRdepth (p b : Ix4) (s : State) : Host.Outcome State Fault Refusal := .next (s.short p b .rdepth)

/-- JMPL (R229). Relative jump with a 24-bit offset. -/
def execJmpl (p b : Ix4) (imm : BitVec 24) (s : State) : Host.Outcome State Fault Refusal := .next (s.short p b (.jmpl imm.toInt))

/-- TREAD (R229). Reads tally t. -/
def execTread (p b : Ix4) (s : State) : Host.Outcome State Fault Refusal := .next (s.short p b .tread)

/-- TWRITE (R250). Sets tally t; it wins over a simultaneous increment. -/
def execTwrite (p b : Ix4) (co : Bool) (s : State) : Host.Outcome State Fault Refusal := .next (s.short p b (.twrite co))

/-- TADD (R250). Adds to tally t. -/
def execTadd (p b : Ix4) (s : State) : Host.Outcome State Fault Refusal := .next (s.short p b .tadd)

/-- WAITT (R236). Stalls until tally t has reached v. -/
def execWaitt (p b : Ix4) (s : State) : Host.Outcome State Fault Refusal := .next (s.short p b .waitt)

/-- WAITT8 (R236). WAITT with t and v in an 8-bit immediate. -/
def execWaitt8 (p b : Ix4) (imm : BitVec 8) (s : State) : Host.Outcome State Fault Refusal := .next (s.short p b (.waitt8 imm))

/-- IDLE8 (R229). Idles for imm + 1 mc. -/
def execIdle8 (p b : Ix4) (imm : BitVec 8) (s : State) : Host.Outcome State Fault Refusal := .next (s.short p b (.idle8 imm))

/-- IDLE16 (R229). Idles for imm + 1 mc, with a 16-bit immediate. -/
def execIdle16 (p b : Ix4) (imm : BitVec 16) (s : State) : Host.Outcome State Fault Refusal := .next (s.short p b (.idle16 imm))

/-- IDLE (R229). Idles for max(1, n) mc. -/
def execIdle (p b : Ix4) (s : State) : Host.Outcome State Fault Refusal := .next (s.short p b .idle)

/-- TARM (R241). Arms the TALLY interrupt for tally t at v. -/
def execTarm (p b : Ix4) (s : State) : Host.Outcome State Fault Refusal := .next (s.short p b .tarm)

/-- SHLD (R234). Loads shape entry i from memory, taking effect L + 4 mc later. -/
def execShld (p b : Ix4) (s : State) : Host.Outcome State Fault Refusal := .next (s.shortMem p b .shld)

/-- SHST (R234). Stores shape entry i to memory. -/
def execShst (p b : Ix4) (s : State) : Host.Outcome State Fault Refusal := .next (s.shortMem p b .shst)

/-- SHGET (R233). Reads a shape-entry field. -/
def execShget (p b : Ix4) (s : State) : Host.Outcome State Fault Refusal := .next (s.short p b .shget)

/-- SHSET (R233). Writes a shape-entry field, truncated to its width. -/
def execShset (p b : Ix4) (s : State) : Host.Outcome State Fault Refusal := .next (s.short p b .shset)

/-- SHBASE (R234). Sets BASE of entry i. -/
def execShbase (p b : Ix4) (s : State) : Host.Outcome State Fault Refusal := .next (s.short p b .shbase)

/-- SHADDB (R234). Adds to BASE of entry i. -/
def execShaddb (p b : Ix4) (s : State) : Host.Outcome State Fault Refusal := .next (s.short p b .shaddb)

/-- SHCLR (R234). Clears entry i. -/
def execShclr (p b : Ix4) (s : State) : Host.Outcome State Fault Refusal := .next (s.short p b .shclr)

/-- SHCOPY (R234). Copies one shape entry to another. -/
def execShcopy (p b : Ix4) (s : State) : Host.Outcome State Fault Refusal := .next (s.short p b .shcopy)

/-- END (R244). Stalls until all operations report; the waybill then completes OK and its group is freed. -/
def execEndOp (p b : Ix4) (drain : Nat) (s : State) : Host.Outcome State Fault Refusal := .next (s.short p b (.endOp drain))

/-- YIELD (R246). Suspends issue until admission resumes after the next boundary. -/
def execYieldOp (p b : Ix4) (s : State) : Host.Outcome State Fault Refusal := .next (s.short p b .yieldOp)

/-- EI (R242). Sets IE. -/
def execEi (p b : Ix4) (s : State) : Host.Outcome State Fault Refusal := .next (s.short p b .ei)

/-- DI (R242). Clears IE. -/
def execDi (p b : Ix4) (s : State) : Host.Outcome State Fault Refusal := .next (s.short p b .di)

/-- SETIV (R229). Sets IVBASE. -/
def execSetiv (p b : Ix4) (s : State) : Host.Outcome State Fault Refusal := .next (s.short p b .setiv)

/-- RETI (R242). Returns from an interrupt and restores IE. -/
def execReti (p b : Ix4) (s : State) : Host.Outcome State Fault Refusal := .next (s.short p b .reti)

/-- IMASK (R229). Sets the interrupt mask. -/
def execImask (p b : Ix4) (s : State) : Host.Outcome State Fault Refusal := .next (s.short p b .imask)

/-- IPEND (R229). Pushes the pending bits. -/
def execIpend (p b : Ix4) (s : State) : Host.Outcome State Fault Refusal := .next (s.short p b .ipend)

/-- TRAP (R245). Ends the waybill TRAPPED with a code. -/
def execTrap (p b : Ix4) (imm : BitVec 8) (s : State) : Host.Outcome State Fault Refusal := .next (s.short p b (.trap imm))

/-- TIDE (R229). Pushes the tide number. -/
def execTide (p b : Ix4) (s : State) : Host.Outcome State Fault Refusal := .next (s.short p b .tide)

/-- BERTH (R229). Pushes the berth number and its mill group. -/
def execBerth (p b : Ix4) (s : State) : Host.Outcome State Fault Refusal := .next (s.short p b .berth)

/-- MC (R229). Pushes the mill cycles delivered since the first instruction. -/
def execMc (p b : Ix4) (s : State) : Host.Outcome State Fault Refusal := .next (s.short p b .mc)

/-- SIGNAL (R256). Sets BERTH_SIGNAL VALUE and VALID and raises the berth-signal source. -/
def execSignal (p b : Ix4) (s : State) : Host.Outcome State Fault Refusal := .next (s.short p b .signal)

/-- BMOVE (R238). Copies n bytes in committed chunks and can be interrupted. -/
def execBmove (p b : Ix4) (stop : LongStop) (s : State) : Host.Outcome State Fault Refusal := .next (s.shortMem p b (.long .bmove stop))

/-- BFILL (R238). Fills n bytes with a 64-bit pattern. -/
def execBfill (p b : Ix4) (stop : LongStop) (s : State) : Host.Outcome State Fault Refusal := .next (s.shortMem p b (.long .bfill stop))

/-- CRC32C (R238). Folds n bytes into a CRC-32C. -/
def execCrc32c (p b : Ix4) (stop : LongStop) (s : State) : Host.Outcome State Fault Refusal := .next (s.shortMem p b (.long .crc stop))

/-- RESERVED_OPCODE (R247). A reserved opcode gives an undefined result without a trap. -/
def execReservedOpcode (p b : Ix4) (op : Byte) (s : State) : Host.Outcome State Fault Refusal := .next (s.short p b (.reserved op))

/-- Whether an interrupt is taken now, and its source (R242, R243): between two instructions, before an escape that waits for room, or in a
WAITT stall. -/
def Polder.interrupts (q : Polder) (b : Ix4) : Option Nat :=
  let x := q.berths.get b
  if q.millsRun && x.run.isSome && !x.impounded && !x.halted &&
      (match x.phase with
        | .running | .wideStall | .waitt _ _ _ _ => true
        | _ => false) then x.takeable
  else none

/-- INTERRUPT_ENTRY, after `stall` mill cycles of the stall that it ends, if the berth stood in one. -/
def Dom.interrupt (d : Dom) (b : Ix4) (stall : Nat) : Dom :=
  match d.q.interrupts b with
  | some src => (d.stall b stall).enterInterrupt b src
  | none => d

/-- INTERRUPT_ENTRY (R242). A pending enabled source with IE set is taken: a return cell is pushed and execution jumps to the vector. -/
def execInterruptEntry (p : Ix4) (b : Stood) (s : State) : Host.Outcome State Fault Refusal :=
  .next (s.actOn p (·.interrupt b.berth b.stall))

end Sys2Proof.Machine
end

