-- ==== Sys2Proof/Machine/RvFloat.lean ====
section
/-!
DEFINITION. Machine/RvFloat.lean: the arithmetic of the F and D extensions that R488 names: IEEE 754 binary32 and binary64 in the five
rounding modes, with the exception flags that each operation raises.
-/
namespace Sys2Proof.Machine

def fmtF64 : Fmt := ⟨11, 52⟩

/-- The format of an fmt field: 0 single, 1 double. -/
def rvFmt (n : Nat) : Fmt := if n = 0 then fmtF32 else fmtF64

/-- Bytes of a format's encodings. -/
def Fmt.bytes (f : Fmt) : Nat := (f.ebits + f.mbits + 1) / 8

/-- An encoding and the exception flags raised: NV 16, DZ 8, OF 4, UF 2, NX 1. -/
structure FpOut where
  val : Nat
  flags : Nat
deriving DecidableEq, Repr

def flagNv : Nat := 16

def flagDz : Nat := 8

/-- The infinity and the largest finite number of a sign, and the canonical NaN. -/
def Fmt.infinity (f : Fmt) (neg : Bool) : Nat := bit neg * 2 ^ (f.ebits + f.mbits) + (2 ^ f.ebits - 1) * 2 ^ f.mbits

def Fmt.largest (f : Fmt) (neg : Bool) : Nat := f.infinity neg - 1

def Fmt.quiet (f : Fmt) : Nat := f.infinity false + 2 ^ (f.mbits - 1)

/-- Whether an encoding is a signaling NaN. -/
def Fmt.signaling (f : Fmt) (v : Nat) : Bool :=
  decide (f.unpack v = .nan) && !bitOf v (f.mbits - 1)

/-- Invalid operation where an operand is a signaling NaN. -/
def Fmt.nanFlags (f : Fmt) (vs : List Nat) : Nat := if vs.any f.signaling then flagNv else 0

/-! ## Rounding -/

/-- m × 2^e in a rounding mode as a multiple of 2^q, and whether that is inexact: 0 nearest even, 1 to zero, 2 down, 3 up, 4 nearest,
ties away from zero. -/
def roundIn (rm : Nat) (neg : Bool) (m : Nat) (e q : Int) : Nat × Bool :=
  if q ≤ e then (m * 2 ^ (e - q).toNat, false)
  else
    let s := (q - e).toNat
    let lo := m / 2 ^ s
    let r := m % 2 ^ s
    let half := 2 ^ (s - 1)
    let up : Bool := match rm with
      | 0 => decide (half < r) || (decide (r = half) && decide (lo % 2 = 1))
      | 1 => false
      | 2 => neg && decide (r ≠ 0)
      | 3 => !neg && decide (r ≠ 0)
      | _ => decide (half ≤ r)
    (if up then lo + 1 else lo, decide (r ≠ 0))

/-- A finite value in a format: OF with an infinity or the largest number, as the mode says; UF for a result that is tiny after rounding
and inexact. -/
def Fmt.fit (f : Fmt) (rm : Nat) (neg : Bool) (m : Nat) (e : Int) : FpOut :=
  let norm (x : Nat × Bool) (q : Int) : Nat × Int := if x.1 = 2 ^ (f.mbits + 1) then (2 ^ f.mbits, q + 1) else (x.1, q)
  let q0 := e + bitLen m - (f.mbits + 1)
  let q := max q0 f.qmin
  let x := roundIn rm neg m e q
  let r := norm x q
  let tiny := decide ((norm (roundIn rm neg m e q0) q0).2 < f.qmin)
  if f.over r.1 r.2 then
    ⟨if rm = 1 ∨ (rm = 2 ∧ !neg) ∨ (rm = 3 ∧ neg) then f.largest neg else f.infinity neg, 5⟩
  else ⟨f.encode neg r.1 r.2, bit x.2 + 2 * bit (x.2 && tiny && decide (m ≠ 0))⟩

/-- An exact value in a format; a NaN is the canonical one. -/
def Fmt.pack (f : Fmt) (rm : Nat) (v : Num) : FpOut :=
  match v with
  | .nan => ⟨f.quiet, 0⟩
  | .inf n => ⟨f.infinity n, 0⟩
  | .fin n m e => f.fit rm n m e

/-- A result with more flags. -/
def FpOut.raise (x : FpOut) (k : Nat) : FpOut := { x with flags := x.flags ||| k }

/-! ## Arithmetic -/

/-- The exact sum; an exact zero from opposite signs is −0 when rounding down. -/
def sumIn (rm : Nat) (a b : Num) : Num :=
  match a, b, a.add b with
  | .fin s _ _, .fin t _ _, .fin n m e => .fin (if m = 0 ∧ s ≠ t then decide (rm = 2) else n) m e
  | _, _, c => c

/-- Invalid where neither operand is a NaN and the result is. -/
def invalid (a b r : Num) : Nat := if a ≠ .nan ∧ b ≠ .nan ∧ r = .nan then flagNv else 0

def Fmt.addIn (f : Fmt) (rm a b : Nat) (sub : Bool) : FpOut :=
  let x := f.unpack a
  let y := if sub then (f.unpack b).neg else f.unpack b
  let r := sumIn rm x y
  (f.pack rm r).raise (f.nanFlags [a, b] ||| invalid x y r)

def Fmt.mulIn (f : Fmt) (rm a b : Nat) : FpOut :=
  let r := (f.unpack a).mul (f.unpack b)
  (f.pack rm r).raise (f.nanFlags [a, b] ||| invalid (f.unpack a) (f.unpack b) r)

/-- A quotient: 2 bits more than the format keeps, and a sticky bit, make the rounding exact. -/
def Fmt.divIn (f : Fmt) (rm a b : Nat) : FpOut :=
  let nv : FpOut := ⟨f.quiet, flagNv⟩
  match f.unpack a, f.unpack b with
  | .nan, _ | _, .nan => ⟨f.quiet, f.nanFlags [a, b]⟩
  | .inf _, .inf _ => nv
  | .inf s, .fin t _ _ => ⟨f.infinity (s != t), 0⟩
  | .fin s _ _, .inf t => f.fit rm (s != t) 0 0
  | .fin s m e, .fin t n g =>
    if n = 0 then (if m = 0 then nv else ⟨f.infinity (s != t), flagDz⟩)
    else
      let k := f.mbits + 3 + bitLen n
      let x := m * 2 ^ k
      f.fit rm (s != t) (2 * (x / n) + bit (decide (x % n ≠ 0))) (e - g - k - 1)

/-- The integer square root of a number below 4^bits. -/
def isqrt (bits n : Nat) : Nat :=
  (List.range bits).foldr (fun i r => if (r + 2 ^ i) * (r + 2 ^ i) ≤ n then r + 2 ^ i else r) 0

def Fmt.sqrtIn (f : Fmt) (rm a : Nat) : FpOut :=
  match f.unpack a with
  | .nan => ⟨f.quiet, f.nanFlags [a]⟩
  | .inf n => if n then ⟨f.quiet, flagNv⟩ else ⟨a, 0⟩
  | .fin n m e =>
    if m = 0 then ⟨a, 0⟩
    else if n then ⟨f.quiet, flagNv⟩
    else
      let k := 2 * (f.mbits + 3) + (e % 2).toNat
      let x := m * 2 ^ k
      let s := isqrt (2 * f.mbits + 6) x
      f.fit rm false (2 * s + bit (decide (s * s ≠ x))) ((e - k) / 2 - 1)

/-- a × b + c in one rounding, with the product or the addend negated; ∞ × 0 is invalid whatever c is. -/
def Fmt.fmaIn (f : Fmt) (rm a b c : Nat) (negP negC : Bool) : FpOut :=
  let p0 := (f.unpack a).mul (f.unpack b)
  let p := if negP then p0.neg else p0
  let z := if negC then (f.unpack c).neg else f.unpack c
  let r := sumIn rm p z
  (f.pack rm r).raise (f.nanFlags [a, b, c] ||| invalid (f.unpack a) (f.unpack b) p0 ||| invalid p z r)

/-! ## Comparison, selection, class -/

/-- A finite value, or ±∞, below another; `zeros` ranks −0 below +0. -/
def Num.below (zeros : Bool) : Num → Num → Bool
  | .nan, _ | _, .nan => false
  | .inf s, .inf t => s && !t
  | .inf s, .fin _ _ _ => s
  | .fin _ _ _, .inf t => !t
  | .fin s m e, .fin t n g =>
    let q := min e g
    decide (scaled s m e q < scaled t n g q) || (zeros && decide (m = 0) && decide (n = 0) && s && !t)

/-- FLE 0, FLT 1, FEQ 2; a NaN compares false, and is invalid but for a quiet one in FEQ. -/
def Fmt.compare (f : Fmt) (op a b : Nat) : FpOut :=
  let x := f.unpack a
  let y := f.unpack b
  let nan := decide (x = .nan) || decide (y = .nan)
  let eq := !nan && !x.below false y && !y.below false x
  ⟨bit (if op = 2 then eq else if op = 1 then x.below false y else eq || x.below false y),
    if op = 2 then f.nanFlags [a, b] else if nan then flagNv else 0⟩

/-- FMIN and FMAX: the other operand where one is a NaN, the canonical NaN where both are. -/
def Fmt.select (f : Fmt) (max : Bool) (a b : Nat) : FpOut :=
  let x := f.unpack a
  let y := f.unpack b
  let v := if x = .nan ∧ y = .nan then f.quiet else if x = .nan then b else if y = .nan then a
    else if (if max then y.below true x else x.below true y) then a else b
  ⟨v, f.nanFlags [a, b]⟩

/-- FCLASS. -/
def Fmt.classify (f : Fmt) (v : Nat) : Nat :=
  let subnormal (m : Nat) : Bool := decide (m < 2 ^ f.mbits)
  2 ^ (match f.unpack v with
    | .nan => if f.signaling v then 8 else 9
    | .inf n => if n then 0 else 7
    | .fin n m _ => if m = 0 then (if n then 3 else 4) else if subnormal m then (if n then 2 else 5) else if n then 1 else 6)

/-! ## Conversions -/

/-- To an integer of `w` bits: a NaN and what lies beyond the range are invalid and give the nearest bound, a NaN the upper one. -/
def Fmt.toInt (f : Fmt) (rm w : Nat) (sg : Bool) (v : Nat) : FpOut :=
  let hi : Int := if sg then 2 ^ (w - 1) - 1 else 2 ^ w - 1
  let lo : Int := if sg then -2 ^ (w - 1) else 0
  match f.unpack v with
  | .nan => ⟨twos w hi, flagNv⟩
  | .inf n => ⟨twos w (if n then lo else hi), flagNv⟩
  | .fin n m e =>
    let r := roundIn rm n m e 0
    let i : Int := if n then -(r.1 : Int) else r.1
    if hi < i then ⟨twos w hi, flagNv⟩ else if i < lo then ⟨twos w lo, flagNv⟩ else ⟨twos w i, bit r.2⟩

/-- From an integer. -/
def Fmt.ofInt (f : Fmt) (rm : Nat) (i : Int) : FpOut := f.fit rm (decide (i < 0)) i.natAbs 0

/-- From the other format. -/
def Fmt.ofFmt (f g : Fmt) (rm v : Nat) : FpOut := (f.pack rm (g.unpack v)).raise (g.nanFlags [v])

end Sys2Proof.Machine
end

