-- ==== Sys2Proof/Machine/ClerkStep.lean ====
section
/-!
DEFINITION. Machine/ClerkStep.lean: one instruction of a clerk hart at its pc, for STEP (R541): RV64IMAFDC, Zba, Zbb, Zicsr, Zifencei and
Zicbom of the manuals R488 names (log entry 29).
-/
namespace Sys2Proof.Machine

/-! ## Compressed instructions -/

def rvI (op rd f3 rs1 imm : Nat) : Nat := op + 2 ^ 7 * rd + 2 ^ 12 * f3 + 2 ^ 15 * rs1 + 2 ^ 20 * (imm % 4096)

def rvS (op f3 rs1 rs2 imm : Nat) : Nat :=
  op + 2 ^ 7 * (imm % 32) + 2 ^ 12 * f3 + 2 ^ 15 * rs1 + 2 ^ 20 * rs2 + 2 ^ 25 * (imm / 32 % 128)

def rvR (op rd f3 rs1 rs2 f7 : Nat) : Nat := op + 2 ^ 7 * rd + 2 ^ 12 * f3 + 2 ^ 15 * rs1 + 2 ^ 20 * rs2 + 2 ^ 25 * f7

/-- A branch; `imm` modulo 2^13. -/
def rvB (f3 rs1 rs2 imm : Nat) : Nat :=
  0x63 + 2 ^ 7 * bitsOf imm 11 11 + 2 ^ 8 * bitsOf imm 4 1 + 2 ^ 12 * f3 + 2 ^ 15 * rs1 + 2 ^ 20 * rs2 + 2 ^ 25 * bitsOf imm 10 5
    + 2 ^ 31 * bitsOf imm 12 12

/-- A jump; `imm` modulo 2^21. -/
def rvJ (rd imm : Nat) : Nat :=
  0x6F + 2 ^ 7 * rd + 2 ^ 12 * bitsOf imm 19 12 + 2 ^ 20 * bitsOf imm 11 11 + 2 ^ 21 * bitsOf imm 10 1 + 2 ^ 31 * bitsOf imm 20 20

/-- A number of `w` bits sign-extended to `to` bits. -/
def sx (w n v : Nat) : Nat := ((BitVec.ofNat w v).signExtend n).toNat

/-- Quadrant 0. -/
def rvcQ0 (c : Nat) : Option Nat :=
  let rd := 8 + bitsOf c 4 2
  let rs := 8 + bitsOf c 9 7
  let u4 := 16 * bitsOf c 12 11 + 64 * bitsOf c 10 7 + 4 * bitsOf c 6 6 + 8 * bitsOf c 5 5
  let uw := 8 * bitsOf c 12 10 + 4 * bitsOf c 6 6 + 64 * bitsOf c 5 5
  let ud := 8 * bitsOf c 12 10 + 64 * bitsOf c 6 5
  match bitsOf c 15 13 with
  | 0 => if u4 = 0 then none else some (rvI 0x13 rd 0 2 u4)
  | 1 => some (rvI 0x07 rd 3 rs ud)
  | 2 => some (rvI 0x03 rd 2 rs uw)
  | 3 => some (rvI 0x03 rd 3 rs ud)
  | 5 => some (rvS 0x27 3 rs rd ud)
  | 6 => some (rvS 0x23 2 rs rd uw)
  | 7 => some (rvS 0x23 3 rs rd ud)
  | _ => none

/-- Quadrant 1. -/
def rvcQ1 (c : Nat) : Option Nat :=
  let rd := bitsOf c 11 7
  let rs := 8 + bitsOf c 9 7
  let r2 := 8 + bitsOf c 4 2
  let u6 := 32 * bitsOf c 12 12 + bitsOf c 6 2
  let imm := sx 6 12 u6
  let sp := sx 10 12 (512 * bitsOf c 12 12 + 16 * bitsOf c 6 6 + 64 * bitsOf c 5 5 + 128 * bitsOf c 4 3 + 32 * bitsOf c 2 2)
  let j := sx 12 21 (2048 * bitsOf c 12 12 + 16 * bitsOf c 11 11 + 256 * bitsOf c 10 9 + 1024 * bitsOf c 8 8 + 64 * bitsOf c 7 7
    + 128 * bitsOf c 6 6 + 2 * bitsOf c 5 3 + 32 * bitsOf c 2 2)
  let br := sx 9 13 (256 * bitsOf c 12 12 + 8 * bitsOf c 11 10 + 64 * bitsOf c 6 5 + 2 * bitsOf c 4 3 + 32 * bitsOf c 2 2)
  match bitsOf c 15 13 with
  | 0 => some (rvI 0x13 rd 0 rd imm)
  | 1 => if rd = 0 then none else some (rvI 0x1B rd 0 rd imm)
  | 2 => some (rvI 0x13 rd 0 0 imm)
  | 3 =>
    if u6 = 0 then none
    else if rd = 2 then some (rvI 0x13 2 0 2 sp)
    else some (0x37 + 2 ^ 7 * rd + 2 ^ 12 * sx 6 20 u6)
  | 4 =>
    match bitsOf c 11 10 with
    | 0 => some (rvI 0x13 rs 5 rs u6)
    | 1 => some (rvI 0x13 rs 5 rs (0x400 + u6))
    | 2 => some (rvI 0x13 rs 7 rs imm)
    | _ =>
      match 4 * bitsOf c 12 12 + bitsOf c 6 5 with
      | 0 => some (rvR 0x33 rs 0 rs r2 0x20)
      | 1 => some (rvR 0x33 rs 4 rs r2 0)
      | 2 => some (rvR 0x33 rs 6 rs r2 0)
      | 3 => some (rvR 0x33 rs 7 rs r2 0)
      | 4 => some (rvR 0x3B rs 0 rs r2 0x20)
      | 5 => some (rvR 0x3B rs 0 rs r2 0)
      | _ => none
  | 5 => some (rvJ 0 j)
  | 6 => some (rvB 0 rs 0 br)
  | _ => some (rvB 1 rs 0 br)

/-- Quadrant 2. -/
def rvcQ2 (c : Nat) : Option Nat :=
  let rd := bitsOf c 11 7
  let r2 := bitsOf c 6 2
  let u6 := 32 * bitsOf c 12 12 + bitsOf c 6 2
  let ldsp := 32 * bitsOf c 12 12 + 8 * bitsOf c 6 5 + 64 * bitsOf c 4 2
  let lwsp := 32 * bitsOf c 12 12 + 4 * bitsOf c 6 4 + 64 * bitsOf c 3 2
  let sdsp := 8 * bitsOf c 12 10 + 64 * bitsOf c 9 7
  let swsp := 4 * bitsOf c 12 9 + 64 * bitsOf c 8 7
  match bitsOf c 15 13 with
  | 0 => some (rvI 0x13 rd 1 rd u6)
  | 1 => some (rvI 0x07 rd 3 2 ldsp)
  | 2 => if rd = 0 then none else some (rvI 0x03 rd 2 2 lwsp)
  | 3 => if rd = 0 then none else some (rvI 0x03 rd 3 2 ldsp)
  | 4 =>
    if bitsOf c 12 12 = 0 then
      (if r2 = 0 then (if rd = 0 then none else some (rvI 0x67 0 0 rd 0)) else some (rvR 0x33 rd 0 0 r2 0))
    else if r2 = 0 then (if rd = 0 then some 0x100073 else some (rvI 0x67 1 0 rd 0))
    else some (rvR 0x33 rd 0 rd r2 0)
  | 5 => some (rvS 0x27 3 2 r2 sdsp)
  | 6 => some (rvS 0x23 2 2 r2 swsp)
  | _ => some (rvS 0x23 3 2 r2 sdsp)

/-- The 32-bit form of a compressed instruction. -/
def rvcExpand (c : Nat) : Option Nat :=
  match c % 4 with
  | 0 => rvcQ0 c
  | 1 => rvcQ1 c
  | _ => rvcQ2 c

/-! ## Integer operations -/

/-- Bits counted from the top. -/
def leadZeros (w v : Nat) : Nat := if v = 0 then w else w - 1 - v.log2

def trailZeros (w v : Nat) : Nat := ((List.range w).find? (fun i => bitOf v i)).getD w

def signed (w v : Nat) : Int := (BitVec.ofNat w v).toInt

/-- Division and remainder of `w`-bit numbers as M defines them. -/
def rvDiv (w a b : Nat) (sg rem : Bool) : Nat :=
  if b = 0 then (if rem then a else 2 ^ w - 1)
  else if sg then
    twos w (if rem then (signed w a).tmod (signed w b) else (signed w a).tdiv (signed w b))
  else if rem then a % b else a / b

def rotl (w a n : Nat) : Nat := let k := n % w; (a * 2 ^ k + a / 2 ^ (w - k)) % 2 ^ w

def shra (w a n : Nat) : Nat := twos w (signed w a / 2 ^ n)

/-- A register-register operation of OP, modulo 2^64. -/
def rvOp (f7 f3 a b : Nat) : Option Nat :=
  let m := 2 ^ 64
  match f7, f3 with
  | 0x00, 0 => some ((a + b) % m)
  | 0x00, 1 => some (a * 2 ^ (b % 64) % m)
  | 0x00, 2 => some (bit (decide (signed 64 a < signed 64 b)))
  | 0x00, 3 => some (bit (decide (a < b)))
  | 0x00, 4 => some (a ^^^ b)
  | 0x00, 5 => some (a / 2 ^ (b % 64))
  | 0x00, 6 => some (a ||| b)
  | 0x00, 7 => some (a &&& b)
  | 0x20, 0 => some ((a + m - b) % m)
  | 0x20, 4 => some (m - 1 - (a ^^^ b))
  | 0x20, 5 => some (shra 64 a (b % 64))
  | 0x20, 6 => some (a ||| (m - 1 - b))
  | 0x20, 7 => some (a &&& (m - 1 - b))
  | 0x01, 0 => some (a * b % m)
  | 0x01, 1 => some (twos 64 (signed 64 a * signed 64 b / 2 ^ 64))
  | 0x01, 2 => some (twos 64 (signed 64 a * (b : Int) / 2 ^ 64))
  | 0x01, 3 => some (a * b / m)
  | 0x01, 4 => some (rvDiv 64 a b true false)
  | 0x01, 5 => some (rvDiv 64 a b false false)
  | 0x01, 6 => some (rvDiv 64 a b true true)
  | 0x01, 7 => some (rvDiv 64 a b false true)
  | 0x10, 2 => some ((2 * a + b) % m)
  | 0x10, 4 => some ((4 * a + b) % m)
  | 0x10, 6 => some ((8 * a + b) % m)
  | 0x05, 4 => some (if signed 64 a ≤ signed 64 b then a else b)
  | 0x05, 5 => some (min a b)
  | 0x05, 6 => some (if signed 64 a ≤ signed 64 b then b else a)
  | 0x05, 7 => some (max a b)
  | 0x30, 1 => some (rotl 64 a (b % 64))
  | 0x30, 5 => some (rotl 64 a (64 - b % 64))
  | _, _ => none

/-- A register-register operation of OP-32. -/
def rvOp32 (f7 f3 rs2 a b : Nat) : Option Nat :=
  let w := 2 ^ 32
  let x := a % w
  let y := b % w
  match f7, f3 with
  | 0x00, 0 => some (sx 32 64 (x + y))
  | 0x00, 1 => some (sx 32 64 (x * 2 ^ (b % 32)))
  | 0x00, 5 => some (sx 32 64 (x / 2 ^ (b % 32)))
  | 0x20, 0 => some (sx 32 64 (x + w - y))
  | 0x20, 5 => some (sx 32 64 (shra 32 x (b % 32)))
  | 0x01, 0 => some (sx 32 64 (x * y))
  | 0x01, 4 => some (sx 32 64 (rvDiv 32 x y true false))
  | 0x01, 5 => some (sx 32 64 (rvDiv 32 x y false false))
  | 0x01, 6 => some (sx 32 64 (rvDiv 32 x y true true))
  | 0x01, 7 => some (sx 32 64 (rvDiv 32 x y false true))
  | 0x04, 0 => some ((x + b) % 2 ^ 64)
  | 0x04, 4 => if rs2 = 0 then some (a % 2 ^ 16) else none
  | 0x10, 2 => some ((2 * x + b) % 2 ^ 64)
  | 0x10, 4 => some ((4 * x + b) % 2 ^ 64)
  | 0x10, 6 => some ((8 * x + b) % 2 ^ 64)
  | 0x30, 1 => some (sx 32 64 (rotl 32 x (b % 32)))
  | 0x30, 5 => some (sx 32 64 (rotl 32 x (32 - b % 32)))
  | _, _ => none

/-- orc.b. -/
def orcB (a : Nat) : Nat := ((List.range 8).map (fun i => if a / 2 ^ (8 * i) % 256 = 0 then 0 else 255 * 2 ^ (8 * i))).sum

/-- An operation of OP-IMM; `imm` is the 12-bit field. -/
def rvOpImm (f3 imm a : Nat) : Option Nat :=
  let s := sx 12 64 imm
  match f3 with
  | 1 =>
    if imm / 64 = 0 then some (a * 2 ^ (imm % 64) % 2 ^ 64)
    else if imm = 0x600 then some (leadZeros 64 a)
    else if imm = 0x601 then some (trailZeros 64 a)
    else if imm = 0x602 then some (popcount 64 a)
    else if imm = 0x604 then some (sx 8 64 a)
    else if imm = 0x605 then some (sx 16 64 a)
    else none
  | 5 =>
    if imm / 64 = 0 then some (a / 2 ^ (imm % 64))
    else if imm / 64 = 0x10 then some (shra 64 a (imm % 64))
    else if imm / 64 = 0x18 then some (rotl 64 a (64 - imm % 64))
    else if imm = 0x287 then some (orcB a)
    else if imm = 0x6B8 then some (beNat (natLe 8 a))
    else none
  | _ => rvOp 0 f3 a s

/-- An operation of OP-IMM-32. -/
def rvOpImm32 (f3 imm a : Nat) : Option Nat :=
  let x := a % 2 ^ 32
  match f3 with
  | 0 => some (sx 32 64 (x + sx 12 32 imm))
  | 1 =>
    if imm / 32 = 0 then some (sx 32 64 (x * 2 ^ (imm % 32)))
    else if imm / 64 = 2 then some (x * 2 ^ (imm % 64) % 2 ^ 64)
    else if imm = 0x600 then some (leadZeros 32 x)
    else if imm = 0x601 then some (trailZeros 32 x)
    else if imm = 0x602 then some (popcount 32 x)
    else none
  | 5 =>
    if imm / 32 = 0 then some (sx 32 64 (x / 2 ^ (imm % 32)))
    else if imm / 32 = 0x20 then some (sx 32 64 (shra 32 x (imm % 32)))
    else if imm / 32 = 0x30 then some (sx 32 64 (rotl 32 x (32 - imm % 32)))
    else none
  | _ => none

/-- Whether a branch is taken. -/
def rvTaken (f3 a b : Nat) : Option Bool :=
  match f3 with
  | 0 => some (decide (a = b))
  | 1 => some (decide (a ≠ b))
  | 4 => some (decide (signed 64 a < signed 64 b))
  | 5 => some (decide (signed 64 b ≤ signed 64 a))
  | 6 => some (decide (a < b))
  | 7 => some (decide (b ≤ a))
  | _ => none

/-- The operation of an AMO's funct5. -/
def amoOf (f5 : Nat) : Option AmoOp :=
  match f5 with
  | 0 => some .add | 1 => some .swap | 4 => some .xor | 8 => some .or | 0xC => some .and | 0x10 => some .min | 0x14 => some .max
  | 0x18 => some .minu | 0x1C => some .maxu | _ => none

/-! ## One instruction -/

/-- The instruction retires and the next one follows. -/
def Dom.rvNext (d : Dom) (h : Ix4) (len : Nat) (f : Hart → Hart) : Dom × HartEnd :=
  (d.onHart h (fun x => f { x with pc := cell (x.pc.toNat + len) }), .value 0)

def Dom.rvGoto (d : Dom) (h : Ix4) (dest : Nat) (f : Hart → Hart) : Dom × HartEnd :=
  (d.onHart h (fun x => f { x with pc := cell (dest / 2 * 2) }), .value 0)

def Dom.rvIllegal (d : Dom) (h : Ix4) : Dom × HartEnd := (d.hartTrap h 2 0, .trapped)

/-- A result for rd, or an illegal instruction. -/
def Dom.rvResult (d : Dom) (h : Ix4) (len rd : Nat) (r : Option Nat) : Dom × HartEnd :=
  match r with
  | some v => d.rvNext h len (·.putX rd v)
  | none => d.rvIllegal h

/-- A memory access as an instruction: the pc moves on unless it trapped. -/
def Dom.rvMem (d : Dom) (h : Ix4) (len : Nat) (k : HartKind) (va n v : Nat) : Dom × HartEnd :=
  let x := d.hartDo h k (va % 2 ^ 64) n v
  match x.2 with
  | .trapped => x
  | e => (x.1.onHart h (fun y => { y with pc := cell (y.pc.toNat + len) }), e)

/-- Whether an instruction may access a CSR. -/
def Hart.csrOk (x : Hart) (c : Nat) (write : Bool) : Bool :=
  csrExists c && decide (c / 256 % 4 ≤ x.priv.code) && !(write && decide (c / 1024 = 3)) &&
    (decide (c ≠ 1 ∧ c ≠ 2 ∧ c ≠ 3) || decide (x.fs ≠ 0)) &&
    !(decide (c = 0x180) && decide (x.priv = .s) && bitOf (x.csrWord 0x300) 20) &&
    (!(decide (0xC00 ≤ c) && decide (c ≤ 0xC1F)) ||
      ((decide (x.priv = .m) || bitOf (x.csrWord 0x306) (c - 0xC00)) && (decide (x.priv ≠ .u) || bitOf (x.csrWord 0x106) (c - 0xC00))))

/-- Zicsr. -/
def Dom.rvCsr (d : Dom) (h : Ix4) (len f3 c rd rs1 : Nat) : Dom × HartEnd :=
  let x := d.hart h
  let src := if 4 ≤ f3 then rs1 else x.getX rs1
  let write := decide (f3 % 4 = 1) || decide (rs1 ≠ 0)
  if !x.csrOk c write then d.rvIllegal h
  else
    let r := d.csrRead h c
    let new := if f3 % 4 = 1 then src else if f3 % 4 = 2 then r.2 ||| src else without r.2 src
    r.1.rvNext h len (fun y => (if write then y.csrWrite c new else y).putX rd r.2)

/-- ECALL, EBREAK, returns, WFI and SFENCE.VMA. -/
def Dom.rvSystem (d : Dom) (h : Ix4) (len i : Nat) : Dom × HartEnd :=
  let x := d.hart h
  let st := x.csrWord 0x300
  let f12 := bitsOf i 31 20
  if bitsOf i 31 25 = 9 ∧ bitsOf i 11 7 = 0 then
    (if x.priv = .u ∨ (x.priv = .s ∧ bitOf st 20) then d.rvIllegal h else d.rvNext h len id)
  else if bitsOf i 19 15 ≠ 0 ∨ bitsOf i 11 7 ≠ 0 then d.rvIllegal h
  else if f12 = 0 then (d.hartTrap h (if x.priv = .m then 11 else 8 + x.priv.code) 0, .trapped)
  else if f12 = 1 then (d.hartTrap h 3 x.pc.toNat, .trapped)
  else if f12 = 0x302 then (if x.priv = .m then (d.onHart h (·.mret), .value 0) else d.rvIllegal h)
  else if f12 = 0x102 then
    (if x.priv = .u ∨ (x.priv = .s ∧ bitOf st 22) then d.rvIllegal h else (d.onHart h (·.sret), .value 0))
  else if f12 = 0x105 then
    (if x.priv = .u ∨ (x.priv = .s ∧ bitOf st 21) then d.rvIllegal h
     else d.rvNext h len (fun y => { y with wfi := decide (d.q.mip h &&& x.csrWord 0x304 = 0) }))
  else d.rvIllegal h

/-- The rounding mode of an instruction, its own or that of fcsr; none for a reserved one. -/
def Hart.rounding (x : Hart) (f3 : Nat) : Option Nat :=
  let rm := if f3 = 7 then x.csrWord 3 / 32 % 8 else f3
  if rm ≤ 4 then some rm else none

/-- An operand of `n` bytes in a register f; a single that is not boxed in ones is the canonical NaN. -/
def Hart.fpArg (x : Hart) (n r : Nat) : Nat :=
  let v := x.getF r
  if n = 8 then v else if 2 ^ 64 - 2 ^ 32 ≤ v then v % 2 ^ 32 else fmtF32.quiet

/-- Exception flags added to fcsr. -/
def Hart.addFlags (x : Hart) (k : Nat) : Hart :=
  if k = 0 then x else (x.setCsr 3 (x.csrWord 3 ||| k)).dirtyFs

/-- A result for a register f, with its flags. -/
def Dom.rvToF (d : Dom) (h : Ix4) (len rd n : Nat) (o : FpOut) : Dom × HartEnd :=
  d.rvNext h len (fun y => (y.putF rd (boxed n o.val)).addFlags o.flags)

/-- A result for a register x, with its flags. -/
def Dom.rvToX (d : Dom) (h : Ix4) (len rd : Nat) (o : FpOut) : Dom × HartEnd :=
  d.rvNext h len (fun y => (y.putX rd o.val).addFlags o.flags)

/-- An instruction that rounds: illegal in a reserved mode. -/
def Dom.rvRounds (d : Dom) (h : Ix4) (f3 : Nat) (k : Nat → Dom × HartEnd) : Dom × HartEnd :=
  match (d.hart h).rounding f3 with
  | some rm => k rm
  | none => d.rvIllegal h

/-- Floating-point instructions of OP-FP. -/
def Dom.rvFp (d : Dom) (h : Ix4) (len i : Nat) : Dom × HartEnd :=
  let x := d.hart h
  let rd := bitsOf i 11 7
  let rs1 := bitsOf i 19 15
  let rs2 := bitsOf i 24 20
  let f3 := bitsOf i 14 12
  let f := rvFmt (bitsOf i 26 25)
  let n := f.bytes
  let a := x.fpArg n rs1
  let b := x.fpArg n rs2
  let toF := d.rvToF h len rd n
  let toX := d.rvToX h len rd
  let rounds := d.rvRounds h f3
  if x.fs = 0 ∨ 1 < bitsOf i 26 25 then d.rvIllegal h
  else match bitsOf i 31 27 with
  | 0x00 => rounds (fun rm => toF (f.addIn rm a b false))
  | 0x01 => rounds (fun rm => toF (f.addIn rm a b true))
  | 0x02 => rounds (fun rm => toF (f.mulIn rm a b))
  | 0x03 => rounds (fun rm => toF (f.divIn rm a b))
  | 0x0B => if rs2 = 0 then rounds (fun rm => toF (f.sqrtIn rm a)) else d.rvIllegal h
  | 0x04 =>
    let s := 2 ^ (8 * n - 1)
    let sg := if f3 = 0 then b / s else if f3 = 1 then 1 - b / s else (a / s + b / s) % 2
    if f3 < 3 then toF ⟨a % s + s * sg, 0⟩ else d.rvIllegal h
  | 0x05 => if f3 < 2 then toF (f.select (decide (f3 = 1)) a b) else d.rvIllegal h
  | 0x14 => if f3 < 3 then toX (f.compare f3 a b) else d.rvIllegal h
  | 0x08 =>
    let g := rvFmt rs2
    if rs2 < 2 ∧ g ≠ f then rounds (fun rm => toF (f.ofFmt g rm (x.fpArg g.bytes rs1))) else d.rvIllegal h
  | 0x18 =>
    let w := if rs2 < 2 then 32 else 64
    if rs2 < 4 then
      rounds (fun rm => let o := f.toInt rm w (decide (rs2 % 2 = 0)) a; toX { o with val := sx w 64 o.val })
    else d.rvIllegal h
  | 0x1A =>
    let v := x.getX rs1
    if rs2 < 4 then
      rounds (fun rm => toF (f.ofInt rm (match rs2 with
        | 0 => signed 32 v
        | 1 => (v % 2 ^ 32 : Nat)
        | 2 => signed 64 v
        | _ => v)))
    else d.rvIllegal h
  | 0x1C =>
    if rs2 ≠ 0 then d.rvIllegal h
    else if f3 = 0 then toX ⟨sx (8 * n) 64 (x.getF rs1), 0⟩
    else if f3 = 1 then toX ⟨f.classify a, 0⟩
    else d.rvIllegal h
  | 0x1E => if rs2 = 0 ∧ f3 = 0 then toF ⟨x.getX rs1 % 2 ^ (8 * n), 0⟩ else d.rvIllegal h
  | _ => d.rvIllegal h

/-- FMADD, FMSUB, FNMSUB and FNMADD, by their opcodes. -/
def Dom.rvFma (d : Dom) (h : Ix4) (len i : Nat) : Dom × HartEnd :=
  let x := d.hart h
  let f := rvFmt (bitsOf i 26 25)
  let arg (r : Nat) : Nat := x.fpArg f.bytes r
  let op := bitsOf i 3 2
  if x.fs = 0 ∨ 1 < bitsOf i 26 25 then d.rvIllegal h
  else d.rvRounds h (bitsOf i 14 12) (fun rm =>
    d.rvToF h len (bitsOf i 11 7) f.bytes
      (f.fmaIn rm (arg (bitsOf i 19 15)) (arg (bitsOf i 24 20)) (arg (bitsOf i 31 27)) (decide (2 ≤ op)) (decide (op = 1 ∨ op = 3))))

/-- AMO, LR and SC. -/
def Dom.rvAmo (d : Dom) (h : Ix4) (len i : Nat) : Dom × HartEnd :=
  let x := d.hart h
  let rd := BitVec.ofNat 5 (bitsOf i 11 7)
  let n := if bitsOf i 14 12 = 2 then 4 else 8
  let f5 := bitsOf i 31 27
  let va := x.getX (bitsOf i 19 15)
  let v := x.getX (bitsOf i 24 20)
  if bitsOf i 14 12 ≠ 2 ∧ bitsOf i 14 12 ≠ 3 then d.rvIllegal h
  else if f5 = 2 then (if bitsOf i 24 20 = 0 then d.rvMem h len (.lr rd) va n 0 else d.rvIllegal h)
  else if f5 = 3 then d.rvMem h len (.sc rd) va n v
  else match amoOf f5 with
  | some op => d.rvMem h len (.amo op rd) va n v
  | none => d.rvIllegal h

/-- MISC-MEM: FENCE, FENCE.I and the cache-block operations. -/
def Dom.rvFence (d : Dom) (h : Ix4) (len i : Nat) : Dom × HartEnd :=
  let go (k : CboKind) : Dom × HartEnd :=
    let x := d.cboDo h k ((d.hart h).getX (bitsOf i 19 15))
    match x.2 with
    | .trapped => x
    | e => (x.1.onHart h (fun y => { y with pc := cell (y.pc.toNat + len) }), e)
  match bitsOf i 14 12 with
  | 0 | 1 => d.rvNext h len id
  | 2 =>
    if bitsOf i 11 7 ≠ 0 then d.rvIllegal h
    else (match bitsOf i 31 20 with
      | 0 => go .inval
      | 1 => go .clean
      | 2 => go .flush
      | _ => d.rvIllegal h)
  | _ => d.rvIllegal h

/-- A 32-bit instruction; `len` is 2 for one that was compressed. -/
def Dom.rvExec (d : Dom) (h : Ix4) (i len : Nat) : Dom × HartEnd :=
  let x := d.hart h
  let pc := x.pc.toNat
  let rd := bitsOf i 11 7
  let f3 := bitsOf i 14 12
  let f7 := bitsOf i 31 25
  let a := x.getX (bitsOf i 19 15)
  let b := x.getX (bitsOf i 24 20)
  let imm := bitsOf i 31 20
  let si := sx 12 64 imm
  let ss := sx 12 64 (32 * f7 + rd)
  let bi := sx 13 64 (4096 * bitsOf i 31 31 + 2048 * bitsOf i 7 7 + 32 * bitsOf i 30 25 + 2 * bitsOf i 11 8)
  let ji := sx 21 64 (2 ^ 20 * bitsOf i 31 31 + 4096 * bitsOf i 19 12 + 2048 * bitsOf i 20 20 + 2 * bitsOf i 30 21)
  let fp := BitVec.ofNat 5 rd
  match i % 128 with
  | 0x37 => d.rvNext h len (·.putX rd (sx 32 64 (i / 4096 * 4096)))
  | 0x17 => d.rvNext h len (·.putX rd (pc + sx 32 64 (i / 4096 * 4096)))
  | 0x6F => d.rvGoto h (pc + ji) (·.putX rd (pc + len))
  | 0x67 => if f3 = 0 then d.rvGoto h (a + si) (·.putX rd (pc + len)) else d.rvIllegal h
  | 0x63 => match rvTaken f3 a b with
    | some true => d.rvGoto h (pc + bi) id
    | some false => d.rvNext h len id
    | none => d.rvIllegal h
  | 0x03 =>
    if f3 = 7 then d.rvIllegal h else d.rvMem h len (.load fp (decide (f3 < 4)) false) (a + si) (2 ^ (f3 % 4)) 0
  | 0x23 => if 3 < f3 then d.rvIllegal h else d.rvMem h len .store (a + ss) (2 ^ f3) b
  | 0x07 => if f3 = 2 ∨ f3 = 3 then d.rvMem h len (.load fp false true) (a + si) (2 ^ f3) 0 else d.rvIllegal h
  | 0x27 =>
    if (f3 = 2 ∨ f3 = 3) ∧ x.fs ≠ 0 then d.rvMem h len .store (a + ss) (2 ^ f3) (x.getF (bitsOf i 24 20)) else d.rvIllegal h
  | 0x13 => d.rvResult h len rd (rvOpImm f3 imm a)
  | 0x1B => d.rvResult h len rd (rvOpImm32 f3 imm a)
  | 0x33 => d.rvResult h len rd (rvOp f7 f3 a b)
  | 0x3B => d.rvResult h len rd (rvOp32 f7 f3 (bitsOf i 24 20) a b)
  | 0x2F => d.rvAmo h len i
  | 0x0F => d.rvFence h len i
  | 0x73 => if f3 = 0 then d.rvSystem h len i else if f3 = 4 then d.rvIllegal h else d.rvCsr h len f3 imm rd (bitsOf i 19 15)
  | 0x53 => d.rvFp h len i
  | 0x43 | 0x47 | 0x4B | 0x4F => d.rvFma h len i
  | _ => d.rvIllegal h

/-- The instruction at the hart's pc, fetched and executed. -/
def Dom.rvStep (d : Dom) (h : Ix4) : Dom :=
  let pc := (d.hart h).pc.toNat
  let lo := d.hartRead h .fetch pc 2
  match lo.2 with
  | .value v =>
    if v % 4 = 3 then
      let hi := lo.1.hartRead h .fetch ((pc + 2) % 2 ^ 64) 2
      (match hi.2 with
        | .value w => (hi.1.rvExec h (v + 65536 * w) 4).1.evict
        | _ => hi.1.evict)
    else
      (match rvcExpand v with
        | some i => (lo.1.rvExec h i 2).1.evict
        | none => (lo.1.rvIllegal h).1.evict)
  | _ => lo.1.evict

end Sys2Proof.Machine
end

