-- ==== Sys2Proof/Machine/Mailbox.lean ====
section
/-!
DEFINITION. Machine/Mailbox.lean: the mailbox protocol of the Watchhouse, its levels and authentication, the spaces of READ and WRITE, and
the Logbook commands (18_watchhouse.md R531 to R538, R545 to R550, R559).
-/
namespace Sys2Proof.Machine

/-! ## Requests and responses (R535 to R537) -/

/-- What a command answers: STATUS, RESULT and the data returned. -/
structure Reply where
  status : Nat
  result : Nat
  data : List Byte
deriving DecidableEq, Repr

def Reply.plain (status : Nat) : Reply := ⟨status, 0, []⟩

def Reply.ok : Reply := Reply.plain 0

/-- The request header as its 32 bytes spell it. -/
def mbHeader (r : MbReq) (cmd sub : Nat) : BitVec 256 :=
  BitVec.ofNat 256 (leNat ([BitVec.ofNat 8 cmd, BitVec.ofNat 8 sub, r.space, r.unit] ++ natLe 4 r.len ++ natLe 8 r.addr ++ natLe 16 r.args.toNat))

/-- ARGS[hi:lo] in bytes. -/
def mbArg (r : MbReq) (lo n : Nat) : Nat := fieldAt (natLe 16 r.args.toNat) lo n

/-- The response written, DONE set, and vector 5 for BAR4. -/
def Dom.reply (d : Dom) (box : Ix2) (seq : BitVec 16) (cmd : Byte) (a : Reply) : Dom :=
  let d1 := d.onBox box (fun b => { b with
    busy := false, done := true, lastSeq := seq, status := BitVec.ofNat 8 a.status, cmd := cmd, len := a.data.length
    result := cell a.result, data := splice b.data 0 a.data, after := none })
  match box with
  | .z => d1.msix 5
  | .o => d1

/-- What a command needs: its level, whether an ABSENT polder answers it, and whether it runs while THERMTRIP# stops the clocks. -/
structure Needs where
  level : Nat
  absentOk : Bool
  stoppedOk : Bool
deriving DecidableEq, Repr

/-- The status that turns a command away before it has any effect (R536, R550). -/
def State.turnAway (s : State) (p : Ix4) (box : Ix2) (n : Needs) : Option Nat :=
  if (s.pol p).boot = .absent ∧ !n.absentOk then some 0x11
  else if ((s.pol p).watch.box.at box).level < n.level then some 1
  else if s.warden.thermtrip ∧ !n.stoppedOk then some 0x12
  else none

/-- Whether the mailbox can be reached: by the host through BAR4, by a clerk hart inside (R532). -/
def Polder.boxOpen (q : Polder) (box : Ix2) : Bool :=
  match box with
  | .z => q.canIssue .host
  | .o => Ix4.all.any (fun h => q.canIssue (.hart h))

/-- The response to a command, or the request kept where `f` has none yet. -/
def State.serve (s : State) (p : Ix4) (r : MbReq) (cmd : Nat) (a : Option Reply) : State :=
  match a with
  | some a => s.act p (·.reply r.box r.seq (BitVec.ofNat 8 cmd) a)
  | none => s

/-- A request and its doorbell (R535): header and data are in place, the monitor takes it, and it answers, or keeps it where `f` answers
none. The host's writes are host-to-device payload, and what it held is committed first (R69). Where `f` has no outcome, the row is not due
(log entry 103). -/
def State.request (s : State) (p : Ix4) (r : MbReq) (cmd sub : Nat) (n : Needs) (f : State → Option (State × Option Reply)) : State :=
  let s0 := if r.box = .z then s.act p (·.flushHolder .host 0) else s
  let b := (s0.pol p).watch.box.at r.box
  if !(s0.pol p).boxOpen r.box then s0
  else if b.busy then s0.act p (·.onBox r.box (fun b => { b with reject := true }))
  else
    let s1 := s0.act p (fun d =>
      (d.onBox r.box (fun b => { b with
        busy := true, req := mbHeader r cmd sub, data := splice b.data 0 r.data
        after := some (r.seq, BitVec.ofNat 8 cmd, Ix4.of r.unit.toNat) })).on (fun q =>
        if r.box = .z then q.bump Off.hostRx (36 + ceilDiv r.data.length 4 * 4) else q))
    match s1.turnAway p r.box n with
    | some c => s1.serve p r cmd (some (Reply.plain c))
    | none =>
      match f s1 with
      | some x => x.1.serve p r cmd x.2
      | none => s

/-- A command that acts on its polder alone. -/
def State.ask (s : State) (p : Ix4) (r : MbReq) (cmd sub : Nat) (n : Needs) (f : Dom → Dom × Option Reply) : State :=
  s.request p r cmd sub n (fun s => let x := f (s.dom p); if x.1.waits then none else some (s.undom p x.1, x.2))

/-! ## AUTH (R533, R534) -/

/-- The debug key of a level: KEY_DBG1 or KEY_DBG2, or the fused key where the slot is empty. -/
def Polder.debugKey (q : Polder) (level : Nat) : List Byte :=
  let o := if level = 1 then 0x100A0 else 0x100C0
  if (List.range 8).any (fun i => q.woc.contains (o + 4 * i)) then q.keyAt o 32 else natLe 32 q.fuses.debugKey.toNat

/-- The 43 bytes that the MAC covers. -/
def Polder.authMessage (q : Polder) (box : Ix2) (nonce : List Byte) (level : Nat) : List Byte :=
  nonce ++ natLe 8 q.fuses.serial.toNat ++ [BitVec.ofNat 8 q.fuses.index.toNat, BitVec.ofNat 8 box.toNat, BitVec.ofNat 8 level]

/-- AUTHFAIL: counted, and the eighth in a row locks the mailbox out. -/
def Dom.authFail (d : Dom) (box : Ix2) : Dom :=
  let n := (d.q.watch.box.at box).fails + 1
  let d1 := (d.onBox box (fun b => { b with fails := n % 8, lockout := b.lockout || decide (n = 8) })).stick Off.whSticky 4
  if n = 8 then d1.stick Off.whSticky 8 else d1

def Dom.authChallenge (d : Dom) (r : MbReq) (nonce : List Byte) : Dom × Option Reply :=
  if (d.q.watch.box.at r.box).lockout then (d, some (Reply.plain 0x10))
  else
    let n := bytesAt nonce 0 32
    (d.onBox r.box (fun b => { b with nonce := some n }), some ⟨0, 0, n⟩)

def Dom.authResponse (d : Dom) (r : MbReq) : Dom × Option Reply :=
  let b := d.q.watch.box.at r.box
  let level := mbArg r 0 1
  if b.lockout then (d, some (Reply.plain 0x10))
  else if level = 0 then (d.onBox r.box (fun b => { b with level := 0 }), some Reply.ok)
  else if 2 < level then (d, some (Reply.plain 5))
  else
    let d1 := d.onBox r.box (fun b => { b with nonce := none })
    match b.nonce with
    | none => (d1.authFail r.box, some (Reply.plain 0xF))
    | some n =>
      if hmac256 (d.q.debugKey level) (d.q.authMessage r.box n level) = bytesAt b.data 0 32 then
        (d1.onBox r.box (fun b => { b with level := level, fails := 0 }), some Reply.ok)
      else (d1.authFail r.box, some (Reply.plain 0xF))

/-- STATUS: WH_SHADOW_STATUS with BOOT_STATE above it, and the berths' and clerks' status. -/
def Polder.statusReply (q : Polder) : Reply :=
  ⟨0, q.regRead 0x200000 + 2 ^ 32 * q.regRead 8,
    (q.berths.toList.flatMap (fun x => natLe 4 x.status)) ++ natLe 4 (q.regRead 0x140000)⟩

/-! ## Space 0: polder physical addresses -/

/-- The pieces of a range at multiples of 64: address and length. `fuel` bounds the pieces. -/
def lines64 : (fuel : Nat) → (a n : Nat) → List (Nat × Nat)
  | 0, _, _ => []
  | f + 1, a, n =>
    if n = 0 then []
    else
      let k := min n (64 - a % 64)
      (a, k) :: lines64 f (a + k) (n - k)

/-- Memory read in accesses of at most 64 bytes; none where one meets an uncorrectable error. -/
def Dom.whFetch (d : Dom) : List (Nat × Nat) → Dom × Option (List Byte)
  | [] => (d, some [])
  | (a, n) :: ps =>
    let x := (d.maintained a n).fetch a n
    match x.2 with
    | none => (x.1, none)
    | some bs =>
      let y := x.1.whFetch ps
      (y.1, y.2.map (bs ++ ·))

/-- Memory written in accesses of at most 64 bytes; whether every one was written. -/
def Dom.whDeposit (d : Dom) : List (Nat × Nat) → List Byte → Dom × Bool
  | [], _ => (d, true)
  | (a, n) :: ps, bs =>
    let x := (d.maintained a n).deposit a (bs.take n)
    let y := x.1.whDeposit ps (bs.drop n)
    (y.1, x.2 && y.2)

/-- The register accesses of a range: 64 bits where the range permits, or else 32 bits, or else a byte, which R86 answers. -/
def regPieces : (fuel : Nat) → (o n : Nat) → List (Nat × Nat)
  | 0, _, _ => []
  | f + 1, o, n =>
    if n = 0 then []
    else
      let k := if o % 8 = 0 ∧ 8 ≤ n then 8 else if o % 4 = 0 ∧ 4 ≤ n then 4 else 1
      (o, k) :: regPieces f (o + k) (n - k)

/-- Register accesses, and the cause that the first refused one meets; among them may be the commit of a half that an earlier command left
held (log entry 114). -/
def Dom.whRegRead (d : Dom) : List (Nat × Nat) → Dom × List Byte × Option Nat
  | [] => (d, [], none)
  | (o, n) :: ps =>
    let x := d.regRd .watchhouse 0 o n
    let y := x.1.whRegRead ps
    (y.1, natLe n x.2.1 ++ y.2.1, x.2.2.or y.2.2)

/-- Register accesses up to one that is refused; the cause it meets (R559). -/
def Dom.whRegWrite (d : Dom) : List (Nat × Nat) → List Byte → Dom × Option Nat
  | [], _ => (d, none)
  | (o, n) :: ps, bs =>
    let x := d.regWrite .watchhouse 0 o n (leNat (bs.take n)) Coincide.none
    match x.2 with
    | some c => (x.1, some c)
    | none => x.1.whRegWrite ps (bs.drop n)

/-- Whether a boot state has neither memory nor waybills (R550). -/
def BootState.booting : BootState → Bool
  | .powered | .charter | .hbmtrain => true
  | _ => false

/-- Whether the register window takes a range. -/
def inWindow (a n : Nat) : Bool := decide (winBase ≤ a) && decide (a + n ≤ winBase + 0x400000)

def Dom.readPmem (d : Dom) (a n : Nat) : Dom × Reply :=
  if d.q.boot.booting && !inWindow a n then (d, Reply.plain 0xE)
  else if n = 0 then (d, Reply.ok)
  else if inWindow a n then
    let x := d.whRegRead (regPieces n (a - winBase) n)
    (x.1, match x.2.2 with
      | some c => ⟨6, c, []⟩
      | none => ⟨0, 0, x.2.1⟩)
  else if (d.q.populated a n false).isNone ∨ d.q.region a = some .host then (d, ⟨6, 1, []⟩)
  else
    let f := d.flushCause .watchhouse 0
    let x := f.1.whFetch (lines64 (n / 64 + 2) a n)
    match f.2, x.2 with
    | some c, _ => (x.1, ⟨6, c, []⟩)
    | none, some bs => (x.1, ⟨0, 0, bs⟩)
    | none, none => (x.1, Reply.plain 7)

/-- A write in CHARTER or HBMTRAIN to the register window is dropped, logged and returns ACCESS (R59, R559), and so does a write to the
staging areas and to the sluice-pool region, which sluices and Lock alone write (R330, R339). The maintenance write of the Granary carries no
error back (R349). -/
def Dom.writePmem (d : Dom) (a : Nat) (bs : List Byte) : Dom × Reply :=
  let n := bs.length
  if d.q.boot.booting && (decide (d.q.boot = .powered) || !inWindow a n) then (d, Reply.plain 0xE)
  else if n = 0 then (d, Reply.ok)
  else if inWindow a n then
    let x := d.whRegWrite (regPieces n (a - winBase) n) bs
    match x.2 with
    | some c => (x.1, ⟨6, c, []⟩)
    | none => (x.1, Reply.ok)
  else if (d.q.populated a n true).isNone ∨ d.q.region a = some .host then (d, ⟨6, 1, []⟩)
  else if d.q.inSluicePool a n || inStaging a n then (d, ⟨6, 4, []⟩)
  else
    let f := d.flushCause .watchhouse 0
    let x := f.1.whDeposit (lines64 (n / 64 + 2) a n) bs
    match f.2 with
    | some c => (x.1, ⟨6, c, []⟩)
    | none => (x.1, if x.2 || decide (d.q.region a = some .granary) then Reply.ok else Reply.plain 7)

/-! ## Spaces 1 to 3 -/

/-- The array of space 1 that holds an address: its base, its item size, its bytes. -/
def Berth.spaceAt (x : Berth) (a : Nat) : Nat × Nat × List Byte :=
  if a < 0x8000 then (0, 8, x.stack.flatMap (fun s => natLe 8 s.val.toNat))
  else if a < 0xC000 then (0x8000, 8, x.rstack.flatMap (fun c => natLe 8 c.val.toNat))
  else if a < 0xD000 then (0xC000, 4, x.tallies.flatMap (fun t => natLe 4 t.toNat))
  else if a < 0xE000 then (0xD000, 32, (List.range 32).flatMap (fun i => natLe 32 (x.shape i).toNat))
  else (0xE000, 4, natLe 4 x.pc)

/-- Whether an array holds whole items of a range. -/
def itemsOk (base size len a n : Nat) : Bool :=
  decide ((a - base) % size = 0) && decide (n % size = 0) && decide (a - base + n ≤ len)

def Berth.spaceRead (x : Berth) (a n : Nat) : Option (List Byte) :=
  let r := x.spaceAt a
  if itemsOk r.1 r.2.1 r.2.2.length a n then some ((r.2.2.drop (a - r.1)).take n) else none

/-- One item of space 1 written. -/
def Dom.putItem (d : Dom) (b : Ix4) (a : Nat) (bs : List Byte) : Dom :=
  let v := leNat bs
  if a < 0x8000 then d.onBerth b (fun x => { x with stack := setAt x.stack (a / 8) (Slot.now (cell v)) })
  else if a < 0xC000 then d.onBerth b (fun x => { x with rstack := setAt x.rstack ((a - 0x8000) / 8) (Slot.now (cell v)) })
  else if a < 0xD000 then d.setTally b (BitVec.ofNat 4 ((a - 0xC000) / 4)) (word v)
  else if a < 0xE000 then d.onBerth b (fun x => x.setShape ((a - 0xD000) / 32) (BitVec.ofNat 256 v))
  else d.onBerth b (fun x => { x with pc := v % 2 ^ 17 })

def Dom.spaceWrite (d : Dom) (b : Ix4) (a : Nat) (bs : List Byte) : Option Dom :=
  let r := (d.berth b).spaceAt a
  if itemsOk r.1 r.2.1 r.2.2.length a bs.length then
    some (((pieces r.2.1 bs.length bs).foldl (fun (acc : Dom × Nat) p => (acc.1.putItem b acc.2 p, acc.2 + r.2.1)) (d, a)).1)
  else none

/-- Whether an 8-byte item lies at an address of space 2. -/
def hartItem (a : Nat) : Bool :=
  decide (a % 8 = 0) && (decide (a ≤ 0x200) || (decide (0x1000 ≤ a) && decide (a < 0x9000)))

/-- The items of a range of space 2. -/
def hartItems (a n : Nat) : Option (List Nat) :=
  let l := (List.range (n / 8)).map (fun i => a + 8 * i)
  if n % 8 = 0 && l.all hartItem && decide (a % 8 = 0) then some l else none

def Dom.hartItemRead (d : Dom) (h : Ix4) (a : Nat) : Dom × Nat :=
  let x := d.hart h
  if a < 0x100 then (d, x.getX (a / 8))
  else if a < 0x200 then (d, x.getF ((a - 0x100) / 8))
  else if a = 0x200 then (d, x.pc.toNat)
  else d.csrRead h ((a - 0x1000) / 8)

def Dom.hartItemWrite (d : Dom) (h : Ix4) (a v : Nat) : Dom :=
  d.onHart h (fun x =>
    if a < 0x100 then x.putX (a / 8) v
    else if a < 0x200 then { x with f := Store.put x.f ((a - 0x100) / 8) (cell v) 0 }
    else if a = 0x200 then { x with pc := cell (v / 2 * 2) }
    else x.csrWrite ((a - 0x1000) / 8) v)

def Dom.hartItemsRead (d : Dom) (h : Ix4) : List Nat → Dom × List Byte
  | [] => (d, [])
  | a :: as =>
    let x := d.hartItemRead h a
    let y := x.1.hartItemsRead h as
    (y.1, natLe 8 x.2 ++ y.2)

/-- The register offset of a 4-byte item of space 3. -/
def whItem (a : Nat) : Option Nat :=
  if a % 4 ≠ 0 then none
  else if a < 0x100 then some (0x200400 + a)
  else if 0x400 ≤ a ∧ a < 0x600 then some (Off.evcnt 0 + (a - 0x400))
  else if a = 0x800 then some 0x20001C
  else if a = 0x804 then some 0x200500
  else none

/-- The items of a range of space 3; an event counter is an 8-byte item. -/
def whItems (a n : Nat) : Option (List Nat) :=
  let l := (List.range (n / 4)).map (fun i => a + 4 * i)
  let whole := decide (0x400 ≤ a) && decide (a < 0x600)
  if n % 4 = 0 && l.all (fun i => (whItem i).isSome) && (!whole || (decide (a % 8 = 0) && decide (n % 8 = 0))) && decide (a % 4 = 0) then
    some (l.filterMap whItem)
  else none

/-- A word of space 3 written. -/
def Dom.whItemWrite (d : Dom) (o v : Nat) : Dom :=
  if o = 0x20001C then d.on (fun q => { q with watch := { q.watch with lbEn := bitOf v 0, stopMode := bitOf v 1 } })
  else if o = 0x200500 then d.on (fun q => { q with watch := { q.watch with classMask := word v } })
  else if 0x200400 ≤ o ∧ o < 0x200500 then
    d.on (fun q => { q with watch := { q.watch with evsel := Store.put q.watch.evsel ((o - 0x200400) / 4) (word (v &&& 0x10FFF)) 0 } })
  else d.on (fun q => q.fieldWrite o v 0 true false true)

/-! ## READ and WRITE (R538) -/

/-- The most bytes of a READ or WRITE. -/
def mbMax : Nat := 57344

def Dom.readSpace (d : Dom) (r : MbReq) : Dom × Option Reply :=
  let u := Ix4.of r.unit.toNat
  if mbMax < r.len ∨ 3 < r.space.toNat ∨ (r.space.toNat ∈ [1, 2] ∧ 3 < r.unit.toNat) then (d, some (Reply.plain 5))
  else match r.space.toNat with
  | 0 => let x := d.readPmem r.addr r.len; (x.1, some x.2)
  | 1 =>
    if !(d.berth u).halted then (d, some (Reply.plain 4))
    else (d, some (match (d.berth u).spaceRead r.addr r.len with
      | some bs => ⟨0, 0, bs⟩
      | none => Reply.plain 5))
  | 2 =>
    if !(d.hart u).halted then (d, some (Reply.plain 4))
    else (match hartItems r.addr r.len with
      | some l => let x := d.hartItemsRead u l; (x.1, some ⟨0, 0, x.2⟩)
      | none => (d, some (Reply.plain 5)))
  | _ =>
    match whItems r.addr r.len with
    | some l => (d, some ⟨0, 0, l.flatMap (fun o => natLe 4 (d.q.regRead o))⟩)
    | none => (d, some (Reply.plain 5))

def Dom.writeSpace (d : Dom) (r : MbReq) : Dom × Option Reply :=
  let u := Ix4.of r.unit.toNat
  let bs := bytesAt (d.q.watch.box.at r.box).data 0 r.len
  if mbMax < r.len ∨ 3 < r.space.toNat ∨ (r.space.toNat ∈ [1, 2] ∧ 3 < r.unit.toNat) then (d, some (Reply.plain 5))
  else match r.space.toNat with
  | 0 => let x := d.writePmem r.addr bs; (x.1, some x.2)
  | 1 =>
    if !(d.berth u).halted then (d, some (Reply.plain 4))
    else (match d.spaceWrite u r.addr bs with
      | some d' => (d', some Reply.ok)
      | none => (d, some (Reply.plain 5)))
  | 2 =>
    if !(d.hart u).halted then (d, some (Reply.plain 4))
    else (match hartItems r.addr r.len with
      | some l => ((l.zip (pieces 8 l.length bs)).foldl (fun d x => d.hartItemWrite u x.1 (leNat x.2)) d, some Reply.ok)
      | none => (d, some (Reply.plain 5)))
  | _ =>
    match whItems r.addr r.len with
    | some l => ((l.zip (pieces 4 l.length bs)).foldl (fun d x => d.whItemWrite x.1 (leNat x.2)) d, some Reply.ok)
    | none => (d, some (Reply.plain 5))

/-! ## TRACE (R547) -/

/-- Whole records from LB_RD up to `n` bytes, and what is left. `fuel` bounds the records. -/
def Watch.take (w : Watch) (n : Nat) : (fuel : Nat) → Watch × List Byte
  | 0 => (w, [])
  | f + 1 =>
    let u := w.unitsAt w.rd
    if w.kept < u ∨ w.kept = 0 ∨ n < 32 * u then (w, [])
    else
      let bs := (List.range u).flatMap (fun i => natLe 32 (Store.getD w.units ((w.rd + i) % lbUnits) 0).toNat)
      let x := { w with rd := (w.rd + u) % lbUnits, kept := w.kept - u }.take (n - 32 * u) f
      (x.1, bs ++ x.2)

def Dom.traceConfig (d : Dom) (r : MbReq) : Dom × Option Reply :=
  (((d.whItemWrite 0x20001C (mbArg r 0 4)).whItemWrite 0x200500 (mbArg r 4 4)).sync, some Reply.ok)

def Dom.traceRead (d : Dom) (r : MbReq) : Dom × Option Reply :=
  if mbMax < r.len then (d, some (Reply.plain 5))
  else
    let x := d.q.watch.take r.len (r.len / 32)
    (d.on (fun q => { q with watch := x.1 }), some ⟨0, 0, x.2⟩)

def Dom.traceClear (d : Dom) : Dom × Option Reply :=
  (d.on (fun q => { q with watch := { q.watch with wr := 0, rd := 0, kept := 0 } }), some Reply.ok)

/-! ## The commands -/

def execAuthChallenge (p : Ix4) (r : MbReq) (nonce : List Byte) (s : State) : Host.Outcome State Fault Refusal :=
  .next (s.ask p r 1 0 ⟨0, true, true⟩ (·.authChallenge r nonce))

def execAuthResponse (p : Ix4) (r : MbReq) (s : State) : Host.Outcome State Fault Refusal :=
  .next (s.ask p r 1 1 ⟨0, true, true⟩ (·.authResponse r))

def execNonceExpiry (p : Ix4) (box : Ix2) (s : State) : Host.Outcome State Fault Refusal :=
  .next (s.act p (·.onBox box (fun b => { b with nonce := none })))

def execLockoutEnd (p : Ix4) (box : Ix2) (s : State) : Host.Outcome State Fault Refusal :=
  .next (s.act p (·.onBox box (fun b => { b with lockout := false })))

def execStatus (p : Ix4) (r : MbReq) (s : State) : Host.Outcome State Fault Refusal :=
  .next (s.ask p r 2 r.sub.toNat ⟨0, true, true⟩ (fun d => (d, some d.q.statusReply)))

def execRead (p : Ix4) (r : MbReq) (s : State) : Host.Outcome State Fault Refusal :=
  .next (s.ask p r 3 r.sub.toNat ⟨1, false, decide (r.space = 3)⟩ (·.readSpace r))

def execWrite (p : Ix4) (r : MbReq) (s : State) : Host.Outcome State Fault Refusal :=
  .next (s.ask p r 4 r.sub.toNat ⟨if r.space = 3 then 1 else 2, false, decide (r.space = 3)⟩ (·.writeSpace r))

def execTraceConfig (p : Ix4) (r : MbReq) (s : State) : Host.Outcome State Fault Refusal :=
  .next (s.ask p r 0xA 0 ⟨1, false, true⟩ (·.traceConfig r))

def execTraceRead (p : Ix4) (r : MbReq) (s : State) : Host.Outcome State Fault Refusal :=
  .next (s.ask p r 0xA 1 ⟨1, false, true⟩ (·.traceRead r))

def execTraceClear (p : Ix4) (r : MbReq) (s : State) : Host.Outcome State Fault Refusal :=
  .next (s.ask p r 0xA 2 ⟨1, false, true⟩ Dom.traceClear)

end Sys2Proof.Machine
end

