-- ==== Sys2Proof/Machine/WatchOps.lean ====
section
/-!
DEFINITION. Machine/WatchOps.lean: halting, feeding and stepping berths and harts, TIDE_FREEZE, RELEASE and the rewrite service
(18_watchhouse.md R539 to R544, R550 to R559; R60, R63, R85).
-/
namespace Sys2Proof.Machine

/-! ## Halts (R539, R553, R554) -/

/-- A response to each mailbox whose command `cmd` on unit `u` has not answered yet. -/
def Dom.answerWaiting (d : Dom) (cmd : Byte) (u : Ix4) (status : Nat) : Dom :=
  d.each [Ix2.z, Ix2.o] (fun box d =>
    match (d.q.watch.box.at box).after with
    | some (seq, c, v) => if c = cmd ∧ v = u then d.reply box seq cmd (Reply.plain status) else d
    | none => d)

/-- HALT of a berth: one that runs is asked to halt, one that has no waybill to run yet is armed. -/
def Dom.haltBerth (d : Dom) (r : MbReq) : Dom × Option Reply :=
  let b := Ix4.of r.unit.toNat
  let x := d.berth b
  if 3 < r.unit.toNat then (d, some (Reply.plain 5))
  else if x.halted then (d, some Reply.ok)
  else if x.run.isNone || decide (x.phase = .loading) then (d.onBerth b (fun x => { x with armed := true }), some Reply.ok)
  else (d.onBerth b (fun x => { x with haltReq := true }), none)

/-- What the berth has in flight lands (R285): cycles that count in neither MC_USED nor WATCH_LIMIT (R539). -/
def Dom.settle (d : Dom) (b : Ix4) : Dom :=
  let x := d.berth b
  (d.tick b (max ((x.flights.map (fun f => f.at_ - x.mc)).foldl max 0) (((x.stack ++ x.rstack).map (fun s => s.lands - x.mc)).foldl max 0)) true).on (·.landAll b)

/-- Whether a berth is at a point where R243 or R240 would allow an interrupt. -/
def Polder.haltsNow (q : Polder) (b : Ix4) : Bool :=
  let x := q.berths.get b
  q.millsRun && x.haltReq && x.run.isSome && !x.impounded &&
    (match x.phase with
      | .running | .wideStall | .waitt _ _ _ _ => true
      | _ => false)

/-- BERTH_HALTED, after `stall` mill cycles of the stall that it ends, if the berth stood in one: the berth halts at its PC, what it has in
flight lands, and the command answers. A halt that its waybill's end turned into an armed one answers as well. -/
def Dom.berthHalted (d : Dom) (b : Ix4) (stall : Nat) : Dom :=
  if d.q.haltsNow b then
    let d1 := ((d.stall b stall).settle b).onBerth b (fun x => { x with phase := .running, halted := true, haltReq := false })
    (d1.log 8 b.toNat (natLe 4 (d1.berth b).pc)).answerWaiting 5 b 0
  else if (d.berth b).armed then d.answerWaiting 5 b 0
  else d

/-- HALT_STALLED: the command answers STALLED, and the request stands. -/
def Dom.haltStalled (d : Dom) (b : Ix4) : Dom := d.answerWaiting 5 b 0xA

def Dom.resumeBerth (d : Dom) (r : MbReq) : Dom × Option Reply :=
  let b := Ix4.of r.unit.toNat
  let x := d.berth b
  if 3 < r.unit.toNat then (d, some (Reply.plain 5))
  else if x.halted then
    ((d.onBerth b (fun x => { x with halted := false })).log 9 b.toNat (natLe 4 x.pc), some Reply.ok)
  else if x.armed || x.haltReq then (d.onBerth b (fun x => { x with armed := false, haltReq := false }), some Reply.ok)
  else (d, some (Reply.plain 4))

/-- HALT of a hart, which stops at its next instruction boundary (R503). One in reset cannot be halted. -/
def Dom.haltHart (d : Dom) (r : MbReq) : Dom × Option Reply :=
  let h := Ix4.of r.unit.toNat
  if 3 < r.unit.toNat then (d, some (Reply.plain 5))
  else if !(d.hart h).started then (d, some (Reply.plain 0x12))
  else if (d.hart h).halted then (d, some Reply.ok)
  else ((d.onHart h (fun x => { x with halted := true })).log 8 (4 + h.toNat) (natLe 4 (d.hart h).pc.toNat), some Reply.ok)

def Dom.resumeHart (d : Dom) (r : MbReq) : Dom × Option Reply :=
  let h := Ix4.of r.unit.toNat
  if 3 < r.unit.toNat then (d, some (Reply.plain 5))
  else if !(d.hart h).halted then (d, some (Reply.plain 4))
  else ((d.onHart h (fun x => { x with halted := false })).log 9 (4 + h.toNat) (natLe 4 (d.hart h).pc.toNat), some Reply.ok)

/-! ## TIDE_FREEZE (R542, R543) -/

def Dom.freezeTide (d : Dom) : Dom × Option Reply :=
  if d.q.boot ≠ .run then (d, some (Reply.plain 0x12))
  else
    (((d.onWharf (fun w => { w with frozen := true })).stick Off.whSticky 1).log 8 15 (natLe 8 d.q.wharf.tide), some Reply.ok)

def Dom.thawTide (d : Dom) : Dom × Option Reply :=
  if !d.q.wharf.frozen then (d, some (Reply.plain 0x12))
  else ((((d.onWharf (fun w => { w with frozen := false })).log 9 15 (natLe 8 d.q.wharf.tide)).boundary), some Reply.ok)

/-! ## FEED (R540, R551, R558) -/

/-- Opcodes that a feed may not hold, beside escapes and unlisted codes. -/
def unfedCodes : List Nat :=
  [0x38, 0x39, 0x3A, 0x3B, 0x3C, 0x3D, 0x3E, 0x3F, 0x60, 0x61, 0x62, 0x63, 0x68, 0x73, 0x74, 0x90, 0x91, 0x92, 0x95, 0x98]

/-- The instructions of a feed, none where it is refused. `fuel` bounds them. -/
def feedList : (fuel : Nat) → List Byte → Option (List Short)
  | _, [] => some []
  | 0, _ => none
  | f + 1, bs =>
    if unfedCodes.contains (fieldAt bs 0 1) then none
    else match Short.decode bs with
      | none | some (.reserved _) => none
      | some i => if bs.length < i.len then none else (feedList f (bs.drop i.len)).map (i :: ·)

/-- Whether the berth's waybill still runs here after an instruction of the monitor. -/
def Dom.alive (d : Dom) (b : Ix4) : Bool := (d.berth b).running.isSome

/-- Fed instructions in sequence, up to one that traps or impounds. -/
def Dom.feedAll (d : Dom) (b : Ix4) : List Short → Dom
  | [] => d
  | i :: is =>
    let d1 := if i.accesses then d.precede (.berth b) 0 (·.shortEffect b true i) else d.shortEffect b true i
    if d1.alive b then d1.feedAll b is else d1

/-- What keeps a FEED or a STEP of a berth from running. -/
def Dom.berthBar (d : Dom) (u : Nat) : Option Nat :=
  let x := d.berth (Ix4.of u)
  if d.q.boot.booting then some 0xE
  else if 3 < u then some 5
  else if !x.halted then some 4
  else if d.q.dozing = some true then some 0xB
  else if x.impounded || !d.q.millsRun then some 0x12
  else none

def Dom.feed (d : Dom) (r : MbReq) : Dom × Option Reply :=
  let b := Ix4.of r.unit.toNat
  match d.berthBar r.unit.toNat with
  | some c => (d, some (Reply.plain c))
  | none =>
    if r.len = 0 ∨ 64 < r.len then (d, some (Reply.plain 5))
    else match feedList 64 (bytesAt (d.q.watch.box.at r.box).data 0 r.len) with
    | none => (d, some (Reply.plain 9))
    | some is =>
      let d1 := d.feedAll b is
      if d1.alive b then
        let d2 := d1.tick b 72 true
        let v := d2.readSlots b ((d2.berth b).stack.take 8)
        (v.1, some ⟨0, (d2.berth b).stack.length, v.2.flatMap (fun c => natLe 8 c.toNat)⟩)
      else (d1, some ⟨0, (d1.berth b).status, []⟩)

/-! ## STEP (R541) -/

/-- A wide body's bytes as its fields (R257). -/
def bodyOf (bs : List Byte) : WideBody :=
  let v := leNat (bytesAt bs 0 32)
  ⟨BitVec.ofNat 8 (v / 2 ^ 240), BitVec.ofNat 8 (v / 2 ^ 232), BitVec.ofNat 8 (v / 2 ^ 224), BitVec.ofNat 72 (v / 2 ^ 152),
    BitVec.ofNat 72 (v / 2 ^ 80), BitVec.ofNat 72 (v / 2 ^ 8), BitVec.ofNat 8 v⟩

/-- A wide instruction by the class of its body (R258); other values, and an escape of another group, are undefined (R15). -/
def Dom.wideByClass (d : Dom) (b : Ix4) (g cls : Nat) (w : WideBody) : Dom :=
  let f := w.func.toNat
  let undef := d.wide b (fun d => d.havoc b)
  if cls / 16 ≠ g then undef
  else match cls with
  | 0x00 => d.mmOp b w
  | 0x01 => d.mmoOp b w
  | 0x10 => d.ldwOp b w false
  | 0x11 => d.ldwOp b w true
  | 0x20 => d.postOp b w
  | 0x30 => match f with
    | 0 => d.redOp b w .sum
    | 1 => d.redOp b w .max
    | 2 => d.redOp b w .min
    | _ => undef
  | 0x40 => d.copyOp b w false
  | 0x41 => d.copyOp b w true
  | 0x50 => if f ≤ 2 then d.xferOp b w f else undef
  | 0x60 => if [0, 1, 2, 3, 0x10, 0x18, 0x20, 0x21, 0x22].contains f then d.glean b w f else undef
  | 0x70 => if [0, 1, 2, 0x10, 0x11, 0x12].contains f then d.ledg b w f else undef
  | _ => undef

/-- The code of the active half from the PC on. -/
def Berth.codeHere (x : Berth) : List Byte := ((if x.half then x.code1 else x.code0).take x.codeLen).drop x.pc

/-- The instruction at the berth's PC, an escape with its body as one. -/
def Dom.stepInsn (d : Dom) (b : Ix4) : Dom :=
  let bs := (d.berth b).codeHere
  let op := fieldAt bs 0 1
  if bs = [] then d.trapNow b 3
  else if 0xF0 ≤ op ∧ op ≤ 0xF7 then d.wideByClass b (op - 0xF0) (fieldAt bs 32 1) (bodyOf (bs.drop 1))
  else match Short.decode bs with
    | some i => d.shortAfter b i
    | none => d

/-- A step of a berth: a WAITT that waits, or an escape that finds no room, leaves it halted before the instruction after 2^20 mc. For the
instruction alone the halt is off, so that its cycles count (R541). -/
def Dom.stepBerth (d : Dom) (b : Ix4) : Dom × Reply :=
  let d1 := (d.onBerth b (fun x => { x with halted := false })).stepInsn b
  if !d1.alive b then (d1, Reply.ok)
  else
    let halt (d : Dom) : Dom := d.onBerth b (fun x => { x with halted := true })
    match (d1.berth b).phase with
    | .waitt _ _ _ _ | .wideStall => (halt ((d1.stall b (2 ^ 20 - 1)).onBerth b (fun x => { x with phase := .running })), Reply.plain 0xA)
    | _ => (halt (d1.settle b), Reply.ok)

/-- STEP with SUB 0 for a berth and SUB 1 for a hart, as HALT numbers them. -/
def Dom.stepUnit (d : Dom) (r : MbReq) : Dom × Option Reply :=
  let u := Ix4.of r.unit.toNat
  if r.sub = 0 then
    match d.berthBar r.unit.toNat with
    | some c => (d, some (Reply.plain c))
    | none => let x := d.stepBerth u; (x.1, some x.2)
  else if d.q.boot.booting then (d, some (Reply.plain 0xE))
  else if r.sub ≠ 1 ∨ 3 < r.unit.toNat then (d, some (Reply.plain 5))
  else if !(d.hart u).halted then (d, some (Reply.plain 4))
  else if (d.hart u).impounded || d.q.clocks.stopped then (d, some (Reply.plain 0x12))
  else (d.rvStep u, some Reply.ok)

/-! ## RELEASE (R85) -/

/-- A released berth: its waybill is gone, its tallies are reset with their mirror, and what of its operations is still in an engine is
discarded with the regions that it writes unspecified. Log entry 125. -/
def Dom.releaseBerth (d : Dom) (b : Ix4) : Dom :=
  ((d.spillOps b).on (fun q => (q.blurFlights (q.berths.get b).flights).discardOps b)).freeBerth b

/-- The master with an IMP_MASTER code. -/
def masterOf (c : Nat) : Option Master :=
  if c < 4 then some (.berth (Ix4.of c)) else if c < 8 then some (.hart (Ix4.of c)) else if c = 8 then some .host else none

/-- What RELEASE of a master does. -/
def Dom.unimpound (d : Dom) : Master → Dom
  | .berth b => d.releaseBerth b
  | .hart h => d.onHart h (fun x => { x with impounded := false })
  | .host => d.on (fun q => { q with imp := { q.imp with host := false } })
  | .watchhouse => d

def Dom.releaseMaster (d : Dom) (r : MbReq) : Dom × Option Reply :=
  match masterOf (mbArg r 0 1) with
  | some m => if d.q.isImpounded m then (d.unimpound m, some Reply.ok) else (d, some (Reply.plain 8))
  | none => (d, some (Reply.plain 8))

/-! ## The rewrite service (R63, R544) -/

/-- What image a flash is checked against in CHECK. -/
def State.rewriteTarget (s : State) (p : Ix4) (warden : Bool) : Target := if warden then s.wardenTarget else (s.pol p).target

def State.onRewrite (s : State) (p : Ix4) (f : Rewrite → Rewrite) : State :=
  s.onPol p (fun q => { q with watch := { q.watch with rewrite := q.watch.rewrite.map f } })

/-- Slot B of the target flash set, and slot A too where `a` gives it. -/
def State.setFlash (s : State) (p : Ix4) (warden : Bool) (a b : Option (List Byte)) : State :=
  if warden then s.onWarden (fun w => { w with flashB := b, flashA := a.or w.flashA })
  else s.onPol p (fun q => { q with charter := { q.charter with flashB := b, flashA := a.or q.charter.flashA } })

/-- The flash in or out of deep power-down. -/
def State.setDpd (s : State) (p : Ix4) (warden on : Bool) : State :=
  if warden then s else s.onPol p (fun q => { q with charter := { q.charter with dpd := on } })

/-- The service ends and gives the flash back. -/
def State.endRewrite (s : State) (p : Ix4) (warden : Bool) : State :=
  let s1 := s.onPol p (fun q => { q with watch := { q.watch with rewrite := none } })
  if warden then s1.onWarden (fun w => { w with flashTaken := none }) else s1

/-- A failure of the flash: the slot being written is invalid. -/
def State.flashFails (s : State) (p : Ix4) (warden : Bool) : State × Option Reply :=
  (((s.setFlash p warden none (some [])).setDpd p warden true).endRewrite p warden, some (Reply.plain 0xD))

def State.rwBegin (s : State) (p : Ix4) (r : MbReq) : State × Option Reply :=
  let q := s.pol p
  let warden := decide (mbArg r 0 1 = 1)
  let taken := match s.warden.flashTaken with
    | some _ => warden
    | none => false
  if 1 < mbArg r 0 1 then (s, some (Reply.plain 5))
  else if q.watch.rewrite.isSome || taken || decide (q.boot = .charter) || decide (q.boot = .hbmtrain) then (s, some (Reply.plain 3))
  else
    let s1 := s.onPol p (fun q => { q with watch := { q.watch with rewrite := some ⟨warden, mbArg r 1 4, .begun, [], []⟩ } })
    (if warden then s1.onWarden (fun w => { w with flashTaken := some p }) else s1, some Reply.ok)

/-- The bytes a step carries. -/
def State.rwBytes (s : State) (p : Ix4) (r : MbReq) : List Byte := bytesAt (((s.pol p).watch.box.at r.box).data) 0 r.len

def State.rwVerify (s : State) (p : Ix4) (r : MbReq) : State × Option Reply :=
  match (s.pol p).watch.rewrite with
  | some rw =>
    if rw.step ≠ .begun then (s, some (Reply.plain 0x12))
    else if mbMax < r.len ∨ r.addr ≠ rw.image.length ∨ rw.len < r.addr + r.len then (s, some (Reply.plain 5))
    else
      let img := rw.image ++ s.rwBytes p r
      (s.onRewrite p (fun x => { x with image := img, step := if img.length = rw.len then .verified else .begun }), some Reply.ok)
  | none => (s, some (Reply.plain 0x12))

/-- The density of the target flash: that which an SFDP read has found, or else, where no load has read it, a free value (log
entry 112). -/
def State.rwDensity (s : State) (p : Ix4) (warden : Bool) : Nat :=
  let f := (s.pol p).charter.sfdp
  let unread := (s.pol p).free.1.toNat
  if warden then s.warden.density.getD unread else if f.valid then f.density else unread

/-- CHECK: the checks of R45 with the fuses of the target. -/
def State.rwCheck (s : State) (p : Ix4) : State × Option Reply :=
  match (s.pol p).watch.rewrite with
  | some rw =>
    if rw.step ≠ .verified then (s, some (Reply.plain 0x12))
    else
      let t := s.rewriteTarget p rw.warden
      let hc := t.headerCause (s.rwDensity p rw.warden) (rw.image.take 64)
      let cause := if hc ≠ 0 then hc else if imageLen rw.image ≠ rw.len then 3 else t.imageCause rw.image
      let s1 := s.onPol p (fun q => q.free.2)
      if cause ≠ 0 then (s1.endRewrite p rw.warden, some ⟨0xC, cause, []⟩)
      else (s1.onRewrite p (fun x => { x with step := .checked }), some Reply.ok)
  | none => (s, some (Reply.plain 0x12))

/-- PROGRAM; `ok` says that the flash erased and programmed without failure. -/
def State.rwProgram (s : State) (p : Ix4) (r : MbReq) (ok : Bool) : State × Option Reply :=
  match (s.pol p).watch.rewrite with
  | some rw =>
    if rw.step ≠ .checked then (s, some (Reply.plain 0x12))
    else if mbMax < r.len ∨ r.addr ≠ rw.written.length ∨ rw.len < r.addr + r.len then (s, some (Reply.plain 5))
    else if !ok then s.flashFails p rw.warden
    else
      let out := rw.written ++ s.rwBytes p r
      if out.length = rw.len ∧ out ≠ rw.image then s.flashFails p rw.warden
      else
        ((((s.setDpd p rw.warden false).setFlash p rw.warden none (some out)).onRewrite p (fun x => { x with
          written := out, step := if out.length = rw.len then .programmed else .checked })), some Reply.ok)
  | none => (s, some (Reply.plain 0x12))

/-- Slot A has been written, and `okA` says that it reads back as it was: the flash goes back to deep power-down. -/
def State.rwClose (s : State) (p : Ix4) (rw : Rewrite) (okA : Bool) : State :=
  let a := if okA then rw.image else []
  ((s.setFlash p rw.warden (some a) (some rw.image)).setDpd p rw.warden true).endRewrite p rw.warden

/-- FINISH; `okB` says that slot B reads back as it was written, `okA` the same of slot A, none while its copying goes on: the request then
waits, with slot A invalid until the copy is whole (R60). -/
def State.rwFinish (s : State) (p : Ix4) (okB : Bool) (okA : Option Bool) : State × Option Reply :=
  match (s.pol p).watch.rewrite with
  | some rw =>
    if rw.step ≠ .programmed then (s, some (Reply.plain 0x12))
    else if !okB then s.flashFails p rw.warden
    else match okA with
    | some ok => (s.rwClose p rw ok, some (if ok then Reply.ok else Reply.plain 0xD))
    | none => ((s.setFlash p rw.warden (some []) (some rw.image)).onRewrite p (fun x => { x with step := .copying }), none)
  | none => (s, some (Reply.plain 0x12))

/-- The end of a copy for which the FINISH of a mailbox waits. -/
def State.rwCopied (s : State) (p : Ix4) (box : Ix2) (okA : Option Bool) : Option State :=
  match (s.pol p).watch.rewrite, ((s.pol p).watch.box.at box).after, okA with
  | some rw, some (seq, cmd, _), some ok =>
    if rw.step = .copying ∧ cmd = 0xB then
      some ((s.rwClose p rw ok).act p (·.reply box seq cmd (if ok then Reply.ok else Reply.plain 0xD)))
    else none
  | _, _, _ => none

/-! ## The commands -/

/-- Commands of level L2 that need clocks. -/
def l2 : Needs := ⟨2, false, false⟩

def execHaltBerth (p : Ix4) (r : MbReq) (s : State) : Host.Outcome State Fault Refusal :=
  .next (s.ask p r 5 0 l2 (·.haltBerth r))

def execBerthHalted (p : Ix4) (b : Stood) (s : State) : Host.Outcome State Fault Refusal :=
  .next (s.actOn p (·.berthHalted b.berth b.stall))

def execHaltStalled (p b : Ix4) (s : State) : Host.Outcome State Fault Refusal := .next (s.act p (·.haltStalled b))

def execHaltHart (p : Ix4) (r : MbReq) (s : State) : Host.Outcome State Fault Refusal :=
  .next (s.ask p r 5 1 l2 (·.haltHart r))

def execTideFreeze (p : Ix4) (r : MbReq) (s : State) : Host.Outcome State Fault Refusal :=
  .next (s.ask p r 5 2 l2 Dom.freezeTide)

def execResumeBerth (p : Ix4) (r : MbReq) (s : State) : Host.Outcome State Fault Refusal :=
  .next (s.ask p r 6 0 l2 (·.resumeBerth r))

def execResumeHart (p : Ix4) (r : MbReq) (s : State) : Host.Outcome State Fault Refusal :=
  .next (s.ask p r 6 1 l2 (·.resumeHart r))

def execTideFreezeEnd (p : Ix4) (r : MbReq) (s : State) : Host.Outcome State Fault Refusal :=
  .next (s.ask p r 6 2 l2 Dom.thawTide)

def execFeed (p : Ix4) (r : MbReq) (s : State) : Host.Outcome State Fault Refusal :=
  .next (s.ask p r 7 r.sub.toNat l2 (·.feed r))

def execStep (p : Ix4) (r : MbReq) (s : State) : Host.Outcome State Fault Refusal :=
  .next (s.ask p r 8 r.sub.toNat l2 (·.stepUnit r))

def execRelease (p : Ix4) (r : MbReq) (s : State) : Host.Outcome State Fault Refusal :=
  .next (s.ask p r 9 r.sub.toNat l2 (·.releaseMaster r))

def execCharterWriteBegin (p : Ix4) (r : MbReq) (s : State) : Host.Outcome State Fault Refusal :=
  .next (s.request p r 0xB 0 l2 (fun s => some (s.rwBegin p r)))

def execCharterWriteVerify (p : Ix4) (r : MbReq) (s : State) : Host.Outcome State Fault Refusal :=
  .next (s.request p r 0xB 1 l2 (fun s => some (s.rwVerify p r)))

def execCharterWriteCheck (p : Ix4) (r : MbReq) (s : State) : Host.Outcome State Fault Refusal :=
  .next (s.request p r 0xB 2 l2 (fun s => some (s.rwCheck p)))

def execCharterWriteProgram (p : Ix4) (r : MbReq) (ok : Bool) (s : State) : Host.Outcome State Fault Refusal :=
  .next (s.request p r 0xB 3 l2 (fun s => some (s.rwProgram p r ok)))

/-- CHARTER_WRITE_FINISH, or, where a FINISH of the mailbox waits for its copy to slot A, the end of that copy. -/
def execCharterWriteFinish (p : Ix4) (r : MbReq) (okB : Bool) (okA : Option Bool) (s : State) : Host.Outcome State Fault Refusal :=
  .next (match s.rwCopied p r.box okA with
    | some t => t
    | none => s.request p r 0xB 4 l2 (fun s => some (s.rwFinish p okB okA)))

end Sys2Proof.Machine
end

