-- ==== Sys2Proof/Machine/Dispatch.lean ====
section
/-!
DEFINITION. Machine/Dispatch.lean: one arm for each command, each the direct call of its meaning.
-/
namespace Sys2Proof.Machine

/-- The effect of a command on everything but the queue. -/
def exec (i : Instr) (s : State) : Host.Outcome State Fault Refusal :=
  match i with
  | .powerOn => Sys2Proof.Machine.execPowerOn s
  | .wardenCharterLoad f => Sys2Proof.Machine.execWardenCharterLoad f s
  | .perstAssert => Sys2Proof.Machine.execPerstAssert s
  | .perstDeassert => Sys2Proof.Machine.execPerstDeassert s
  | .polderRelease => Sys2Proof.Machine.execPolderRelease s
  | .railfault rail => Sys2Proof.Machine.execRailfault rail s
  | .rawWindowEnd => Sys2Proof.Machine.execRawWindowEnd s
  | .thermtrip => Sys2Proof.Machine.execThermtrip s
  | .flr p => Sys2Proof.Machine.execFlr p s
  | .pf4Flr => Sys2Proof.Machine.execPf4Flr s
  | .whReset p box v => Sys2Proof.Machine.execWhReset p box v s
  | .charterZeroFillDone p => Sys2Proof.Machine.execCharterZeroFillDone p s
  | .charterSfdpRead p f => Sys2Proof.Machine.execCharterSfdpRead p f s
  | .charterHeaderRead p bytes => Sys2Proof.Machine.execCharterHeaderRead p bytes s
  | .charterBodyRead p rd => Sys2Proof.Machine.execCharterBodyRead p rd s
  | .hbmTrainingDone p => Sys2Proof.Machine.execHbmTrainingDone p s
  | .hbmTrainingTimeout p => Sys2Proof.Machine.execHbmTrainingTimeout p s
  | .hbmZeroFillDone p => Sys2Proof.Machine.execHbmZeroFillDone p s
  | .joinDelayExpiry p sd => Sys2Proof.Machine.execJoinDelayExpiry p sd s
  | .joinSlow p => Sys2Proof.Machine.execJoinSlow p s
  | .relockRequest p => Sys2Proof.Machine.execRelockRequest p s
  | .lockDeclared p => Sys2Proof.Machine.execLockDeclared p s
  | .dividerRelease p => Sys2Proof.Machine.execDividerRelease p s
  | .lockRetry p => Sys2Proof.Machine.execLockRetry p s
  | .refLost p => Sys2Proof.Machine.execRefLost p s
  | .coastLong p => Sys2Proof.Machine.execCoastLong p s
  | .refReacquired p inRange => Sys2Proof.Machine.execRefReacquired p inRange s
  | .millDivWrite p m v => Sys2Proof.Machine.execMillDivWrite p m v s
  | .dividerStep p => Sys2Proof.Machine.execDividerStep p s
  | .clkTestWrite p m v => Sys2Proof.Machine.execClkTestWrite p m v s
  | .hbmPllUnlock p st => Sys2Proof.Machine.execHbmPllUnlock p st s
  | .sluicePllUnlock p sd => Sys2Proof.Machine.execSluicePllUnlock p sd s
  | .wardenEpoch x => Sys2Proof.Machine.execWardenEpoch x s
  | .overbudget => Sys2Proof.Machine.execOverbudget s
  | .vrHot => Sys2Proof.Machine.execVrHot s
  | .vrHotRelease => Sys2Proof.Machine.execVrHotRelease s
  | .vrAlert => Sys2Proof.Machine.execVrAlert s
  | .statusWord n ans => Sys2Proof.Machine.execStatusWord n ans s
  | .readIout ans => Sys2Proof.Machine.execReadIout ans s
  | .readTemperature1 ans => Sys2Proof.Machine.execReadTemperature1 ans s
  | .calLost => Sys2Proof.Machine.execCalLost s
  | .wardenWrite off size v co => Sys2Proof.Machine.execWardenWrite off size v co s
  | .doze p => Sys2Proof.Machine.execDoze p s
  | .wake p => Sys2Proof.Machine.execWake p s
  | .tideBoundary p dt => Sys2Proof.Machine.execTideBoundary p dt s
  | .slack p dt => Sys2Proof.Machine.execSlack p dt s
  | .doorbell p m v => Sys2Proof.Machine.execDoorbell p m v s
  | .waybillRead p => Sys2Proof.Machine.execWaybillRead p s
  | .admission p => Sys2Proof.Machine.execAdmission p s
  | .preload p => Sys2Proof.Machine.execPreload p s
  | .codeLoadDone p b => Sys2Proof.Machine.execCodeLoadDone p b s
  | .timeout p b => Sys2Proof.Machine.execTimeout p b s
  | .nop p b => Sys2Proof.Machine.execNop p b s
  | .dup p b => Sys2Proof.Machine.execDup p b s
  | .drop p b => Sys2Proof.Machine.execDrop p b s
  | .swap p b => Sys2Proof.Machine.execSwap p b s
  | .over p b => Sys2Proof.Machine.execOver p b s
  | .rot p b => Sys2Proof.Machine.execRot p b s
  | .nip p b => Sys2Proof.Machine.execNip p b s
  | .tuck p b => Sys2Proof.Machine.execTuck p b s
  | .pick p b => Sys2Proof.Machine.execPick p b s
  | .roll p b => Sys2Proof.Machine.execRoll p b s
  | .twoDup p b => Sys2Proof.Machine.execTwoDup p b s
  | .twoDrop p b => Sys2Proof.Machine.execTwoDrop p b s
  | .twoSwap p b => Sys2Proof.Machine.execTwoSwap p b s
  | .depth p b => Sys2Proof.Machine.execDepth p b s
  | .dropn p b => Sys2Proof.Machine.execDropn p b s
  | .clear p b => Sys2Proof.Machine.execClear p b s
  | .add p b => Sys2Proof.Machine.execAdd p b s
  | .sub p b => Sys2Proof.Machine.execSub p b s
  | .mul p b => Sys2Proof.Machine.execMul p b s
  | .mulhu p b => Sys2Proof.Machine.execMulhu p b s
  | .mulhs p b => Sys2Proof.Machine.execMulhs p b s
  | .divu p b => Sys2Proof.Machine.execDivu p b s
  | .divs p b => Sys2Proof.Machine.execDivs p b s
  | .remu p b => Sys2Proof.Machine.execRemu p b s
  | .rems p b => Sys2Proof.Machine.execRems p b s
  | .neg p b => Sys2Proof.Machine.execNeg p b s
  | .abs p b => Sys2Proof.Machine.execAbs p b s
  | .mins p b => Sys2Proof.Machine.execMins p b s
  | .maxs p b => Sys2Proof.Machine.execMaxs p b s
  | .minu p b => Sys2Proof.Machine.execMinu p b s
  | .maxu p b => Sys2Proof.Machine.execMaxu p b s
  | .addi8 p b imm => Sys2Proof.Machine.execAddi8 p b imm s
  | .andOp p b => Sys2Proof.Machine.execAndOp p b s
  | .orOp p b => Sys2Proof.Machine.execOrOp p b s
  | .xorOp p b => Sys2Proof.Machine.execXorOp p b s
  | .notOp p b => Sys2Proof.Machine.execNotOp p b s
  | .shl p b => Sys2Proof.Machine.execShl p b s
  | .shru p b => Sys2Proof.Machine.execShru p b s
  | .shrs p b => Sys2Proof.Machine.execShrs p b s
  | .rotl p b => Sys2Proof.Machine.execRotl p b s
  | .clz p b => Sys2Proof.Machine.execClz p b s
  | .ctz p b => Sys2Proof.Machine.execCtz p b s
  | .popc p b => Sys2Proof.Machine.execPopc p b s
  | .sext p b => Sys2Proof.Machine.execSext p b s
  | .zext p b => Sys2Proof.Machine.execZext p b s
  | .bext p b => Sys2Proof.Machine.execBext p b s
  | .bins p b => Sys2Proof.Machine.execBins p b s
  | .alignup p b => Sys2Proof.Machine.execAlignup p b s
  | .eq p b => Sys2Proof.Machine.execEq p b s
  | .ne p b => Sys2Proof.Machine.execNe p b s
  | .lts p b => Sys2Proof.Machine.execLts p b s
  | .ltu p b => Sys2Proof.Machine.execLtu p b s
  | .les p b => Sys2Proof.Machine.execLes p b s
  | .leu p b => Sys2Proof.Machine.execLeu p b s
  | .eqz p b => Sys2Proof.Machine.execEqz p b s
  | .select p b => Sys2Proof.Machine.execSelect p b s
  | .br p b imm => Sys2Proof.Machine.execBr p b imm s
  | .bz p b imm => Sys2Proof.Machine.execBz p b imm s
  | .bnz p b imm => Sys2Proof.Machine.execBnz p b imm s
  | .br8 p b imm => Sys2Proof.Machine.execBr8 p b imm s
  | .bz8 p b imm => Sys2Proof.Machine.execBz8 p b imm s
  | .bnz8 p b imm => Sys2Proof.Machine.execBnz8 p b imm s
  | .djnz p b imm => Sys2Proof.Machine.execDjnz p b imm s
  | .jmp p b => Sys2Proof.Machine.execJmp p b s
  | .ld64 p b => Sys2Proof.Machine.execLd64 p b s
  | .ld32u p b => Sys2Proof.Machine.execLd32u p b s
  | .ld32s p b => Sys2Proof.Machine.execLd32s p b s
  | .ld16u p b => Sys2Proof.Machine.execLd16u p b s
  | .ld16s p b => Sys2Proof.Machine.execLd16s p b s
  | .ld8u p b => Sys2Proof.Machine.execLd8u p b s
  | .ld8s p b => Sys2Proof.Machine.execLd8s p b s
  | .st64 p b => Sys2Proof.Machine.execSt64 p b s
  | .st32 p b => Sys2Proof.Machine.execSt32 p b s
  | .st16 p b => Sys2Proof.Machine.execSt16 p b s
  | .st8 p b => Sys2Proof.Machine.execSt8 p b s
  | .ldp64 p b => Sys2Proof.Machine.execLdp64 p b s
  | .stp64 p b => Sys2Proof.Machine.execStp64 p b s
  | .fencest p b => Sys2Proof.Machine.execFencest p b s
  | .cadd p b => Sys2Proof.Machine.execCadd p b s
  | .cswap p b => Sys2Proof.Machine.execCswap p b s
  | .lit8 p b imm => Sys2Proof.Machine.execLit8 p b imm s
  | .lit16 p b imm => Sys2Proof.Machine.execLit16 p b imm s
  | .lit32 p b imm => Sys2Proof.Machine.execLit32 p b imm s
  | .lit64 p b imm => Sys2Proof.Machine.execLit64 p b imm s
  | .lit8u p b imm => Sys2Proof.Machine.execLit8u p b imm s
  | .lit16u p b imm => Sys2Proof.Machine.execLit16u p b imm s
  | .lit32u p b imm => Sys2Proof.Machine.execLit32u p b imm s
  | .zero p b => Sys2Proof.Machine.execZero p b s
  | .one p b => Sys2Proof.Machine.execOne p b s
  | .minus1 p b => Sys2Proof.Machine.execMinus1 p b s
  | .litpc p b => Sys2Proof.Machine.execLitpc p b s
  | .call p b imm => Sys2Proof.Machine.execCall p b imm s
  | .calll p b imm => Sys2Proof.Machine.execCalll p b imm s
  | .calli p b => Sys2Proof.Machine.execCalli p b s
  | .ret p b => Sys2Proof.Machine.execRet p b s
  | .toR p b => Sys2Proof.Machine.execToR p b s
  | .rFrom p b => Sys2Proof.Machine.execRFrom p b s
  | .rFetch p b => Sys2Proof.Machine.execRFetch p b s
  | .rdepth p b => Sys2Proof.Machine.execRdepth p b s
  | .jmpl p b imm => Sys2Proof.Machine.execJmpl p b imm s
  | .tread p b => Sys2Proof.Machine.execTread p b s
  | .twrite p b co => Sys2Proof.Machine.execTwrite p b co s
  | .tadd p b => Sys2Proof.Machine.execTadd p b s
  | .waitt p b => Sys2Proof.Machine.execWaitt p b s
  | .waitt8 p b imm => Sys2Proof.Machine.execWaitt8 p b imm s
  | .idle8 p b imm => Sys2Proof.Machine.execIdle8 p b imm s
  | .idle16 p b imm => Sys2Proof.Machine.execIdle16 p b imm s
  | .idle p b => Sys2Proof.Machine.execIdle p b s
  | .tarm p b => Sys2Proof.Machine.execTarm p b s
  | .shld p b => Sys2Proof.Machine.execShld p b s
  | .shst p b => Sys2Proof.Machine.execShst p b s
  | .shget p b => Sys2Proof.Machine.execShget p b s
  | .shset p b => Sys2Proof.Machine.execShset p b s
  | .shbase p b => Sys2Proof.Machine.execShbase p b s
  | .shaddb p b => Sys2Proof.Machine.execShaddb p b s
  | .shclr p b => Sys2Proof.Machine.execShclr p b s
  | .shcopy p b => Sys2Proof.Machine.execShcopy p b s
  | .endOp p b drain => Sys2Proof.Machine.execEndOp p b drain s
  | .yieldOp p b => Sys2Proof.Machine.execYieldOp p b s
  | .ei p b => Sys2Proof.Machine.execEi p b s
  | .di p b => Sys2Proof.Machine.execDi p b s
  | .setiv p b => Sys2Proof.Machine.execSetiv p b s
  | .reti p b => Sys2Proof.Machine.execReti p b s
  | .imask p b => Sys2Proof.Machine.execImask p b s
  | .ipend p b => Sys2Proof.Machine.execIpend p b s
  | .trap p b imm => Sys2Proof.Machine.execTrap p b imm s
  | .tide p b => Sys2Proof.Machine.execTide p b s
  | .berth p b => Sys2Proof.Machine.execBerth p b s
  | .mc p b => Sys2Proof.Machine.execMc p b s
  | .signal p b => Sys2Proof.Machine.execSignal p b s
  | .bmove p b stop => Sys2Proof.Machine.execBmove p b stop s
  | .bfill p b stop => Sys2Proof.Machine.execBfill p b stop s
  | .crc32c p b stop => Sys2Proof.Machine.execCrc32c p b stop s
  | .reservedOpcode p b op => Sys2Proof.Machine.execReservedOpcode p b op s
  | .interruptEntry p b => Sys2Proof.Machine.execInterruptEntry p b s
  | .berthPoke p b m v => Sys2Proof.Machine.execBerthPoke p b m v s
  | .berthSignalRead p b m co => Sys2Proof.Machine.execBerthSignalRead p b m co s
  | .mm p b w => Sys2Proof.Machine.execMm p b w s
  | .mmo p b w => Sys2Proof.Machine.execMmo p b w s
  | .ldw p b w => Sys2Proof.Machine.execLdw p b w s
  | .ldwt p b w => Sys2Proof.Machine.execLdwt p b w s
  | .post p b w => Sys2Proof.Machine.execPost p b w s
  | .redSum p b w => Sys2Proof.Machine.execRedSum p b w s
  | .redMax p b w => Sys2Proof.Machine.execRedMax p b w s
  | .redMin p b w => Sys2Proof.Machine.execRedMin p b w s
  | .mov p b w => Sys2Proof.Machine.execMov p b w s
  | .turn p b w => Sys2Proof.Machine.execTurn p b w s
  | .copyReport p b n dmc => Sys2Proof.Machine.execCopyReport p b n dmc s
  | .put p b w => Sys2Proof.Machine.execPut p b w s
  | .mput p b w => Sys2Proof.Machine.execMput p b w s
  | .rput p b w => Sys2Proof.Machine.execRput p b w s
  | .xferStart p b => Sys2Proof.Machine.execXferStart p b s
  | .xferReport p b n dmc => Sys2Proof.Machine.execXferReport p b n dmc s
  | .gleanSum p b w => Sys2Proof.Machine.execGleanSum p b w s
  | .gleanMean p b w => Sys2Proof.Machine.execGleanMean p b w s
  | .gleanMax p b w => Sys2Proof.Machine.execGleanMax p b w s
  | .wsum p b w => Sys2Proof.Machine.execWsum p b w s
  | .gather p b w => Sys2Proof.Machine.execGather p b w s
  | .warm p b w => Sys2Proof.Machine.execWarm p b w s
  | .assign p b w => Sys2Proof.Machine.execAssign p b w s
  | .gleanAdd p b w => Sys2Proof.Machine.execGleanAdd p b w s
  | .axpy p b w => Sys2Proof.Machine.execAxpy p b w s
  | .gleanReport p b n dmc => Sys2Proof.Machine.execGleanReport p b n dmc s
  | .committingDone p => Sys2Proof.Machine.execCommittingDone p s
  | .append p b w => Sys2Proof.Machine.execAppend p b w s
  | .attend p b w => Sys2Proof.Machine.execAttend p b w s
  | .backward p b w => Sys2Proof.Machine.execBackward p b w s
  | .ledgOpen p b w => Sys2Proof.Machine.execLedgOpen p b w s
  | .ledgClose p b w => Sys2Proof.Machine.execLedgClose p b w s
  | .ledgFetch p b w => Sys2Proof.Machine.execLedgFetch p b w s
  | .ledgReport p b n dmc => Sys2Proof.Machine.execLedgReport p b n dmc s
  | .pagewait p => Sys2Proof.Machine.execPagewait p s
  | .swapoutPage p q ok => Sys2Proof.Machine.execSwapoutPage p q ok s
  | .swapinPage p q ok => Sys2Proof.Machine.execSwapinPage p q ok s
  | .maintenanceAccess p bin wh host flips => Sys2Proof.Machine.execMaintenanceAccess p bin wh host flips s
  | .granScrubTakeover p bin flips => Sys2Proof.Machine.execGranScrubTakeover p bin flips s
  | .patrolRead p st flips => Sys2Proof.Machine.execPatrolRead p st flips s
  | .scrubForced p st req => Sys2Proof.Machine.execScrubForced p st req s
  | .hbmTelemetryRead p temps => Sys2Proof.Machine.execHbmTelemetryRead p temps s
  | .hbmParity p st run => Sys2Proof.Machine.execHbmParity p st run s
  | .frameReceive p sd h => Sys2Proof.Machine.execFrameReceive p sd h s
  | .beacon p sd => Sys2Proof.Machine.execBeacon p sd s
  | .slewEnd p => Sys2Proof.Machine.execSlewEnd p s
  | .request p sd => Sys2Proof.Machine.execRequest p sd s
  | .echo p sd e => Sys2Proof.Machine.execEcho p sd e s
  | .backoffExpiry p sd => Sys2Proof.Machine.execBackoffExpiry p sd s
  | .beaconSend p sd sf => Sys2Proof.Machine.execBeaconSend p sd sf s
  | .candidate p sd => Sys2Proof.Machine.execCandidate p sd s
  | .candidateBeacon p sd sf => Sys2Proof.Machine.execCandidateBeacon p sd sf s
  | .masterEchoFail p sd => Sys2Proof.Machine.execMasterEchoFail p sd s
  | .portRemove p sd addr => Sys2Proof.Machine.execPortRemove p sd addr s
  | .silent p sd => Sys2Proof.Machine.execSilent p sd s
  | .cellSend p sd wave => Sys2Proof.Machine.execCellSend p sd wave s
  | .calDue p sd ring slot => Sys2Proof.Machine.execCalDue p sd ring slot s
  | .calForced p sd ring slot => Sys2Proof.Machine.execCalForced p sd ring slot s
  | .slDemandWrite p sd m v => Sys2Proof.Machine.execSlDemandWrite p sd m v s
  | .data p sd => Sys2Proof.Machine.execData p sd s
  | .urgent p sd => Sys2Proof.Machine.execUrgent p sd s
  | .ack p sd => Sys2Proof.Machine.execAck p sd s
  | .retransmit p sd n => Sys2Proof.Machine.execRetransmit p sd n s
  | .reduceDrop p n => Sys2Proof.Machine.execReduceDrop p n s
  | .glreq p sd => Sys2Proof.Machine.execGlreq p sd s
  | .glrow p sd => Sys2Proof.Machine.execGlrow p sd s
  | .glupd p sd => Sys2Proof.Machine.execGlupd p sd s
  | .harbDoorbell p m v => Sys2Proof.Machine.execHarbDoorbell p m v s
  | .harbRetx p n => Sys2Proof.Machine.execHarbRetx p n s
  | .cboClean p h va => Sys2Proof.Machine.execCboClean p h va s
  | .cboFlush p h va => Sys2Proof.Machine.execCboFlush p h va s
  | .cboInval p h va => Sys2Proof.Machine.execCboInval p h va s
  | .fence p h pred succ => Sys2Proof.Machine.execFence p h pred succ s
  | .tideCsr p h rd => Sys2Proof.Machine.execTideCsr p h rd s
  | .basinns p h rd => Sys2Proof.Machine.execBasinns p h rd s
  | .clerkStart p m v => Sys2Proof.Machine.execClerkStart p m v s
  | .plicClaim p m ctx => Sys2Proof.Machine.execPlicClaim p m ctx s
  | .plicComplete p m ctx v => Sys2Proof.Machine.execPlicComplete p m ctx v s
  | .mtimecmp p h ticks => Sys2Proof.Machine.execMtimecmp p h ticks s
  | .msip p h m v => Sys2Proof.Machine.execMsip p h m v s
  | .bar2Access p q => Sys2Proof.Machine.execBar2Access p q s
  | .linkDown => Sys2Proof.Machine.execLinkDown s
  | .msixPendingSend pf v => Sys2Proof.Machine.execMsixPendingSend pf v s
  | .registerWrite p a co => Sys2Proof.Machine.execRegisterWrite p a co s
  | .authChallenge p r nonce => Sys2Proof.Machine.execAuthChallenge p r nonce s
  | .authResponse p r => Sys2Proof.Machine.execAuthResponse p r s
  | .nonceExpiry p box => Sys2Proof.Machine.execNonceExpiry p box s
  | .lockoutEnd p box => Sys2Proof.Machine.execLockoutEnd p box s
  | .status p r => Sys2Proof.Machine.execStatus p r s
  | .read p r => Sys2Proof.Machine.execRead p r s
  | .write p r => Sys2Proof.Machine.execWrite p r s
  | .haltBerth p r => Sys2Proof.Machine.execHaltBerth p r s
  | .berthHalted p b => Sys2Proof.Machine.execBerthHalted p b s
  | .haltStalled p b => Sys2Proof.Machine.execHaltStalled p b s
  | .haltHart p r => Sys2Proof.Machine.execHaltHart p r s
  | .tideFreeze p r => Sys2Proof.Machine.execTideFreeze p r s
  | .resumeBerth p r => Sys2Proof.Machine.execResumeBerth p r s
  | .resumeHart p r => Sys2Proof.Machine.execResumeHart p r s
  | .tideFreezeEnd p r => Sys2Proof.Machine.execTideFreezeEnd p r s
  | .feed p r => Sys2Proof.Machine.execFeed p r s
  | .step p r => Sys2Proof.Machine.execStep p r s
  | .release p r => Sys2Proof.Machine.execRelease p r s
  | .traceConfig p r => Sys2Proof.Machine.execTraceConfig p r s
  | .traceRead p r => Sys2Proof.Machine.execTraceRead p r s
  | .traceClear p r => Sys2Proof.Machine.execTraceClear p r s
  | .charterWriteBegin p r => Sys2Proof.Machine.execCharterWriteBegin p r s
  | .charterWriteVerify p r => Sys2Proof.Machine.execCharterWriteVerify p r s
  | .charterWriteCheck p r => Sys2Proof.Machine.execCharterWriteCheck p r s
  | .charterWriteProgram p r ok => Sys2Proof.Machine.execCharterWriteProgram p r ok s
  | .charterWriteFinish p r okB okA => Sys2Proof.Machine.execCharterWriteFinish p r okB okA s
  | .mark p m v => Sys2Proof.Machine.execMark p m v s
  | .railInRange rail => Sys2Proof.Machine.execRailInRange rail s
  | .pcieRefclkReturn => Sys2Proof.Machine.execPcieRefclkReturn s
  | .sluicePllRelock p sd => Sys2Proof.Machine.execSluicePllRelock p sd s
  | .hbmRetrainDone p st ok => Sys2Proof.Machine.execHbmRetrainDone p st ok s
  | .linkUp rate width flit => Sys2Proof.Machine.execLinkUp rate width flit s
  | .configWrite pf k => Sys2Proof.Machine.execConfigWrite pf k s
  | .hartLoadStoreAmo p h op => Sys2Proof.Machine.execHartLoadStoreAmo p h op s

end Sys2Proof.Machine
end

