-- ==== Sys2Proof/Machine/Slot.lean ====
section
/-!
DEFINITION. Machine/Slot.lean: what a sluice puts on a wavelength in a slot (R423, R424): guard, preamble, sync word and FEC block, with the
Reed-Solomon code, the scrambler, and the levels of B1 and B2.
-/
namespace Sys2Proof.Machine

/-! ## GF(2^10) and RS(544,514) (IEEE 802.3 Clause 91, as R424 names it) -/

/-- One symbol of the code. -/
abbrev Symbol := BitVec 10

/-- Times x, modulo x^10 + x^3 + 1. -/
def gfShift (a : Symbol) : Symbol := if a.getLsbD 9 then (a <<< 1) ^^^ 9#10 else a <<< 1

/-- The product in GF(2^10): the sum of a · x^i over the bits i of b. -/
def gfMul (a b : Symbol) : Symbol :=
  ((List.range 10).foldl (fun (s : Symbol × Symbol) i => (if b.getLsbD i then s.1 ^^^ s.2 else s.1, gfShift s.2)) (0, a)).1

/-- A polynomial, its highest coefficient first, times x + r. -/
def polyTimesRoot (p : List Symbol) (r : Symbol) : List Symbol := (p ++ [0]).zipWith (· ^^^ ·) (0 :: p.map (gfMul r))

/-- The generator: the product of x + α^j for j below 30. It is monic, of degree 30. -/
def rsGenerator : List Symbol :=
  ((List.range 30).foldl (fun (s : List Symbol × Symbol) _ => (polyTimesRoot s.1 s.2, gfShift s.2)) ([1], 1)).1

/-- One step of the division by the generator, for the next message symbol. -/
def rsStep (g rem : List Symbol) (m : Symbol) : List Symbol :=
  let top := m ^^^ rem.headD 0
  (rem.drop 1 ++ [0]).zipWith (· ^^^ ·) (g.map (gfMul top))

/-- The 30 parity symbols of a message. Omitted leading symbols count as zero, which leaves the remainder as it is. -/
def rsParity (ms : List Symbol) : List Symbol := ms.foldl (rsStep (rsGenerator.drop 1)) (List.replicate 30 0)

def rsCodeword (ms : List Symbol) : List Symbol := ms ++ rsParity ms

/-! ## Bits and symbols -/

/-- Bits of bytes in the order in which they are sent. -/
def sentBits (bs : List Byte) : List Bool := bs.flatMap (fun b => (List.range 8).map b.getLsbD)

/-- Up to `n` bits as a number, the first least significant. -/
def bitsNat : List Bool → Nat
  | [] => 0
  | b :: bs => bit b + 2 * bitsNat bs

/-- Bits in symbols of ten; the last is padded with zeros. -/
def symbolsOf (bits : List Bool) : List Symbol :=
  (pieces 10 (bits.length + 1) bits).map (fun p => BitVec.ofNat 10 (bitsNat p))

def symbolBits (ss : List Symbol) : List Bool := ss.flatMap (fun s => (List.range 10).map s.getLsbD)

/-- The FEC block of a header and of the payload and tag that follow it: the header in one codeword of 26 message symbols, the rest in
codewords of 514, the last of them shortened. -/
def fecSymbols (header rest : List Byte) : List Symbol :=
  rsCodeword (symbolsOf (sentBits header)) ++
    (pieces 514 (rest.length + 1) (symbolsOf (sentBits rest))).flatMap rsCodeword

/-! ## The scrambler -/

/-- PRBS31 (x^31 + x^28 + 1), oldest bit first, from its 31 bits of state. Log entry 127. -/
def prbs : (n : Nat) → BitVec 31 → List Bool
  | 0, _ => []
  | n + 1, s =>
    let b := s.getLsbD 30 ^^ s.getLsbD 27
    b :: prbs n ((s <<< 1) ||| (if b then 1#31 else 0#31))

/-- The FEC block as it is sent: bit by bit XORed with PRBS31, whose generator is set to all-ones at UI 768. -/
def scrambled (ss : List Symbol) : List Bool :=
  let bs := symbolBits ss
  bs.zipWith (· ^^ ·) (prbs bs.length (BitVec.allOnes 31))

/-! ## The slot -/

/-- The light of one unit interval: one of four levels, 0 the lowest; none where the port emits nothing. -/
abbrev Level := Option (Fin 4)

/-- The outer level of a bit. -/
def outer (b : Bool) : Level := some (if b then 3 else 0)

/-- One Gray-coded PAM4 symbol of two bits, the first the less significant. -/
def gray : List Bool → Level
  | [false, false] => some 0
  | [true, false] => some 1
  | [true, true] => some 2
  | [false, true] => some 3
  | [b] => outer b
  | _ => none

/-- The levels of the FEC block: in B2 two bits a unit interval, in B1 one. -/
def blockLevels (b2 : Bool) (bits : List Bool) : List Level :=
  if b2 then (pieces 2 (bits.length + 1) bits).map gray else bits.map outer

def guardUi : Nat := 384

def preambleUi : Nat := 352

def slotUi : Nat := 10200

def syncWord : Word := 0xB74A16E3

/-- A slot, unit interval by unit interval. -/
def slotLevels (b2 : Bool) (header rest : List Byte) : List Level :=
  let lit := (List.range preambleUi).map (fun i => outer (decide (i % 2 = 1))) ++ (List.range 32).map (fun i => outer (syncWord.getLsbD i))
    ++ blockLevels b2 (scrambled (fecSymbols header rest))
  List.replicate guardUi none ++ lit ++ List.replicate (slotUi - guardUi - lit.length) none

/-- The slot in which a frame is sent. -/
def Sent.slot (x : Sent) : List Level := slotLevels x.b2 (frameHeader x.frame) (x.frame.payload ++ natLe 8 x.tag.toNat)

end Sys2Proof.Machine
end

