-- ==== Sys2Proof/Safety.lean ====
section
/-!
DEFINITION. Safety.lean: the words that claims about the machine are written in: what a berth needs to issue, how an instruction
retires, what a command may touch, and the invariant of the Warden's pool.
-/
namespace Sys2Proof.Machine

/-- Berth `b` of polder `p`. -/
def State.bth (s : State) (p b : Ix4) : Berth := (s.pol p).berths.get b

/-- Whether `o` is a half of an event counter that counts event `e` of berth `b` (R549). -/
def Polder.countsAt (q : Polder) (e : Nat) (b : Option Ix4) (o : Nat) : Prop :=
  ∃ x ∈ q.watch.evsel, evselCounts x.2.toNat e b = true ∧ (o = Off.evcnt x.1 ∨ o = Off.evcnt x.1 + 4)

/-- The berth issues an instruction of `n` bytes now, all of them below CODE_LEN (R222, R225). -/
abbrev Ready (s : State) (p b : Ix4) (n : Nat) : Prop :=
  (s.pol p).issues b = true ∧ (s.bth p b).pc + n ≤ (s.bth p b).codeLen

/-- The berth's top cells hold `vs`, deepest first, all landed, above `rest` (R226). -/
def Holds (x : Berth) (vs : List Cell) (rest : List Slot) : Prop :=
  ∃ top : List Slot, x.stack = top ++ rest ∧ top.map Slot.val = vs.reverse ∧ ∀ c ∈ top, c.lands ≤ x.mc

/-- The berth `cost` delivered mill cycles later: both counts advance, instructions with no access left to make leave the flights, loaded
shape entries take effect. -/
def Berth.later (x : Berth) (cost : Nat) : Berth := (x.tick cost false).settleShapes

/-- The berth has no write that lands within its next `n` mill cycles. -/
def Berth.Calm (x : Berth) (n : Nat) : Prop := ∀ f ∈ x.flights, f.data = [] ∨ x.mc + n < f.at_

/-- The registers in which an issued instruction of berth `b` is counted: ISSUE_COUNT (R256) and the event counters that select event
0x03 of the berth (R549). -/
def Polder.issueReg (q : Polder) (b : Ix4) (o : Nat) : Prop :=
  o = Off.berth b.toNat + 0x28 ∨ o = Off.berth b.toNat + 0x2C ∨ q.countsAt 3 (some b) o

/-- The polder with other written register values. -/
def Polder.withRegs (q : Polder) (r : Store Word) : Polder := { q with regs := r }

/-- The polder with another berth `b`. -/
def Polder.withBerth (q : Polder) (b : Ix4) (y : Berth) : Polder := { q with berths := q.berths.set b y }

/-- The polder when berth `b` stands as `y` and `cost` mill cycles are delivered to it, in which its writes that are due land. -/
def Polder.after (q : Polder) (b : Ix4) (cost : Nat) (y : Berth) : Polder := (q.withBerth b y).tick b cost false

/-- `t` is `s` after berth `b` of polder `p` has issued one instruction that takes `cost` mill cycles and leaves the berth as `y`: writes of
the berth that are due in that time land, and nothing else changes in the die but the counts of issued instructions. Where no write is due
(`calm`), memory and every other register are as they were. -/
structure Retires (s t : State) (p b : Ix4) (cost : Nat) (y : Berth) : Prop where
  frame : t = s.onPol p (fun q => (q.after b cost y).withRegs (t.pol p).regs)
  regs : ∀ o, ¬ (s.pol p).issueReg b o → (t.pol p).stored o = ((s.pol p).after b cost y).stored o
  count : (t.pol p).counter (Off.berth b.toNat + 0x28) = (((s.pol p).after b cost y).counter (Off.berth b.toNat + 0x28) + 1) % 2 ^ 48
  calm : y.Calm cost → (t.pol p).mem = (s.pol p).mem ∧ t.bth p b = y.later cost ∧ (∀ c, c ≠ b → t.bth p c = s.bth p c) ∧
    ∀ o, ¬ (s.pol p).issueReg b o → (t.pol p).stored o = (s.pol p).stored o

/-- The berth with its PC past an instruction of `n` bytes. -/
def Berth.past (x : Berth) (n : Nat) : Berth := { x with pc := (x.pc + n) % 2 ^ 17 }

/-- A relative target: an offset from the following instruction, in the 17 bits of the PC (R222, R223). -/
def Berth.target (x : Berth) (len : Nat) (rel : Int) : Berth := { x with pc := ((((x.pc + len : Nat) : Int) + rel) % 2 ^ 17).toNat }

/-- Offset `t` does not lie inside the body of a wide instruction of the berth's code (R224). -/
abbrev Berth.Outside (x : Berth) (t : Nat) : Prop := inBody (t % 2 ^ 17) (t % 2 ^ 17 + 1) 0 x.code = false

/-- The berth with its operand stack replaced. -/
def Berth.holding (x : Berth) (st : List Slot) : Berth := { x with stack := st }

/-- The berth issues an instruction of `n` bytes that accesses memory, and no half of a register pair is held for it (R69). -/
abbrev MemReady (s : State) (p b : Ix4) (n : Nat) : Prop :=
  Ready s p b n ∧ (s.pol p).holders.find? (fun h => decide (h.master = .berth b)) = none

/-- A short access of the berth to bytes `a` to `a + n − 1` passes the checks of R77, 8 bytes at a time, and meets no wrong bits (R348,
R349). -/
abbrev ShortPasses (s : State) (p b : Ix4) (a n : Nat) (write : Bool) : Prop :=
  (s.pol p).shortCause b a n write = none ∧ ∀ e ∈ (s.pol p).memctl.errs, e.1 + 8 ≤ a ∨ a + n ≤ e.1

/-- No access of the berth is in flight to those bytes (R227, R272). -/
abbrev NoFlight (x : Berth) (a n : Nat) : Prop := ∀ f ∈ x.flights, f.addr + f.len ≤ a ∨ a + n ≤ f.addr

/-- The path latency L of R226. -/
def Polder.pathL (q : Polder) (a : Nat) : Nat := if 0x10000000 ≤ a then 4 else if q.isCommons (a / 0x200000) then 72 else 6

/-- A short store of the bytes `bs` at `a` that the berth has in flight: it lands `lat` mc from now (R227). -/
def Berth.storing (x : Berth) (a : Nat) (bs : List Byte) (lat : Nat) : Flight := ⟨a, bs.length, true, true, x.mc + lat, bs, x.mc, .none⟩

/-- No half of a register pair is held for the berth, to be committed before its next access (R69). -/
abbrev Polder.Unheld (q : Polder) (b : Ix4) : Prop := q.holders.find? (fun h => decide (h.master = .berth b)) = none

/-- HBM serves requests: no access has to wait (R133, R350). -/
def Polder.Serves (q : Polder) : Prop := q.clocks.safe = false ∧ ∀ k, q.memctl.held.at k = false

/-- The other berths are as before, but for streams in flight, which another's write to their sources disturbs (R286). -/
def OthersKeep (s t : State) (p b : Ix4) : Prop := ∀ c, c ≠ b → { t.bth p c with flights := [] } = { s.bth p c with flights := [] }

/-- The memory of `t`'s polder is that of `s`'s but for the bytes `bs` at `a`. -/
def Stores (s t : State) (p : Ix4) (a : Nat) (bs : List Byte) : Prop :=
  (t.pol p).mem.readBytes a bs.length = bs ∧ ∀ i, i < a ∨ a + bs.length ≤ i → (t.pol p).mem.read i = (s.pol p).mem.read i

/-- An arm of TARM whose tally has reached its value (R236, R241); tallies as `ts`. -/
def armHit (ts : List Word) (a : Nat × Word) : Bool := decide ((ts.getD (a.1 % 16) 0 - a.2).toNat < 2 ^ 31)

/-- The berth with other tallies: an arm that they reach makes TALLY, source 2, pending and clears (R241). -/
def Berth.counting (x : Berth) (ts : List Word) : Berth :=
  { x with
    tallies := ts
    pend := if x.tarm.any (armHit ts) then x.pend ||| 4#4 else x.pend
    tarm := x.tarm.filter (fun a => !armHit ts a) }

/-- No read of any berth's stream is in flight (R286). -/
def Polder.noReads (q : Polder) : Prop := ∀ b, ∀ f ∈ (q.berths.get b).flights, f.write = true

/-- Tallies of the berth are mirrored to good Counter words that no stream reads, or not at all (R237, R286, R349). -/
def Mirrors (s : State) (p b : Ix4) : Prop :=
  (s.pol p).stored (Off.berth b.toNat + 0x1C) % 2 = 0 ∨ (s.pol p).noReads ∧ (s.pol p).memctl.errs = []

/-- No berth of the polder stands in a wait or a stall, in which mill cycles are delivered to it (R229, R277). -/
def Polder.busy (q : Polder) : Prop :=
  ∀ b, let x := q.berths.get b
    x.halted = true ∨ x.impounded = true ∨ x.phase = .idle ∨ x.phase = .loading ∨ x.phase = .running

/-- The state in which the mirror of tally `k` of a berth holds `v`, where TMIRROR.EN is 1 (R237). -/
def State.mirrored (s : State) (p b : Ix4) (k v : Nat) : State :=
  let m := (s.pol p).stored (Off.berth b.toNat + 0x1C)
  if m % 2 = 1 then s.onPol p (·.writeMem (0x10000000 + m % 2 ^ 21 / 64 * 64 + 4 * k) (natLe 4 v)) else s

/-- A write of one 32-bit register by a master passes every check of R59, R66, R69, R76 and R77: no half is held for the master, the
register is no half of a pair, no fence and no lock refuses it. -/
abbrev WritePasses (s : State) (p : Ix4) (m : Master) (o : Nat) : Prop :=
  (s.pol p).mayIssue m true = true ∧ (s.pol p).clocks.stopped = false ∧
  (s.pol p).holders.find? (fun h => decide (h.master = m)) = none ∧ (s.pol p).bootWrites = false ∧ (m ≠ .watchhouse → (s.pol p).fenced (masterCode m) (winBase + o) 4 true = false) ∧ (s.pol p).lockBreach m o = false

/-- The waybill of berth `b` has ended: the berth holds none, its stacks and tallies are reset, no engine holds an operation of it, and
the other berths are as before but for their streams (R204, R244, R245). -/
def Ended (s t : State) (p b : Ix4) : Prop :=
  (t.bth p b).run = none ∧ (t.bth p b).phase = .idle ∧ (t.bth p b).stack = [] ∧ (t.bth p b).rstack = [] ∧
  (t.bth p b).tallies = List.replicate 16 0 ∧ (t.bth p b).pre = none ∧
  (∀ o ∈ (t.pol p).copy, o.berth ≠ b) ∧ (∀ o ∈ (t.pol p).lock.xfer, o.berth ≠ b) ∧
  (∀ o ∈ (t.pol p).gleaner.ops, o.berth ≠ b) ∧ (∀ o ∈ (t.pol p).ledger.ops, o.berth ≠ b) ∧ OthersKeep s t p b

/-- Each 8-byte access of a long operation to the `n` bytes at `a` passes (R239). -/
def AccessesPass (s : State) (p b : Ix4) (a n : Nat) (write : Bool) : Prop :=
  ∀ i, 8 * i < n → ShortPasses s p b (a + 8 * i) (min 8 (n - 8 * i)) write

/-- A polder that has been reset for a cause: POWERED, every berth and hart, the impounds and the registers below the Watchhouse's as
R11 and their tables have them, fuses and memory kept (R84, R109, R110). -/
structure Restarted (q q' : Polder) (cause : ResetCause) : Prop where
  boot : q'.boot = .powered
  cause : q'.cause = cause
  berths : q'.berths = Quad.const Berth.reset
  clerks : q'.clerks = Clerks.reset
  impounds : q'.imp = Impound.reset
  wharf : q'.wharf = Wharf.reset
  regs : ∀ o, o < 0x200000 → q'.stored o = regReset o % 2 ^ 32
  fuses : q'.fuses = q.fuses
  mem : q'.mem = q.mem

/-- VALUE of a 48-bit counter of the Warden (R74). -/
def Warden.count (w : Warden) (o : Nat) : Nat := w.wreg o + 2 ^ 32 * (w.wreg (o + 4) % 2 ^ 16)

/-- The Warden's pool is sound: neither the floors nor the grants of an epoch, in force or delivered, exceed the budget, there are none
before the Warden has its charter, and every skip level is one of 0 to 56 (R55, R156, R157, R179). -/
structure Warden.Sound (w : Warden) : Prop where
  floors : w.floors.toList.sum ≤ w.budget
  grants : w.grant.toList.sum ≤ w.budget
  next : w.nextGrant.toList.sum ≤ w.budget
  unlocked : w.lock = false → w.grant = Quad.const 0 ∧ w.nextGrant = Quad.const 0
  skips : ∀ n, w.skip.get n ≤ 56 ∧ w.nextSkip.get n ≤ 56

/-- Whether the `n` bytes at `a` are Granary, Counter or HBM of the polder, all populated, in stacks that are not DOWN and serve requests;
for a write, below the sluice-pool region (R339) and in RUN outside the Ledger's tables (R388). -/
def Polder.isPlain (q : Polder) (a n : Nat) (write : Bool) : Bool :=
  (match q.populated a n write with
    | some .host | some .window | none => false
    | some r => !q.stackDown r a n && !q.hbmWaits r a n) &&
  (!write || (!q.inSluicePool a n &&
    (decide (q.boot ≠ .run) || q.lgTables.all (fun t => decide (a + n ≤ t.1) || decide (t.2 ≤ a)))))

/-- They are. -/
abbrev Polder.Plain (q : Polder) (a n : Nat) (write : Bool) : Prop := q.isPlain a n write = true

/-- Whether the Ledger may read and write the `n` bytes at `a` as its own table (R339, R388). -/
abbrev Polder.Owned (q : Polder) (a n : Nat) : Prop := q.Plain a n false ∧ q.inSluicePool a n = false

/-- The bytes of a waybill pass the checks of R183 but UNFIT's. -/
abbrev WellFormedBill (bs : List Byte) : Prop :=
  let f (o n : Nat) : Nat := leNat ((bs.drop o).take n)
  f 0x2D 1 = 1 ∧ ¬ (bitOf (f 0xB 1) 4 = true ∧ f 8 1 % 4 < 2) ∧ (8 ≤ f 0x18 4 ∧ f 0x18 4 ≤ 131072) ∧ f 0x18 4 % 8 = 0 ∧
  f 0x1C 4 < f 0x18 4 ∧ f 0x10 8 % 8 = 0 ∧ f 0x20 8 % 8 = 0 ∧ (f 0x28 4 = 0 ∨ f 0x28 4 = 1024) ∧ f 0x2C 1 ≤ 8 ∧ f 0xC 4 ≠ 0

/-- Basin time `dt` ns from now, or die time in a polder that is alone (R108, R490). -/
def State.basinTime (s : State) (p : Ix4) (dt : Nat) : Nat :=
  if (s.pol p).alone then s.warden.dieTime + dt else (s.pol p).basin.now + dt

/-- The code half of a berth that no instruction is read from (R196). -/
def Berth.spare (x : Berth) : List Byte := if x.half then x.code0 else x.code1

/-! ### Wide instructions -/

/-- The berth issues an escape here: its body is aligned and lies whole below CODE_LEN (R222, R224, R225), and no half of a register pair is
held for it (R69). -/
abbrev WideReady (s : State) (p b : Ix4) : Prop :=
  (s.pol p).issues b = true ∧ (s.bth p b).pc % 8 = 7 ∧ (s.bth p b).pc + 33 ≤ (s.bth p b).codeLen ∧
  (s.pol p).holders.find? (fun h => decide (h.master = .berth b)) = none

/-- The descriptors of the body, with the cells they read, give the operands `o`; reading them changes nothing, since every one of those
cells has landed and no entry is still being loaded (R260, R263). Indices are those that the Counter holds. -/
def Operands (s : State) (p b : Ix4) (w : WideBody) (o : WideOps) : Prop :=
  (∀ k, (s.dom p).readOps b w k = k (s.dom p) o) ∧
  ∀ x, o.d = some x ∨ o.a = some x ∨ o.b = some x → x.index = x.indexAt.map (fun a => (s.pol p).mem.readNat a 4)

/-- A distance-based instruction passes the checks of R287 and keeps its distances (R267 to R276), nothing of the berth is in flight, and no
wrong bits are met. -/
def Unbroken (s : State) (p b : Ix4) (cs : List Checked) (ok : Bool) (plan : Plan) : Prop :=
  (s.pol p).wideCheck b cs (wantShape ok) = none ∧ plan.breaks (s.bth p b) = false ∧ (s.bth p b).flights = [] ∧
  (s.pol p).memctl.errs = []

/-- A wide instruction has issued: the PC is behind its body, 1 mc was delivered, the stack is `rest`, memory is `m`, and no other berth, no
other polder and no part of the Warden has changed. -/
structure WideRetires (s t : State) (p b : Ix4) (rest : List Slot) (m : Mem) : Prop where
  mem : (t.pol p).mem = m
  pc : (t.bth p b).pc = ((s.bth p b).pc + 33) % 2 ^ 17
  mc : (t.bth p b).mc = (s.bth p b).mc + 1
  stack : (t.bth p b).stack = rest
  run : (t.bth p b).run = (s.bth p b).run
  tallies : (t.bth p b).tallies = (s.bth p b).tallies
  berths : ∀ c, c ≠ b → t.bth p c = s.bth p c
  polders : ∀ r, r ≠ p → t.pol r = s.pol r
  die : t.warden = s.warden ∧ t.hostMem = s.hostMem

/-- The bytes `bs` are on their way to address `y`, where they land in cycle `lands` (R267). -/
def Berth.Flies (x : Berth) (y : Nat) (bs : List Byte) (lands : Nat) : Prop :=
  ∃ f ∈ x.flights, f.write = true ∧ f.at_ = lands ∧ f.data.length = f.len ∧ f.addr ≤ y ∧ y + bs.length ≤ f.addr + f.len ∧
    (f.data.drop (y - f.addr)).take bs.length = bs

/-- The result rows of a distance-based instruction are on their way to D: row j of the mill at position k holds the values `vals j k`, lane
by lane, and lands in cycle `lands j`; nothing else is on its way to memory. -/
structure RowsFly (x : Berth) (o : Operand) (g : Group) (rows : Nat) (lands : Nat → Nat) (vals : Nat → Nat → List Nat) : Prop where
  lanes : ∀ j < rows, ∀ k < g.n, ∀ i < 32,
    x.Flies ((o.resultRow g k j).getD i 0) (natLe o.size ((vals j k).getD i 0)) (lands j)
  only : ∀ f ∈ x.flights, f.write = true → ∃ j < rows, ∃ k < g.n, ∀ i < f.len, ∃ y ∈ o.resultRow g k j,
    y ≤ f.addr + i ∧ f.addr + i < y + o.size

/-- No byte of A's streams is one of D's first `rows` result rows. -/
def Operand.apart (d : Operand) (g : Group) (rows : Nat) (a : Operand) (ga : Group) : Prop :=
  ∀ k < g.n, ∀ j < rows, ∀ y ∈ d.resultRow g k j, ∀ i < ga.n, ∀ v ∈ a.stream ga i, ∀ x ∈ v, x + a.size ≤ y ∨ y + d.size ≤ x

/-- No two of D's first `rows` result rows share a byte. -/
def Operand.distinctRows (d : Operand) (g : Group) (rows : Nat) : Prop :=
  ∀ j < rows, ∀ k < g.n, ∀ j' < rows, ∀ k' < g.n, (j, k) ≠ (j', k') →
    ∀ y ∈ d.resultRow g k j, ∀ z ∈ d.resultRow g k' j', y + d.size ≤ z ∨ z + d.size ≤ y

/-- Vector `j` of a source at mill `k` as memory holds it, zeros for a row that R282 leaves unread (R265, R282). -/
def Operand.vec (o : Operand) (q : Polder) (b : Ix4) (g : Group) (k j : Nat) : List Nat := o.value q b g k [] 0 j

/-- Row `j` of D at mill `k` as memory holds it. -/
def Operand.oldRow (o : Operand) (q : Polder) (g : Group) (k j : Nat) : List Word := o.accRow q.mem [] g k j 0

/-- Operands of a distance-based class as R287 checks them: D at the mills `gd`, the sources at the group. -/
def distanceChecks (o : WideOps) (gd g : Group) : List Checked :=
  checkedOf o.d true true gd (some gd.n) ++ checkedOf o.a false true g (some g.n) ++ checkedOf o.b false true g (some g.n)

/-- Bytes of an operand's elements in index order (R262). -/
def Operand.bytesIn (o : Operand) (g : Group) (m : Mem) : List Byte := (o.elements g).flatMap (fun a => m.readBytes a o.size)

/-- A completion-based instruction that its engine takes: its queue has room, and the checks of R287 pass (R277, R282). -/
abbrev Takes (s : State) (p b : Ix4) (e : Engine) (cs : List Checked) (ok : Bool) : Prop :=
  (s.pol p).queued b e < 16 ∧ (s.pol p).wideCheck b cs (wantShape ok) = none ∧ (s.pol p).memctl.errs = []

/-- An operation of berth `b` has reported: its tally has risen by `inc`, where the berth runs and its tally is not mirrored (R236, R278). -/
def Reported (s t : State) (p b : Ix4) (k inc : BitVec 4) : Prop :=
  (s.bth p b).phase = .running → (s.bth p b).tallies.length = 16 →
    (t.bth p b).tallies = (s.bth p b).tallies.set k.toNat ((s.bth p b).tallies.getD k.toNat 0 + inc.setWidth 32)

/-- The pools of the sluices can be read, and no entry of one is lost (R338, R349, R351). -/
structure Polder.PoolsGood (q : Polder) : Prop where
  serves : q.Serves
  up : q.memctl.down = ⟨false, false⟩
  good : q.memctl.errs = []

/-- The oldest frame of a side's receive pool is fresh, comes from a roster member, and is the next of its stream (R461, R467, R474). -/
structure NextFrame (q : Polder) (sd : Side) (h : Heard) (rest : List Heard) : Prop where
  boot : q.boot = .opened ∨ q.boot = .run
  runs : q.clocks.stopped = false
  inbox : (q.sluices.get sd).inbox = h :: rest
  fresh : staleAt h.frame.tide h.frame.opinfo q.wharf.tide = false
  roster : q.inRoster h.frame.src h.frame.sgrid = true
  pools : q.PoolsGood
  sets : ∀ x ∈ q.lock.sets, staleAt x.tide x.opinfo q.wharf.tide = false
  next : (q.rxFrame h.frame).base = h.frame.seq ∧ (q.rxFrame h.frame).bitmap = 0 ∧ h.frame.opinfo.getLsbD 9 = false

/-- The frame has been taken and has landed: its pool has lost it, and its stream goes on behind it, to be acknowledged (R468, R470). -/
def Landed (_q q' : Polder) (sd : Side) (h : Heard) (rest : List Heard) : Prop :=
  (q'.sluices.get sd).inbox = rest ∧ (q'.rxFrame h.frame).base = h.frame.seq + 1 ∧ (q'.rxFrame h.frame).bitmap = 0 ∧
  (q'.rxFrame h.frame).due = some h.sf

/-- Row `g` of a table of the polder's own as memory holds it, with its scale (R355). -/
def Polder.rowIn (q : Polder) (tb : GlTable) (g : Nat) : List Byte × Word :=
  (q.mem.readBytes (tb.rowAt (tb.ell g)) tb.rowBytes,
    if tb.scaled then BitVec.ofNat 32 (q.mem.readNat (tb.sbase + 4 * tb.ell g) 4) else 0)

/-- A row of a table that the polder owns and holds, in good memory, with no published slot, in a table whose own rows are not cached (R355,
R356, R365, R373). -/
structure OwnRow (q : Polder) (tb : GlTable) (g : Nat) : Prop where
  inside : g < tb.rows
  held : tb.holds g = true
  own : (q.glOwnerAt tb g).2 = q.glSelf
  row : q.Plain (tb.rowAt (tb.ell g)) tb.rowBytes false
  scale : tb.scaled = true → q.Plain (tb.sbase + 4 * tb.ell g) 4 false
  settled : ∀ s ∈ q.gleaner.slots, s.committing = false
  uncached : q.glCaches tb false = false

/-- No pending slot of a table is in use, and its first lies in good memory (R369). -/
structure FreeSlot (q : Polder) (tb : GlTable) : Prop where
  unused : ∀ s ∈ q.gleaner.slots, s.table ≠ tb.t
  some : 0 < tb.slots
  read : q.Plain tb.pbase (tb.rowBytes + 4) false
  write : q.Plain tb.pbase (tb.rowBytes + 4) true

/-- Every operation in the Gleaner has started, and no request of another polder waits for its turn (R364). -/
structure Polder.GleanerFree (q : Polder) : Prop where
  started : ∀ o ∈ q.gleaner.ops, o.started = true ∧ o.token ≠ q.lock.tokens
  remote : q.glRemote = false

/-- What a lookup of row `g` reads: the row, its scale and its entry of the shard map (R355, R356). -/
def Polder.rowReads (q : Polder) (tb : GlTable) (g : Nat) : List (Nat × Nat) :=
  [(tb.rowAt (tb.ell g), tb.rowBytes), (tb.sbase + 4 * tb.ell g, 4), ((q.glOwnerAt tb g).1, 4)]

/-- Ranges (first byte, length) of which no two share a byte. -/
abbrev Apart (rs : List (Nat × Nat)) : Prop := rs.Pairwise (fun r s => r.1 + r.2 ≤ s.1 ∨ s.1 + s.2 ≤ r.1)

/-- Where the descriptor of a sequence lies (R388). -/
def LgGeom.seqAt (g : LgGeom) (sq : Nat) : Nat := g.seqBase + 32 * sq

/-- An operation of the Ledger meets nothing that R395 or R413 stops it at: its sequence exists in the state that it needs, its descriptor and
page table lie in memory of the Ledger's own and hold no page of the host slot, no check of R413 and no access check fails, and what it takes
up or will write lies in good memory. -/
structure LgReady (q : Polder) (o : LgOp) : Prop where
  number : o.ctl.seq < q.lgGeom.seqs ∧ (o.func ≤ 2 → o.ctl.layer < q.lgGeom.nl)
  owned : q.Owned (q.lgGeom.seqAt o.ctl.seq) 32 ∧ ∀ i < q.lgGeom.entries, q.Owned (q.lgGeom.entryAt o.ctl.seq i) 4
  state : (q.lgSeq o.ctl.seq).state = if o.func = 0x10 then 0 else 1
  resident : ∀ i < q.lgGeom.entries, inHost (q.lgEntry o.ctl.seq i) = false
  passes : lgCause q.lgGeom (q.lgSeq o.ctl.seq) o = none ∧ q.lgViolation q.lgGeom (q.lgSeq o.ctl.seq) o = none
  pages : o.func = 0 → (∀ n, 1 ≤ n → n ≤ q.lgGeom.pages → q.Plain (q.lgGeom.pageAt n) q.lgGeom.pageBytes true) ∧
    ∀ r ∈ q.lgTargets q.lgGeom (q.lgSeq o.ctl.seq) o.ctl, q.Plain r.1 q.lgGeom.kvBytes true ∧ q.Plain r.2 q.lgGeom.kvBytes true
  stats : o.func = 1 → bitOf o.ctl.cflags.toNat 0 = true → q.Plain o.ctl.stats (lgStats q.lgGeom o.ctl).2 true
  grads : o.func = 2 → ∀ r ∈ lgGradRuns q.lgGeom (q.lgSeq o.ctl.seq) o.ctl, q.Plain r.1 r.2 true

/-- Pages that an operation takes as it starts (R394, R400). -/
def Polder.lgWants (q : Polder) (o : LgOp) : Nat :=
  if o.func = 0 then (q.lgNew q.lgGeom (q.lgSeq o.ctl.seq) o.ctl).length else 0

/-- The key and the value of a token as memory holds them, all KV heads side by side (R387). -/
def Polder.lgKeyValue (q : Polder) (o : LgOp) (t : Nat) : List Word × List Word :=
  let g := q.lgGeom
  match q.lgToken g (q.lgSeq o.ctl.seq) o.ctl.seq o.ctl.layer t with
  | some (k, v) => (wordsOf g.elem (q.mem.readBytes k g.kvBytes), wordsOf g.elem (q.mem.readBytes v g.kvBytes))
  | none => ([], [])

/-- A token's page-table entry, key and value can be read. -/
def Polder.lgReadable (q : Polder) (o : LgOp) (t : Nat) : Prop :=
  let g := q.lgGeom
  let x := q.lgSeq o.ctl.seq
  q.Plain (g.entryAt o.ctl.seq (o.ctl.layer * g.maxp + g.slot x t)) 4 false ∧
  ∃ k v, q.lgToken g x o.ctl.seq o.ctl.layer t = some (k, v) ∧ q.Plain k g.kvBytes false ∧ q.Plain v g.kvBytes false

/-- Row `i` of head `h` of an ATTEND, from queries, keys and values as they are (R396, R397). -/
def Polder.lgRow (q : Polder) (o : LgOp) (i h : Nat) : List Word :=
  let g := q.lgGeom
  let v := lgVisible o.ctl (q.lgSeq o.ctl.seq) i
  let gh := h * g.nkv / g.nh
  let keys := (List.range v.2).map (fun j =>
    let kv := q.lgKeyValue o (v.1 + j)
    (lanePart g.hd gh kv.1, lanePart g.hd gh kv.2))
  (attendRow g.scale g.hd (lanePart g.hd (i * g.nh + h) (wordsOf o.aElem o.a)) keys).2.2.1

/-! ### Harts -/

/-- A byte of memory as the harts see it: the line that holds it in the caches, or memory (R493). -/
def Polder.seen (q : Polder) (a : Nat) : Byte :=
  match Store.find q.clerks.cache (a / 64) with
  | some l => l.bytes.getD (a % 64) 0
  | none => q.mem.read a

/-- Lines in the caches are whole lines of good memory, each at most once, a clean one as memory is; no read of a berth's stream is in
flight. -/
structure Polder.Cached (q : Polder) : Prop where
  sorted : Store.sorted q.clerks.cache = true
  lines : ∀ l ∈ q.clerks.cache, l.2.bytes.length = 64 ∧ q.Plain (64 * l.1) 64 true
  clean : ∀ l ∈ q.clerks.cache, l.2.dirty = false → q.mem.readBytes (64 * l.1) 64 = l.2.bytes
  good : q.memctl.errs = []
  still : q.noReads

/-- Hart `h` in M-mode can make an access of `n` bytes at `a` of main memory: its mode, its PMP and the polder's checks let it (R489, R492,
R496). `perm` is 0 for a read, 1 for a write, 2 for a fetch. -/
structure HartReaches (s : State) (p h : Ix4) (perm a n : Nat) : Prop where
  issues : (s.pol p).canIssue (.hart h) = true
  mode : ((s.pol p).clerks.harts.get h).priv = .m ∧ bitOf (((s.pol p).clerks.harts.get h).csrWord 0x300) 17 = false
  pmp : ((s.pol p).clerks.harts.get h).pmpOk .m perm a n = true
  region : isMain ((s.pol p).region a) = true
  line : (s.pol p).Plain (64 * (a / 64)) 64 true
  cause : (s.pol p).causeOf (.hart h) a n (decide (perm = 1)) = none
  unheld : (s.pol p).holders.find? (fun e => decide (e.master = .hart h)) = none

/-- Memory as the harts see it is as it was, but for the bytes `bs` at `a`. -/
def SeenStores (s t : State) (p : Ix4) (a : Nat) (bs : List Byte) : Prop :=
  (∀ i < bs.length, (t.pol p).seen (a + i) = bs.getD i 0) ∧ ∀ i, i < a ∨ a + bs.length ≤ i → (t.pol p).seen i = (s.pol p).seen i

/-! ### Host and Watchhouse -/

/-- A request can be posted in an idle mailbox whose session has at least `level`, in a polder that is present and has its clocks (R532, R535,
R536). -/
structure Mailed (s : State) (p : Ix4) (r : MbReq) (level : Nat) : Prop where
  reach : (s.pol p).boxOpen r.box = true
  idle : ((s.pol p).watch.box.at r.box).busy = false
  present : (s.pol p).boot ≠ .absent
  cool : s.warden.thermtrip = false
  unheld : r.box = .z → (s.pol p).holders.find? (fun h => decide (h.master = .host)) = none
  level : level ≤ ((s.pol p).watch.box.at r.box).level

/-- The mailbox of a request holds its response: DONE, the sequence number, STATUS, RESULT and the data returned (R535). -/
def Answered (t : State) (p : Ix4) (r : MbReq) (cmd status result : Nat) (data : List Byte) : Prop :=
  let b := (t.pol p).watch.box.at r.box
  b.busy = false ∧ b.done = true ∧ b.lastSeq = r.seq ∧ b.cmd.toNat = cmd ∧ b.status.toNat = status ∧ b.result.toNat = result ∧
  b.len = data.length ∧ b.data.take data.length = data

/-- Memory, berths and harts of the polder are as they were. -/
abbrev Untouched (s t : State) (p : Ix4) : Prop :=
  (t.pol p).mem = (s.pol p).mem ∧ (t.pol p).berths = (s.pol p).berths ∧ (t.pol p).clerks.harts = (s.pol p).clerks.harts

/-- A host request of whole double words that the polder answers itself (R71, R509, R510, R520). -/
structure HostAsks (s : State) (p : Ix4) (r : HostReq) : Prop where
  issues : (s.pol p).canIssue .host = true
  runs : (s.pol p).clocks.stopped = false
  unheld : (s.pol p).holders.find? (fun h => decide (h.master = .host)) = none
  bar2 : r.bar0 = false
  plain : r.atomic = false ∧ r.tlpPfx = false ∧ r.poisoned = false
  whole : r.firstBE = 15#4 ∧ (r.dw = 1 ∨ r.lastBE = 15#4) ∧ r.addr % 4 = 0 ∧ 1 ≤ r.dw ∧ r.addr + 4 * r.dw ≤ 0x1000000000

/-- A register whose fields are plain: no half of a pair, no counter, nothing that a write sets off (R10). -/
abbrev plainReg (o : Nat) (r : RegSpec) : Prop :=
  regSpec o = some r ∧ isPair o = false ∧ r.counter = false ∧ r.idm = 0 ∧ r.woc = 0 ∧ (o < 0x100 ∨ 0x300 ≤ o) ∧ o / 0x10000 ≠ 0x15 ∧
  ¬ o ∈ [Off.doorbell, Off.millDiv, Off.clkTest, Off.harbDoorbell, Off.clerkStart, Off.sluice .r + 0xC, Off.sluice .c + 0xC, Off.impValid,
    0x10008C] ∧ ¬ (0x40000 ≤ o ∧ o < 0x50000 ∧ o % 0x4000 = 0x10)

/-- Every written value but that of `o` and of the counters HOST_RX and SETWIN is as it was. -/
def RegsKept (s t : State) (p : Ix4) (o : Nat) : Prop :=
  ∀ k, k ≠ o → ¬ k ∈ [Off.hostRx, Off.hostRx + 4, Off.setwinCount, Off.setwinCount + 4] → (t.pol p).stored k = (s.pol p).stored k

end Sys2Proof.Machine

namespace Sys2Proof

/-! ## What a command acts on -/

/-- The polder that a command acts on, where it acts on one polder alone: no pin, rail, part of the Warden, link or flash of PF4. -/
def Instr.actsOn : Instr → Option Ix4
  | .charterZeroFillDone p | .charterSfdpRead p _ | .charterHeaderRead p _ | .charterBodyRead p _ | .hbmTrainingDone p |
    .hbmTrainingTimeout p | .hbmZeroFillDone p | .joinDelayExpiry p _ | .joinSlow p | .relockRequest p | .lockDeclared p |
    .dividerRelease p | .lockRetry p | .refLost p | .coastLong p | .refReacquired p _ | .millDivWrite p _ _ | .dividerStep p |
    .clkTestWrite p _ _ | .hbmPllUnlock p _ | .sluicePllUnlock p _ | .doze p | .wake p | .doorbell p _ _ | .waybillRead p |
    .admission p | .preload p | .codeLoadDone p _ | .timeout p _ | .nop p _ | .dup p _ | .drop p _ | .swap p _ | .over p _ | .rot p _ |
    .nip p _ | .tuck p _ | .pick p _ | .roll p _ | .twoDup p _ | .twoDrop p _ | .twoSwap p _ | .depth p _ | .dropn p _ | .clear p _ |
    .add p _ | .sub p _ | .mul p _ | .mulhu p _ | .mulhs p _ | .divu p _ | .divs p _ | .remu p _ | .rems p _ | .neg p _ | .abs p _ |
    .mins p _ | .maxs p _ | .minu p _ | .maxu p _ | .addi8 p _ _ | .andOp p _ | .orOp p _ | .xorOp p _ | .notOp p _ | .shl p _ |
    .shru p _ | .shrs p _ | .rotl p _ | .clz p _ | .ctz p _ | .popc p _ | .sext p _ | .zext p _ | .bext p _ | .bins p _ | .alignup p _ |
    .eq p _ | .ne p _ | .lts p _ | .ltu p _ | .les p _ | .leu p _ | .eqz p _ | .select p _ | .br p _ _ | .bz p _ _ | .bnz p _ _ |
    .br8 p _ _ | .bz8 p _ _ | .bnz8 p _ _ | .djnz p _ _ | .jmp p _ | .ld64 p _ | .ld32u p _ | .ld32s p _ | .ld16u p _ | .ld16s p _ |
    .ld8u p _ | .ld8s p _ | .st64 p _ | .st32 p _ | .st16 p _ | .st8 p _ | .ldp64 p _ | .stp64 p _ | .fencest p _ | .cadd p _ |
    .cswap p _ | .lit8 p _ _ | .lit16 p _ _ | .lit32 p _ _ | .lit64 p _ _ | .lit8u p _ _ | .lit16u p _ _ | .lit32u p _ _ | .zero p _ |
    .one p _ | .minus1 p _ | .litpc p _ | .call p _ _ | .calll p _ _ | .calli p _ | .ret p _ | .toR p _ | .rFrom p _ | .rFetch p _ |
    .rdepth p _ | .jmpl p _ _ | .tread p _ | .twrite p _ _ | .tadd p _ | .waitt p _ | .waitt8 p _ _ | .idle8 p _ _ | .idle16 p _ _ |
    .idle p _ | .tarm p _ | .shld p _ | .shst p _ | .shget p _ | .shset p _ | .shbase p _ | .shaddb p _ | .shclr p _ | .shcopy p _ |
    .endOp p _ _ | .yieldOp p _ | .ei p _ | .di p _ | .setiv p _ | .reti p _ | .imask p _ | .ipend p _ | .trap p _ _ | .tide p _ |
    .berth p _ | .mc p _ | .signal p _ | .bmove p _ _ | .bfill p _ _ | .crc32c p _ _ | .reservedOpcode p _ _ | .interruptEntry p _ |
    .berthPoke p _ _ _ | .berthSignalRead p _ _ _ | .mm p _ _ | .mmo p _ _ | .ldw p _ _ | .ldwt p _ _ | .post p _ _ | .redSum p _ _ |
    .redMax p _ _ | .redMin p _ _ | .mov p _ _ | .turn p _ _ | .copyReport p _ _ _ | .put p _ _ | .mput p _ _ | .rput p _ _ |
    .xferStart p _ | .xferReport p _ _ _ | .gleanSum p _ _ | .gleanMean p _ _ | .gleanMax p _ _ | .wsum p _ _ | .gather p _ _ |
    .warm p _ _ | .assign p _ _ | .gleanAdd p _ _ | .axpy p _ _ | .gleanReport p _ _ _ | .committingDone p | .append p _ _ |
    .attend p _ _ | .backward p _ _ | .ledgOpen p _ _ | .ledgClose p _ _ | .ledgFetch p _ _ | .ledgReport p _ _ _ | .pagewait p |
    .swapoutPage p _ _ | .swapinPage p _ _ | .maintenanceAccess p _ _ _ _ | .granScrubTakeover p _ _ | .patrolRead p _ _ |
    .scrubForced p _ _ | .hbmTelemetryRead p _ | .hbmParity p _ _ | .frameReceive p _ _ | .beacon p _ | .slewEnd p | .request p _ |
    .echo p _ _ | .backoffExpiry p _ | .beaconSend p _ _ | .candidate p _ | .candidateBeacon p _ _ | .masterEchoFail p _ |
    .portRemove p _ _ | .silent p _ | .cellSend p _ _ | .calDue p _ _ _ | .calForced p _ _ _ | .slDemandWrite p _ _ _ | .data p _ |
    .urgent p _ | .ack p _ | .retransmit p _ _ | .reduceDrop p _ | .glreq p _ | .glrow p _ | .glupd p _ | .harbDoorbell p _ _ |
    .harbRetx p _ | .cboClean p _ _ | .cboFlush p _ _ | .cboInval p _ _ | .fence p _ _ _ | .tideCsr p _ _ | .basinns p _ _ |
    .clerkStart p _ _ | .plicClaim p _ _ | .plicComplete p _ _ _ | .mtimecmp p _ _ | .msip p _ _ _ | .bar2Access p _ |
    .registerWrite p _ _ | .authChallenge p _ _ | .authResponse p _ | .nonceExpiry p _ | .lockoutEnd p _ | .status p _ | .read p _ |
    .write p _ | .haltBerth p _ | .berthHalted p _ | .haltStalled p _ | .haltHart p _ | .tideFreeze p _ | .resumeBerth p _ |
    .resumeHart p _ | .tideFreezeEnd p _ | .feed p _ | .step p _ | .release p _ | .traceConfig p _ | .traceRead p _ | .traceClear p _ |
    .mark p _ _ | .sluicePllRelock p _ | .hbmRetrainDone p _ _ | .hartLoadStoreAmo p _ _ => some p
  | .powerOn | .wardenCharterLoad _ | .perstAssert | .perstDeassert | .polderRelease | .railfault _ | .rawWindowEnd | .thermtrip |
    .flr _ | .pf4Flr | .whReset _ _ _ | .wardenEpoch _ | .overbudget | .vrHot | .vrHotRelease | .vrAlert | .statusWord _ _ |
    .readIout _ | .readTemperature1 _ | .calLost | .wardenWrite _ _ _ _ | .tideBoundary _ _ | .slack _ _ | .linkDown |
    .msixPendingSend _ _ | .charterWriteBegin _ _ | .charterWriteVerify _ _ | .charterWriteCheck _ _ | .charterWriteProgram _ _ _ |
    .charterWriteFinish _ _ _ _ | .railInRange _ | .pcieRefclkReturn | .linkUp _ _ _ | .configWrite _ _ => none

/-- The berth that issues a command, where the command is an instruction of a berth. -/
def Instr.issuedBy : Instr → Option (Ix4 × Ix4)
  | .nop p b | .dup p b | .drop p b | .swap p b | .over p b | .rot p b | .nip p b | .tuck p b | .pick p b | .roll p b | .twoDup p b |
    .twoDrop p b | .twoSwap p b | .depth p b | .dropn p b | .clear p b | .add p b | .sub p b | .mul p b | .mulhu p b | .mulhs p b |
    .divu p b | .divs p b | .remu p b | .rems p b | .neg p b | .abs p b | .mins p b | .maxs p b | .minu p b | .maxu p b | .addi8 p b _ |
    .andOp p b | .orOp p b | .xorOp p b | .notOp p b | .shl p b | .shru p b | .shrs p b | .rotl p b | .clz p b | .ctz p b | .popc p b |
    .sext p b | .zext p b | .bext p b | .bins p b | .alignup p b | .eq p b | .ne p b | .lts p b | .ltu p b | .les p b | .leu p b |
    .eqz p b | .select p b | .br p b _ | .bz p b _ | .bnz p b _ | .br8 p b _ | .bz8 p b _ | .bnz8 p b _ | .djnz p b _ | .jmp p b |
    .ld64 p b | .ld32u p b | .ld32s p b | .ld16u p b | .ld16s p b | .ld8u p b | .ld8s p b | .st64 p b | .st32 p b | .st16 p b |
    .st8 p b | .ldp64 p b | .stp64 p b | .fencest p b | .cadd p b | .cswap p b | .lit8 p b _ | .lit16 p b _ | .lit32 p b _ |
    .lit64 p b _ | .lit8u p b _ | .lit16u p b _ | .lit32u p b _ | .zero p b | .one p b | .minus1 p b | .litpc p b | .call p b _ |
    .calll p b _ | .calli p b | .ret p b | .toR p b | .rFrom p b | .rFetch p b | .rdepth p b | .jmpl p b _ | .tread p b |
    .twrite p b _ | .tadd p b | .waitt p b | .waitt8 p b _ | .idle8 p b _ | .idle16 p b _ | .idle p b | .tarm p b | .shld p b |
    .shst p b | .shget p b | .shset p b | .shbase p b | .shaddb p b | .shclr p b | .shcopy p b | .endOp p b _ | .yieldOp p b | .ei p b |
    .di p b | .setiv p b | .reti p b | .imask p b | .ipend p b | .trap p b _ | .tide p b | .berth p b | .mc p b | .signal p b |
    .bmove p b _ | .bfill p b _ | .crc32c p b _ | .reservedOpcode p b _ | .mm p b _ | .mmo p b _ | .ldw p b _ |
    .ldwt p b _ | .post p b _ | .redSum p b _ | .redMax p b _ | .redMin p b _ | .mov p b _ | .turn p b _ | .put p b _ | .mput p b _ |
    .rput p b _ | .gleanSum p b _ | .gleanMean p b _ | .gleanMax p b _ | .wsum p b _ | .gather p b _ | .warm p b _ | .assign p b _ |
    .gleanAdd p b _ | .axpy p b _ | .append p b _ | .attend p b _ | .backward p b _ | .ledgOpen p b _ | .ledgClose p b _ |
    .ledgFetch p b _ => some (p, b)
  | .powerOn | .wardenCharterLoad _ | .perstAssert | .perstDeassert | .polderRelease | .railfault _ | .rawWindowEnd | .thermtrip |
    .flr _ | .pf4Flr | .whReset _ _ _ | .charterZeroFillDone _ | .charterSfdpRead _ _ | .charterHeaderRead _ _ | .charterBodyRead _ _ |
    .hbmTrainingDone _ | .hbmTrainingTimeout _ | .hbmZeroFillDone _ | .joinDelayExpiry _ _ | .joinSlow _ | .relockRequest _ |
    .lockDeclared _ | .dividerRelease _ | .lockRetry _ | .refLost _ | .coastLong _ | .refReacquired _ _ | .millDivWrite _ _ _ |
    .dividerStep _ | .clkTestWrite _ _ _ | .hbmPllUnlock _ _ | .sluicePllUnlock _ _ | .wardenEpoch _ | .overbudget | .vrHot |
    .vrHotRelease | .vrAlert | .statusWord _ _ | .readIout _ | .readTemperature1 _ | .calLost | .wardenWrite _ _ _ _ | .doze _ |
    .wake _ | .tideBoundary _ _ | .slack _ _ | .doorbell _ _ _ | .waybillRead _ | .admission _ | .preload _ | .codeLoadDone _ _ |
    .timeout _ _ | .interruptEntry _ _ | .berthPoke _ _ _ _ | .berthSignalRead _ _ _ _ | .copyReport _ _ _ _ | .xferStart _ _ | .xferReport _ _ _ _ |
    .gleanReport _ _ _ _ | .committingDone _ | .ledgReport _ _ _ _ | .pagewait _ | .swapoutPage _ _ _ | .swapinPage _ _ _ |
    .maintenanceAccess _ _ _ _ _ | .granScrubTakeover _ _ _ | .patrolRead _ _ _ | .scrubForced _ _ _ | .hbmTelemetryRead _ _ |
    .hbmParity _ _ _ | .frameReceive _ _ _ | .beacon _ _ | .slewEnd _ | .request _ _ | .echo _ _ _ | .backoffExpiry _ _ |
    .beaconSend _ _ _ | .candidate _ _ | .candidateBeacon _ _ _ | .masterEchoFail _ _ | .portRemove _ _ _ | .silent _ _ |
    .cellSend _ _ _ | .calDue _ _ _ _ | .calForced _ _ _ _ | .slDemandWrite _ _ _ _ | .data _ _ | .urgent _ _ | .ack _ _ |
    .retransmit _ _ _ | .reduceDrop _ _ | .glreq _ _ | .glrow _ _ | .glupd _ _ | .harbDoorbell _ _ _ | .harbRetx _ _ | .cboClean _ _ _ |
    .cboFlush _ _ _ | .cboInval _ _ _ | .fence _ _ _ _ | .tideCsr _ _ _ | .basinns _ _ _ | .clerkStart _ _ _ | .plicClaim _ _ _ |
    .plicComplete _ _ _ _ | .mtimecmp _ _ _ | .msip _ _ _ _ | .bar2Access _ _ | .linkDown | .msixPendingSend _ _ |
    .registerWrite _ _ _ | .authChallenge _ _ _ | .authResponse _ _ | .nonceExpiry _ _ | .lockoutEnd _ _ | .status _ _ | .read _ _ |
    .write _ _ | .haltBerth _ _ | .berthHalted _ _ | .haltStalled _ _ | .haltHart _ _ | .tideFreeze _ _ | .resumeBerth _ _ |
    .resumeHart _ _ | .tideFreezeEnd _ _ | .feed _ _ | .step _ _ | .release _ _ | .traceConfig _ _ | .traceRead _ _ | .traceClear _ _ |
    .charterWriteBegin _ _ | .charterWriteVerify _ _ | .charterWriteCheck _ _ | .charterWriteProgram _ _ _ |
    .charterWriteFinish _ _ _ _ | .mark _ _ _ | .railInRange _ | .pcieRefclkReturn | .sluicePllRelock _ _ | .hbmRetrainDone _ _ _ |
    .linkUp _ _ _ | .configWrite _ _ | .hartLoadStoreAmo _ _ _ => none

end Sys2Proof
end

