-- ==== Sys2Proof/Certificates/Slice0/Obligations.lean ====
section
/-!
DEFINITION. Certificates/Slice0/Obligations.lean: the statements for the provers. Each docstring names the rules it formalises.
-/
namespace Sys2Proof.Machine

/-! ## Short instructions -/

/-- R229, the stack group's instructions that move cells: a pending cell moves as it is (R226). Cells are written top first. -/
def Claim.StackMoves : Prop :=
  ∀ (s : State) (p b : Ix4) (w x y z : Slot) (rest : List Slot), Ready s p b 1 →
    (∀ e ∈ [(Instr.drop p b, [z], []), (.swap p b, [z, y], [y, z]), (.rot p b, [z, y, x], [x, z, y]),
        (.nip p b, [z, y], [z]), (.twoDrop p b, [z, y], []), (.twoSwap p b, [z, y, x, w], [x, w, z, y]),
        (.depth p b, [], [Slot.mk (cell rest.length) 0])],
      (s.bth p b).stack = e.2.1 ++ rest → e.2.2.length + rest.length ≤ 2080 →
        ∃ t, exec e.1 s = .next t ∧ Retires s t p b 1 { (s.bth p b).past 1 with stack := e.2.2 ++ rest }) ∧
    ∃ t, exec (.clear p b) s = .next t ∧ Retires s t p b 1 { (s.bth p b).past 1 with stack := [] }

/-- R229 and R231, the stack group's instructions that copy a cell or read their operand: the cells they read have landed (R226). -/
def Claim.StackCopies : Prop :=
  ∀ (s : State) (p b : Ix4) (y z : Slot) (rest : List Slot), Ready s p b 1 →
    y.lands ≤ (s.bth p b).mc → z.lands ≤ (s.bth p b).mc →
    (∀ e ∈ [(Instr.dup p b, [z], [Slot.mk z.val 0, z]), (.over p b, [z, y], [Slot.mk y.val 0, z, y]),
        (.tuck p b, [z, y], [z, y, Slot.mk z.val 0]), (.twoDup p b, [z, y], [Slot.mk z.val 0, Slot.mk y.val 0, z, y])],
      (s.bth p b).stack = e.2.1 ++ rest → e.2.2.length + rest.length ≤ 2080 →
        ∃ t, exec e.1 s = .next t ∧ Retires s t p b 1 { (s.bth p b).past 1 with stack := e.2.2 ++ rest }) ∧
    ((s.bth p b).stack = z :: rest → 1 + rest.length ≤ 2080 →
      (∀ c, rest[z.val.toNat]? = some c → z.val.toNat ≤ 30 →
        (c.lands ≤ (s.bth p b).mc →
          ∃ t, exec (.pick p b) s = .next t ∧
            Retires s t p b 1 { (s.bth p b).past 1 with stack := Slot.mk c.val 0 :: rest }) ∧
        ∃ t, exec (.roll p b) s = .next t ∧
          Retires s t p b 1 { (s.bth p b).past 1 with stack := c :: rest.eraseIdx z.val.toNat }) ∧
      (z.val.toNat ≤ rest.length →
        ∃ t, exec (.dropn p b) s = .next t ∧
          Retires s t p b 1 { (s.bth p b).past 1 with stack := rest.drop z.val.toNat }))

/-- R221 and R229, the arithmetic of one and two cells, each result as the table gives it; R230's cases of division by zero. -/
def Claim.ArithmeticResults : Prop :=
  ∀ (s : State) (p b : Ix4) (a c : Cell) (imm : BitVec 8) (rest : List Slot), 1 + rest.length ≤ 2080 →
    (Ready s p b 1 → Holds (s.bth p b) [a, c] rest →
      ∀ e ∈ [(Instr.add p b, BitVec.ofNat 64 (a.toNat + c.toNat), 1), (.sub p b, BitVec.ofInt 64 (a.toNat - c.toNat), 1),
          (.mul p b, BitVec.ofNat 64 (a.toNat * c.toNat), 3), (.mulhu p b, BitVec.ofNat 64 (a.toNat * c.toNat / 2 ^ 64), 3),
          (.mulhs p b, BitVec.ofInt 64 (a.toInt * c.toInt / 2 ^ 64), 3),
          (.divu p b, if c = 0 then BitVec.allOnes 64 else BitVec.ofNat 64 (a.toNat / c.toNat), 24),
          (.divs p b, if c = 0 then BitVec.ofInt 64 (-1) else BitVec.ofInt 64 (a.toInt.tdiv c.toInt), 24),
          (.remu p b, if c = 0 then a else BitVec.ofNat 64 (a.toNat % c.toNat), 24),
          (.rems p b, if c = 0 then a else BitVec.ofInt 64 (a.toInt.tmod c.toInt), 24),
          (.mins p b, BitVec.ofInt 64 (min a.toInt c.toInt), 1), (.maxs p b, BitVec.ofInt 64 (max a.toInt c.toInt), 1),
          (.minu p b, BitVec.ofNat 64 (min a.toNat c.toNat), 1), (.maxu p b, BitVec.ofNat 64 (max a.toNat c.toNat), 1)],
        ∃ t, exec e.1 s = .next t ∧ Retires s t p b e.2.2 { (s.bth p b).past 1 with stack := Slot.mk e.2.1 0 :: rest }) ∧
    (Ready s p b 1 → Holds (s.bth p b) [c] rest →
      ∀ e ∈ [(Instr.neg p b, BitVec.ofInt 64 (-c.toInt)), (.abs p b, BitVec.ofInt 64 (if c.toInt < 0 then -c.toInt else c.toInt))],
        ∃ t, exec e.1 s = .next t ∧ Retires s t p b 1 { (s.bth p b).past 1 with stack := Slot.mk e.2 0 :: rest }) ∧
    (Ready s p b 2 → Holds (s.bth p b) [c] rest →
      ∃ t, exec (.addi8 p b imm) s = .next t ∧
        Retires s t p b 1 { (s.bth p b).past 2 with stack := Slot.mk (BitVec.ofInt 64 (c.toInt + imm.toInt)) 0 :: rest })

/-- R229 and R230, the logic group bit by bit: bit `i` of each result. `n` counts modulo 64. -/
def Claim.LogicBits : Prop :=
  ∀ (s : State) (p b : Ix4) (a c : Cell) (rest : List Slot), 1 + rest.length ≤ 2080 → Ready s p b 1 →
    (Holds (s.bth p b) [a, c] rest →
      ∀ e ∈ [(Instr.andOp p b, fun i => a.getLsbD i && c.getLsbD i), (.orOp p b, fun i => a.getLsbD i || c.getLsbD i),
          (.xorOp p b, fun i => Bool.xor (a.getLsbD i) (c.getLsbD i)),
          (.shl p b, fun i => decide (c.toNat % 64 ≤ i) && a.getLsbD (i - c.toNat % 64)),
          (.shru p b, fun i => a.getLsbD (i + c.toNat % 64)),
          (.shrs p b, fun i => if i + c.toNat % 64 < 64 then a.getLsbD (i + c.toNat % 64) else a.getLsbD 63),
          (.rotl p b, fun i => a.getLsbD ((i + 64 - c.toNat % 64) % 64)),
          (.zext p b, fun i => decide (i < if c.toNat % 64 = 0 then 64 else c.toNat % 64) && a.getLsbD i),
          (.sext p b, fun i => a.getLsbD (min i ((if c.toNat % 64 = 0 then 64 else c.toNat % 64) - 1)))],
        ∃ t v, exec e.1 s = .next t ∧ Retires s t p b 1 { (s.bth p b).past 1 with stack := Slot.mk v 0 :: rest } ∧
          ∀ i < 64, v.getLsbD i = e.2 i) ∧
    (Holds (s.bth p b) [c] rest →
      ∃ t v, exec (.notOp p b) s = .next t ∧ Retires s t p b 1 { (s.bth p b).past 1 with stack := Slot.mk v 0 :: rest } ∧
        ∀ i < 64, v.getLsbD i = !c.getLsbD i)

/-- R230, the bit fields, w from 1 to 64: bits at or above position 64 read as 0 and are not written. -/
def Claim.BitFields : Prop :=
  ∀ (s : State) (p b : Ix4) (a c lo w : Cell) (rest : List Slot), 1 + rest.length ≤ 2080 → Ready s p b 1 →
    1 ≤ w.toNat → w.toNat ≤ 64 →
    (Holds (s.bth p b) [a, lo, w] rest →
      ∃ t v, exec (.bext p b) s = .next t ∧ Retires s t p b 1 { (s.bth p b).past 1 with stack := Slot.mk v 0 :: rest } ∧
        ∀ i < 64, v.getLsbD i = (decide (i < w.toNat) && a.getLsbD (i + lo.toNat))) ∧
    (Holds (s.bth p b) [a, c, lo, w] rest →
      ∃ t v, exec (.bins p b) s = .next t ∧ Retires s t p b 1 { (s.bth p b).past 1 with stack := Slot.mk v 0 :: rest } ∧
        ∀ i < 64, v.getLsbD i =
          if lo.toNat ≤ i ∧ i < lo.toNat + w.toNat then c.getLsbD (i - lo.toNat) else a.getLsbD i)

/-- R229, counting bits and rounding up: CLZ and CTZ count the bits beyond the extreme one, 64 for zero, POPC the bits that are set, and
ALIGNUP gives the least multiple of 2^k from a up, modulo 2^64. -/
def Claim.BitCounts : Prop :=
  ∀ (s : State) (p b : Ix4) (a k : Cell) (rest : List Slot), 1 + rest.length ≤ 2080 → Ready s p b 1 →
    (Holds (s.bth p b) [a] rest →
      (∃ t n, exec (.clz p b) s = .next t ∧
        Retires s t p b 1 { (s.bth p b).past 1 with stack := Slot.mk (BitVec.ofNat 64 n) 0 :: rest } ∧
        n ≤ 64 ∧ a.toNat < 2 ^ (64 - n) ∧ (n < 64 → a.getLsbD (63 - n) = true)) ∧
      (∃ t n, exec (.ctz p b) s = .next t ∧
        Retires s t p b 1 { (s.bth p b).past 1 with stack := Slot.mk (BitVec.ofNat 64 n) 0 :: rest } ∧
        n ≤ 64 ∧ a.toNat % 2 ^ n = 0 ∧ (n < 64 → a.getLsbD n = true)) ∧
      (∃ t, exec (.popc p b) s = .next t ∧
        Retires s t p b 1 { (s.bth p b).past 1 with
          stack := Slot.mk (BitVec.ofNat 64 ((List.range 64).countP (a.getLsbD ·))) 0 :: rest })) ∧
    (Holds (s.bth p b) [a, k] rest → k.toNat ≤ 63 →
      ∃ t m, exec (.alignup p b) s = .next t ∧
        Retires s t p b 1 { (s.bth p b).past 1 with stack := Slot.mk (BitVec.ofNat 64 m) 0 :: rest } ∧
        a.toNat ≤ m ∧ m < a.toNat + 2 ^ k.toNat ∧ m % 2 ^ k.toNat = 0)

/-- R221 and R229, the comparisons push 1 for true and 0 for false; SELECT takes a where the flag is not 0. -/
def Claim.Comparisons : Prop :=
  ∀ (s : State) (p b : Ix4) (a c f : Cell) (rest : List Slot), 1 + rest.length ≤ 2080 → Ready s p b 1 →
    (Holds (s.bth p b) [a, c] rest →
      ∀ e ∈ [(Instr.eq p b, decide (a = c)), (.ne p b, decide (a ≠ c)), (.lts p b, decide (a.toInt < c.toInt)),
          (.ltu p b, decide (a.toNat < c.toNat)), (.les p b, decide (a.toInt ≤ c.toInt)), (.leu p b, decide (a.toNat ≤ c.toNat))],
        ∃ t, exec e.1 s = .next t ∧
          Retires s t p b 1 { (s.bth p b).past 1 with stack := Slot.mk (if e.2 then 1 else 0) 0 :: rest }) ∧
    (Holds (s.bth p b) [c] rest →
      ∃ t, exec (.eqz p b) s = .next t ∧
        Retires s t p b 1 { (s.bth p b).past 1 with stack := Slot.mk (if c = 0 then 1 else 0) 0 :: rest }) ∧
    (Holds (s.bth p b) [a, c, f] rest →
      ∃ t, exec (.select p b) s = .next t ∧
        Retires s t p b 1 { (s.bth p b).past 1 with stack := Slot.mk (if f = 0 then c else a) 0 :: rest })

/-- R223 and R229, branches and jumps: a taken one goes to its target, which is in no body, in 2 mc, one not taken goes on in 1. -/
def Claim.Branches : Prop :=
  ∀ (s : State) (p b : Ix4) (c : Cell) (i8 : BitVec 8) (i16 : BitVec 16) (i24 : BitVec 24) (rest : List Slot),
    let x := s.bth p b
    (∀ e ∈ [(Instr.br p b i16, 3, i16.toInt), (.br8 p b i8, 2, i8.toInt), (.jmpl p b i24, 4, i24.toInt)],
      Ready s p b e.2.1 → x.Outside (x.target e.2.1 e.2.2).pc →
        ∃ t, exec e.1 s = .next t ∧ Retires s t p b 2 (x.target e.2.1 e.2.2)) ∧
    (rest.length ≤ 2080 → Holds x [c] rest →
      (∀ e ∈ [(Instr.bz p b i16, 3, i16.toInt, decide (c = 0)), (.bnz p b i16, 3, i16.toInt, decide (c ≠ 0)),
          (.bz8 p b i8, 2, i8.toInt, decide (c = 0)), (.bnz8 p b i8, 2, i8.toInt, decide (c ≠ 0))],
        Ready s p b e.2.1 →
          (e.2.2.2 = true → x.Outside (x.target e.2.1 e.2.2.1).pc →
            ∃ t, exec e.1 s = .next t ∧ Retires s t p b 2 ((x.target e.2.1 e.2.2.1).holding rest)) ∧
          (e.2.2.2 = false → ∃ t, exec e.1 s = .next t ∧ Retires s t p b 1 ((x.past e.2.1).holding rest))) ∧
      (Ready s p b 1 → x.Outside c.toNat →
        ∃ t, exec (.jmp p b) s = .next t ∧ Retires s t p b 2 { x with pc := c.toNat % 2 ^ 17, stack := rest })) ∧
    (rest.length < 2080 → Holds x [c] rest → Ready s p b 3 →
      (c = 1 → ∃ t, exec (.djnz p b i16) s = .next t ∧ Retires s t p b 1 ((x.past 3).holding rest)) ∧
      (c ≠ 1 → x.Outside (x.target 3 i16.toInt).pc →
        ∃ t, exec (.djnz p b i16) s = .next t ∧
          Retires s t p b 2 ((x.target 3 i16.toInt).holding (Slot.mk (c - 1) 0 :: rest))))

/-- R226, R229 and R232, calls and returns: the return cell holds the offset of the next instruction, IE in bit 62 and 0 in bit 63; >R and
R> move a cell as it is. -/
def Claim.CallsAndReturns : Prop :=
  ∀ (s : State) (p b : Ix4) (c : Cell) (z r : Slot) (i16 : BitVec 16) (i24 : BitVec 24) (rest rs : List Slot),
    let x := s.bth p b
    let back (n : Nat) : Slot := Slot.mk (BitVec.ofNat 64 ((x.pc + n) % 2 ^ 17 + (if x.ie then 2 ^ 62 else 0))) 0
    (x.rstack.length < 544 →
      (∀ e ∈ [(Instr.call p b i16, 3, i16.toInt), (.calll p b i24, 4, i24.toInt)], Ready s p b e.2.1 →
        x.Outside (x.target e.2.1 e.2.2).pc →
          ∃ t, exec e.1 s = .next t ∧
            Retires s t p b 2 { x.target e.2.1 e.2.2 with rstack := back e.2.1 :: x.rstack }) ∧
      (Ready s p b 1 → Holds x [c] rest → rest.length ≤ 2080 → x.Outside c.toNat →
        ∃ t, exec (.calli p b) s = .next t ∧
          Retires s t p b 2 { x with pc := c.toNat % 2 ^ 17, stack := rest, rstack := back 1 :: x.rstack }) ∧
      (Ready s p b 1 → x.stack = z :: rest → rest.length ≤ 2080 →
        ∃ t, exec (.toR p b) s = .next t ∧
          Retires s t p b 1 { x.past 1 with stack := rest, rstack := z :: x.rstack })) ∧
    (Ready s p b 1 → x.rstack = r :: rs →
      (r.lands ≤ x.mc → r.val.getLsbD 63 = false →
        ∃ t, exec (.ret p b) s = .next t ∧ Retires s t p b 2 { x with pc := r.val.toNat % 2 ^ 17, rstack := rs }) ∧
      (r.lands ≤ x.mc → r.val.getLsbD 63 = true →
        ∃ t, exec (.reti p b) s = .next t ∧
          Retires s t p b 2 { x with pc := r.val.toNat % 2 ^ 17, rstack := rs, ie := r.val.getLsbD 62 }) ∧
      (x.stack.length < 2080 →
        (∃ t, exec (.rFrom p b) s = .next t ∧
          Retires s t p b 1 { x.past 1 with stack := r :: x.stack, rstack := rs }) ∧
        (r.lands ≤ x.mc →
          ∃ t, exec (.rFetch p b) s = .next t ∧ Retires s t p b 1 ((x.past 1).holding (Slot.mk r.val 0 :: x.stack)))))

/-- R229, what only pushes a value: literals, depths, and the system group's reads; and NOP, the idles and FENCEST, which push
nothing. -/
def Claim.PushesAndIdles : Prop :=
  ∀ (s : State) (p b : Ix4) (i8 : BitVec 8) (i16 : BitVec 16) (i32 : BitVec 32) (i64 : BitVec 64) (c : Cell) (r : Run)
      (rest : List Slot),
    let x := s.bth p b
    (x.run = some r → x.stack.length < 2080 →
      ∀ e ∈ [(Instr.lit8 p b i8, 2, BitVec.ofInt 64 i8.toInt), (.lit16 p b i16, 3, BitVec.ofInt 64 i16.toInt),
          (.lit32 p b i32, 5, BitVec.ofInt 64 i32.toInt), (.lit64 p b i64, 9, i64), (.lit8u p b i8, 2, BitVec.ofNat 64 i8.toNat),
          (.lit16u p b i16, 3, BitVec.ofNat 64 i16.toNat), (.lit32u p b i32, 5, BitVec.ofNat 64 i32.toNat),
          (.zero p b, 1, 0), (.one p b, 1, 1), (.minus1 p b, 1, BitVec.allOnes 64),
          (.litpc p b, 1, BitVec.ofNat 64 ((x.pc + 1) % 2 ^ 17)), (.rdepth p b, 1, BitVec.ofNat 64 x.rstack.length),
          (.ipend p b, 1, BitVec.ofNat 64 x.pend.toNat), (.tide p b, 1, BitVec.ofNat 64 (s.pol p).wharf.tide),
          (.mc p b, 1, BitVec.ofNat 64 x.mc),
          (.berth p b, 1, BitVec.ofNat 64 (b.toNat + 2 ^ 8 * r.base + 2 ^ 16 * r.wb.size.toNat))],
        Ready s p b e.2.1 →
          ∃ t, exec e.1 s = .next t ∧ Retires s t p b 1 ((x.past e.2.1).holding (Slot.mk e.2.2 0 :: x.stack))) ∧
    (∀ e ∈ [(Instr.nop p b, 1, 1), (.idle8 p b i8, 2, i8.toNat + 1), (.idle16 p b i16, 3, i16.toNat + 1)],
      Ready s p b e.2.1 → ∃ t, exec e.1 s = .next t ∧ Retires s t p b e.2.2 (x.past e.2.1)) ∧
    (Ready s p b 1 → Holds x [c] rest → rest.length ≤ 2080 →
      ∃ t, exec (.idle p b) s = .next t ∧ Retires s t p b (max 1 c.toNat) ((x.past 1).holding rest)) ∧
    (Ready s p b 1 →
      ∃ t n, exec (.fencest p b) s = .next t ∧ Retires s t p b (1 + n) (x.past 1) ∧
        (∀ f ∈ x.flights, f.write = true → f.short = true → f.at_ ≤ x.mc + n) ∧
        (n = 0 ∨ ∃ f ∈ x.flights, f.write = true ∧ f.short = true ∧ f.at_ = x.mc + n))

/-- R229, R242 and R246, the system group's writes of interrupt state, and YIELD, which leaves the berth yielded. -/
def Claim.InterruptState : Prop :=
  ∀ (s : State) (p b : Ix4) (c : Cell) (rest : List Slot), Ready s p b 1 →
    let x := s.bth p b
    (∀ e ∈ [(Instr.ei p b, { x.past 1 with ie := true }), (.di p b, { x.past 1 with ie := false }),
        (.yieldOp p b, { x.past 1 with phase := .yielded })],
      ∃ t, exec e.1 s = .next t ∧ Retires s t p b 1 e.2) ∧
    (Holds x [c] rest → rest.length ≤ 2080 →
      ∀ e ∈ [(Instr.setiv p b, { x.past 1 with stack := rest, ivbase := c.toNat % 2 ^ 17 - c.toNat % 16 }),
          (.imask p b, { x.past 1 with stack := rest, mask := BitVec.ofNat 4 c.toNat })],
        ∃ t, exec e.1 s = .next t ∧ Retires s t p b 1 e.2)

/-- R226 and R229, aligned loads: the pushed cell holds the extended value and lands L mc later; LDP64 leaves a + 8 above it. -/
def Claim.LoadResults : Prop :=
  ∀ (s : State) (p b : Ix4) (c : Cell) (rest : List Slot), MemReady s p b 1 → Holds (s.bth p b) [c] rest →
    let x := s.bth p b
    let a := c.toNat % 2 ^ 48
    let lands := x.mc + (s.pol p).pathL a
    let mem (n : Nat) : Nat := (s.pol p).mem.readNat a n
    (∀ e ∈ [(Instr.ld64 p b, 8, BitVec.ofNat 64 (mem 8)), (.ld32u p b, 4, BitVec.ofNat 64 (mem 4)),
        (.ld32s p b, 4, BitVec.ofInt 64 (BitVec.ofNat 32 (mem 4)).toInt), (.ld16u p b, 2, BitVec.ofNat 64 (mem 2)),
        (.ld16s p b, 2, BitVec.ofInt 64 (BitVec.ofNat 16 (mem 2)).toInt), (.ld8u p b, 1, BitVec.ofNat 64 (mem 1)),
        (.ld8s p b, 1, BitVec.ofInt 64 (BitVec.ofNat 8 (mem 1)).toInt)],
      a % e.2.1 = 0 → ShortPasses s p b a e.2.1 false → x.storePending a e.2.1 = false → rest.length < 2080 →
        ∃ t, exec e.1 s = .next t ∧ Retires s t p b 1 (((x.past 1).holding (Slot.mk e.2.2 lands :: rest)).landing lands)) ∧
    (a % 8 = 0 → ShortPasses s p b a 8 false → x.storePending a 8 = false → rest.length < 2079 →
      ∃ t, exec (.ldp64 p b) s = .next t ∧
        Retires s t p b 1 (((x.past 1).holding
          (Slot.mk (c + 8) 0 :: Slot.mk (BitVec.ofNat 64 (mem 8)) lands :: rest)).landing lands))

/-- R227 and R229, aligned stores: the low bytes of the cell fly to memory and land there L mc after issue. -/
def Claim.StoreResults : Prop :=
  ∀ (s : State) (p b : Ix4) (v c : Cell) (rest : List Slot), MemReady s p b 1 → Holds (s.bth p b) [v, c] rest →
    rest.length < 2080 →
    let x := s.bth p b
    let a := c.toNat % 2 ^ 48
    ∀ e ∈ [(Instr.st64 p b, 8, rest), (.st32 p b, 4, rest), (.st16 p b, 2, rest), (.st8 p b, 1, rest),
        (.stp64 p b, 8, Slot.mk (c + 8) 0 :: rest)],
      a % e.2.1 = 0 → ShortPasses s p b a e.2.1 true → NoFlight x a e.2.1 →
        ∃ t, exec e.1 s = .next t ∧
          Retires s t p b 1
            (((x.fly (x.storing a (natLe e.2.1 v.toNat) ((s.pol p).pathL a))).past 1).holding e.2.2)

/-- R227 and R229, the landing of a store: FENCEST waits for the one in flight, whose bytes are then in memory, and no others have changed. -/
def Claim.StoreLands : Prop :=
  ∀ (s : State) (p b : Ix4) (f : Flight), Ready s p b 1 → (s.bth p b).flights = [f] → f.write = true → f.short = true →
    f.data.length = f.len → f.data ≠ [] → f.addr + f.len ≤ 0x100000000 → (s.pol p).memctl.errs = [] →
    ∃ t, exec (.fencest p b) s = .next t ∧ Stores s t p f.addr f.data ∧ (t.bth p b).flights = [] ∧
      (t.bth p b).mc = (s.bth p b).mc + 1 + (f.at_ - (s.bth p b).mc) ∧ (t.bth p b).stack = (s.bth p b).stack

/-- R227 and R229, CADD and CSWAP on an aligned Counter cell: the old value is pushed pending, and the new one is in memory for whoever
comes next. -/
def Claim.AtomicResults : Prop :=
  ∀ (s : State) (p b : Ix4) (u v c : Cell) (rest : List Slot), MemReady s p b 1 → rest.length < 2080 →
    let x := s.bth p b
    let a := c.toNat % 2 ^ 48
    let old : Cell := BitVec.ofNat 64 ((s.pol p).mem.readNat a 8)
    let y := ((x.past 1).holding (Slot.mk old (x.mc + 4) :: rest)).landing (x.mc + 4)
    0x10000000 ≤ a → a % 8 = 0 → ShortPasses s p b a 8 true → ShortPasses s p b a 8 false → x.Calm 4 → NoFlight x a 8 →
    (Holds x [v, c] rest →
      ∃ t, exec (.cadd p b) s = .next t ∧ Stores s t p a (natLe 8 (old + v).toNat) ∧
        Retires (s.onPol p (·.putMem (some b) a (natLe 8 (old + v).toNat))) t p b 1 y) ∧
    (Holds x [u, v, c] rest →
      (old = v → ∃ t, exec (.cswap p b) s = .next t ∧ Stores s t p a (natLe 8 u.toNat) ∧
        Retires (s.onPol p (·.putMem (some b) a (natLe 8 u.toNat))) t p b 1 y) ∧
      (old ≠ v → ∃ t, exec (.cswap p b) s = .next t ∧ Retires s t p b 1 y))

/-- R228, a misaligned short access: a load pushes all-ones, a store is dropped; each is logged as BADALIGN under R89, sets
BADALIGN_SEEN, and does not impound; memory stays. -/
def Claim.MisalignedShort : Prop :=
  ∀ (s : State) (p b : Ix4) (v c : Cell) (rest : List Slot), MemReady s p b 1 → (s.bth p b).Calm 1 → rest.length < 2079 →
    let q := s.pol p
    let a := c.toNat % 2 ^ 48
    let next : Slot := Slot.mk (c + 8) 0
    let logs (t : State) : Prop := (t.pol p).mem = q.mem ∧ bitOf ((t.pol p).stored (Off.berth b.toNat + 0x18)) 1 = true ∧
      (t.pol p).imp = { q.imp with logCause := 2, logMaster := b.toNat, logAddr := a } ∧
      (t.pol p).counter Off.accLogCount = (q.counter Off.accLogCount + 1) % 2 ^ 48 ∧ (t.bth p b).impounded = false
    (Holds (s.bth p b) [c] rest →
      ∀ e ∈ [(Instr.ld64 p b, 8, []), (.ld32u p b, 4, []), (.ld32s p b, 4, []), (.ld16u p b, 2, []), (.ld16s p b, 2, []),
          (.ldp64 p b, 8, [next])], a % e.2.1 ≠ 0 →
        ∃ t, exec e.1 s = .next t ∧ (t.bth p b).stack = e.2.2 ++ Slot.mk (BitVec.allOnes 64) 0 :: rest ∧ logs t) ∧
    (Holds (s.bth p b) [v, c] rest →
      ∀ e ∈ [(Instr.st64 p b, 8, []), (.st32 p b, 4, []), (.st16 p b, 2, []), (.stp64 p b, 8, [next])], a % e.2.1 ≠ 0 →
        ∃ t, exec e.1 s = .next t ∧ (t.bth p b).stack = e.2.2 ++ rest ∧ logs t)

/-- R229, R235 to R237 and R241, tallies: reading, setting and adding, with the arms that the new value reaches and the mirror. -/
def Claim.TallyResults : Prop :=
  ∀ (s : State) (p b : Ix4) (v c : Cell) (rest : List Slot), Ready s p b 1 → (s.bth p b).tallies.length = 16 → Mirrors s p b →
    let x := s.bth p b
    let k := c.toNat % 16
    (Holds x [c] rest → rest.length < 2080 →
      ∃ t, exec (.tread p b) s = .next t ∧
        Retires s t p b 1 ((x.past 1).holding (Slot.mk (BitVec.ofNat 64 (x.tallies.getD k 0).toNat) 0 :: rest))) ∧
    (Holds x [v, c] rest → rest.length ≤ 2080 →
      ∀ e ∈ [(Instr.twrite p b false, BitVec.ofNat 32 v.toNat), (.tadd p b, BitVec.ofNat 32 ((x.tallies.getD k 0).toNat + v.toNat))],
        ∃ t, exec e.1 s = .next t ∧
          Retires (s.mirrored p b k e.2.toNat) t p b 1 (((x.past 1).counting (x.tallies.set k e.2)).holding rest))

/-- R250, a TWRITE in the cycle of an increment of its tally: the tally reads as written, TALLY_LOST is set, and the increment of the
copy that was to report is gone. -/
def Claim.TallyWriteWins : Prop :=
  ∀ (s : State) (p b : Ix4) (v c : Cell) (rest : List Slot) (o : CopyOp) (os : List CopyOp), Ready s p b 1 →
    (s.bth p b).tallies.length = 16 → Mirrors s p b → Holds (s.bth p b) [v, c] rest → rest.length ≤ 2080 →
    (s.pol p).copy = o :: os → o.berth = b → o.tally.toNat = c.toNat % 16 → o.inc ≠ 0 →
    ∃ t, exec (.twrite p b true) s = .next t ∧ (t.bth p b).tallies = (s.bth p b).tallies.set (c.toNat % 16) (BitVec.ofNat 32 v.toNat) ∧
      bitOf ((t.pol p).stored (Off.berth b.toNat + 0x18)) 0 = true ∧ (t.pol p).copy.map (·.inc) = 0 :: os.map (·.inc)

/-- R236, WAITT and WAITT8: they complete at once where the tally has reached the value, and otherwise the berth waits at the same PC
with its operands on the stack. -/
def Claim.WaitResults : Prop :=
  ∀ (s : State) (p b : Ix4) (v c : Cell) (imm : BitVec 8) (rest : List Slot),
    let x := s.bth p b
    let met (k n : Nat) : Bool := decide ((x.tallies.getD k 0 - BitVec.ofNat 32 n).toNat < 2 ^ 31)
    (Ready s p b 1 → Holds x [v, c] rest → rest.length < 2079 →
      ∃ t, exec (.waitt p b) s = .next t ∧
        Retires s t p b 1 (if met (c.toNat % 16) v.toNat then (x.past 1).holding rest
          else { x with phase := .waitt (BitVec.ofNat 4 c.toNat) (BitVec.ofNat 32 v.toNat) 2 1 })) ∧
    (Ready s p b 2 →
      ∃ t, exec (.waitt8 p b imm) s = .next t ∧
        Retires s t p b 1 (if met (imm.toNat / 16) (imm.toNat % 16) then x.past 2
          else { x with phase := .waitt (BitVec.ofNat 4 (imm.toNat / 16)) (BitVec.ofNat 32 (imm.toNat % 16)) 0 2 }))

/-- R241, TARM arms the tally: an arm already reached makes TALLY pending and clears at once (the model's choice, log entry 41). -/
def Claim.ArmResult : Prop :=
  ∀ (s : State) (p b : Ix4) (v c : Cell) (rest : List Slot), Ready s p b 1 → Holds (s.bth p b) [v, c] rest → rest.length ≤ 2080 →
    let x := s.bth p b
    ∃ t, exec (.tarm p b) s = .next t ∧
      Retires s t p b 1
        ((({ x with tarm := Store.insert x.tarm (c.toNat % 16) (BitVec.ofNat 32 v.toNat) }.past 1).counting x.tallies).holding rest)

/-- The shape fields of R233: code, bit offset, width, and whether the field is signed. -/
def Claim.ShapeFields : Prop :=
  ∀ (s : State) (p b : Ix4) (v i f : Cell) (rest : List Slot), Ready s p b 1 → rest.length < 2080 →
    let x := s.bth p b
    let k := i.toNat % 32
    ∀ e ∈ [(0, 0, 48, false), (1, 48, 8, false), (2, 64, 16, false), (3, 80, 16, false), (4, 96, 16, false), (5, 112, 16, false),
        (6, 128, 32, true), (7, 160, 32, true), (8, 192, 32, true), (9, 224, 32, false)], f = BitVec.ofNat 64 e.1 →
      (Holds x [i, f] rest →
        ∃ t r, exec (.shget p b) s = .next t ∧ Retires s t p b 1 ((x.past 1).holding (Slot.mk r 0 :: rest)) ∧
          ∀ j < 64, r.getLsbD j =
            if j < e.2.2.1 then (x.shape k).getLsbD (e.2.1 + j)
            else e.2.2.2 && (x.shape k).getLsbD (e.2.1 + e.2.2.1 - 1)) ∧
      (Holds x [v, i, f] rest →
        ∃ t n, exec (.shset p b) s = .next t ∧ Retires s t p b 1 (((x.past 1).setShape k n).holding rest) ∧
          ∀ j < 256, n.getLsbD j =
            if e.2.1 ≤ j ∧ j < e.2.1 + e.2.2.1 then v.getLsbD (j - e.2.1) else (x.shape k).getLsbD j)

/-- R229 and R234, the other shape instructions on the entries, and SHLD and SHST on an entry's 32 bytes. -/
def Claim.ShapeResults : Prop :=
  ∀ (s : State) (p b : Ix4) (c i : Cell) (rest : List Slot), Ready s p b 1 → rest.length ≤ 2080 →
    let x := s.bth p b
    let k := i.toNat % 32
    let a := c.toNat % 2 ^ 48
    let based (n : Nat) : BitVec 256 :=
      BitVec.ofNat 256 ((x.shape k).toNat / 2 ^ 48 * 2 ^ 48 + n % 2 ^ 48)
    (Holds x [c, i] rest →
      (∀ e ∈ [(Instr.shbase p b, k, based c.toNat), (.shaddb p b, k, based ((x.shape k).toNat + c.toNat)),
          (.shcopy p b, k, x.shape (c.toNat % 32))],
        ∃ t, exec e.1 s = .next t ∧ Retires s t p b 1 (((x.past 1).setShape e.2.1 e.2.2).holding rest)) ∧
      (a % 8 = 0 → MemReady s p b 1 → ShortPasses s p b a 32 false → x.storePending a 32 = false →
        ∃ t, exec (.shld p b) s = .next t ∧
          Retires s t p b 1 (({ x.past 1 with
            stack := rest
            shapePend := x.shapePend ++
              [(k, BitVec.ofNat 256 ((s.pol p).mem.readNat a 32), x.mc + (s.pol p).pathL a + 4)] } : Berth).landing
                (x.mc + (s.pol p).pathL a + 4))) ∧
      (a % 8 = 0 → MemReady s p b 1 → ShortPasses s p b a 32 true → NoFlight x a 32 →
        ∃ t, exec (.shst p b) s = .next t ∧
          Retires s t p b 1 (((x.fly (x.storing a (natLe 32 (x.shape k).toNat) ((s.pol p).pathL a + 4))).past 1).holding rest))) ∧
    (Holds x [i] rest →
      ∃ t, exec (.shclr p b) s = .next t ∧ Retires s t p b 1 (((x.past 1).setShape k 0).holding rest))

/-- R256, SIGNAL sets VALUE and VALID and raises berth-signal source 20 + b; R256 and R254, a read of BERTH_SIGNAL clears VALID, unless
a SIGNAL falls in its cycle. -/
def Claim.SignalResults : Prop :=
  ∀ (s : State) (p b : Ix4) (c : Cell) (v : Byte) (rest : List Slot),
    (Ready s p b 1 → (s.bth p b).Calm 1 → Holds (s.bth p b) [c] rest → rest.length ≤ 2080 →
      ∃ t, exec (.signal p b) s = .next t ∧ (t.bth p b).sigVal = BitVec.ofNat 8 c.toNat ∧ (t.bth p b).sigValid = true ∧
        (t.bth p b).stack = rest ∧ (t.pol p).mem = (s.pol p).mem ∧
        ((s.pol p).clerks.plic.claimed.getLsbD (20 + b.toNat) = false →
          (t.pol p).clerks.plic.edge.getLsbD (20 + b.toNat) = true)) ∧
    ∀ m : Master, (s.pol p).mayIssue m false = true → (s.pol p).clocks.stopped = false →
      (s.pol p).holders.find? (fun h => decide (h.master = m)) = none → (s.pol p).readFenced m (Off.berth b.toNat + 0x14) 4 = false →
      (∃ t, exec (.berthSignalRead p b m none) s = .next t ∧ t.bth p b = { s.bth p b with sigValid := false }) ∧
      (∃ t, exec (.berthSignalRead p b m (some v)) s = .next t ∧
        t.bth p b = { s.bth p b with sigVal := v, sigValid := true })

/-- R242, the entry of an interrupt: the lowest pending source that the mask enables, 3 mc, a return cell with INT and IE, IE and the
pending bit cleared, and execution at IVBASE + 16 × source. -/
def Claim.InterruptEntryEffect : Prop :=
  ∀ (s : State) (p b n : Ix4) (stall : Nat), (s.pol p).millsRun = true → (s.bth p b).run.isSome = true →
    (s.bth p b).impounded = false → (s.bth p b).halted = false →
    ((s.bth p b).phase = .running ∧ stall = 0 ∨ ∃ k v m l, (s.bth p b).phase = .waitt k v m l) → (s.bth p b).Calm (stall + 3) →
    (s.bth p b).ie = true → (s.bth p b).rstack.length < 544 →
    ((s.bth p b).pend &&& (s.bth p b).mask).getLsbD n.toNat = true →
    (∀ m, m < n.toNat → ((s.bth p b).pend &&& (s.bth p b).mask).getLsbD m = false) →
    let x := s.bth p b
    ∃ t, exec (.interruptEntry p ⟨b, stall⟩) s = .next t ∧ (t.bth p b).phase = .running ∧ (t.bth p b).pc = (x.ivbase + 16 * n.toNat) % 2 ^ 17 ∧
      (t.bth p b).rstack = Slot.mk (BitVec.ofNat 64 (x.pc % 2 ^ 17 + 2 ^ 62 + 2 ^ 63)) 0 :: x.rstack ∧ (t.bth p b).ie = false ∧
      (t.bth p b).pend = x.pend &&& ~~~(1#4 <<< n.toNat) ∧ (t.bth p b).mc = x.mc + stall + 3 ∧ (t.bth p b).stack = x.stack ∧
      (t.pol p).mem = (s.pol p).mem ∧ (x.phase = .running → (t.pol p).regs = (s.pol p).regs)

/-- R241, a write of 1 to BERTH_POKE makes POKE, source 1, pending while a waybill runs. -/
def Claim.PokeEffect : Prop :=
  ∀ (s : State) (p b : Ix4) (m : Master) (v : Word), WritePasses s p m (Off.berth b.toNat + 0x10) →
    v.getLsbD 0 = true → (s.bth p b).running.isSome = true →
    ∃ t, exec (.berthPoke p b m v) s = .next t ∧ t.bth p b = { s.bth p b with pend := (s.bth p b).pend ||| 2#4 }

/-! ## Traps, ends and long operations -/

/-- R231, R232 and R245, the traps end the waybill: missing operand cells, an empty return stack, a return cell of the wrong kind, PICK
and ROLL above 30, and an instruction that reaches CODE_LEN (R222). -/
def Claim.TrapsEndWaybill : Prop :=
  ∀ (s : State) (p b : Ix4) (c : Cell) (r : Slot) (i8 : BitVec 8) (i16 : BitVec 16) (rest rs : List Slot), (s.pol p).Serves →
    let x := s.bth p b
    let ends (i : Instr) : Prop := ∃ t, exec i s = .next t ∧ Ended s t p b
    (∀ e ∈ [(Instr.dup p b, 1), (.drop p b, 1), (.swap p b, 2), (.rot p b, 3), (.twoSwap p b, 4), (.pick p b, 1),
        (.dropn p b, 1), (.add p b, 2), (.divs p b, 2), (.neg p b, 1), (.bext p b, 3), (.bins p b, 4), (.select p b, 3),
        (.jmp p b, 1), (.calli p b, 1), (.toR p b, 1), (.tread p b, 1), (.tadd p b, 2), (.waitt p b, 2), (.idle p b, 1),
        (.tarm p b, 2), (.shset p b, 3), (.setiv p b, 1), (.imask p b, 1), (.signal p b, 1)],
      Ready s p b 1 → x.stack.length < e.2 → ends e.1) ∧
    (∀ e ∈ [(Instr.ld64 p b, 1), (.st64 p b, 2), (.cadd p b, 2), (.cswap p b, 3), (.shld p b, 2), (.bmove p b .whole, 3),
        (.crc32c p b .whole, 3)],
      MemReady s p b 1 → x.stack.length < e.2 → ends e.1) ∧
    (Ready s p b 1 → x.rstack = [] → ends (.ret p b) ∧ ends (.reti p b) ∧ ends (.rFrom p b) ∧ ends (.rFetch p b)) ∧
    (Ready s p b 1 → x.rstack = r :: rs → r.lands ≤ x.mc → if r.val.getLsbD 63 then ends (.ret p b) else ends (.reti p b)) ∧
    (Ready s p b 1 → Holds x [c] rest → 30 < c.toNat → rest.length < 2080 → ends (.pick p b) ∧ ends (.roll p b)) ∧
    ((s.pol p).issues b = true → x.codeLen = x.pc + 1 →
      ends (.lit8 p b i8) ∧ ends (.br p b i16) ∧ ends (.idle8 p b i8) ∧ ends (.call p b i16)) ∧
    (Ready s p b 2 → ends (.trap p b i8))

/-- R248, a push beyond depth 2080 of the operand stack or 544 of the return stack, that of an interrupt entry included, impounds the
berth: its stacks and PC stay, and the record of R82, where none is held, names STACK and the berth. A push that reaches those depths is
legal. -/
def Claim.StackViolation : Prop :=
  ∀ (s : State) (p b : Ix4) (i8 : BitVec 8) (i16 : BitVec 16), (s.pol p).Serves → (s.pol p).imp.valid = false →
    let x := s.bth p b
    let held (i : Instr) : Prop := ∃ t, exec i s = .next t ∧ (t.bth p b).impounded = true ∧ (t.bth p b).stack = x.stack ∧
      (t.bth p b).rstack = x.rstack ∧ (t.bth p b).pc = x.pc ∧ (t.pol p).imp.valid = true ∧ (t.pol p).imp.cause = 6 ∧
      (t.pol p).imp.master = b.toNat
    let taken : Prop := (s.pol p).millsRun = true ∧ x.run.isSome = true ∧ x.impounded = false ∧ x.halted = false ∧
      x.phase = .running ∧ x.ie = true ∧ x.pend &&& x.mask ≠ 0
    let legal (i : Instr) (depth rdepth : Nat) : Prop := ∃ t, exec i s = .next t ∧ (t.bth p b).impounded = false ∧
      (t.bth p b).stack.length = depth ∧ (t.bth p b).rstack.length = rdepth ∧ (t.pol p).imp.valid = false
    (x.stack.length = 2080 → (∀ c ∈ x.stack, c.lands ≤ x.mc) →
      (Ready s p b 1 → held (.zero p b) ∧ held (.dup p b) ∧ held (.depth p b)) ∧
      (MemReady s p b 1 → held (.ldp64 p b)) ∧ (Ready s p b 2 → held (.lit8 p b i8))) ∧
    (x.rstack.length = 544 → (Ready s p b 3 → held (.call p b i16)) ∧
      (taken → held (.interruptEntry p ⟨b, 0⟩))) ∧
    (x.stack.length = 2079 → (∀ c ∈ x.stack, c.lands ≤ x.mc) → Ready s p b 1 →
      legal (.zero p b) 2080 x.rstack.length ∧ legal (.dup p b) 2080 x.rstack.length) ∧
    (x.rstack.length = 543 →
      (Ready s p b 3 → x.Outside (x.target 3 i16.toInt).pc → legal (.call p b i16) x.stack.length 544) ∧
      (taken → legal (.interruptEntry p ⟨b, 0⟩) x.stack.length 544))

/-- R200 and R245, the record of a TRAP: at CTAIL of the waybill's ring, ID, STATUS 4, DETAIL, an immediate below 0x10 reading 0x0F, and
END_TIDE, and CTAIL goes on. -/
def Claim.TrapRecord : Prop :=
  ∀ (s : State) (p b : Ix4) (imm : BitVec 8) (r : Run), Ready s p b 2 → (s.bth p b).run = some r →
    (s.bth p b).flights = [] → (s.bth p b).longRest = [] → (∀ o ∈ (s.pol p).ledger.ops, o.berth ≠ b) →
    (s.pol p).stored (Off.berth b.toNat + 0x1C) % 2 = 0 →
    let q := s.pol p
    let n := r.wb.ring
    let a := q.cringBase n + 32 * q.ptr n 2
    n < 16 → (q.wharf.ring n).held = [] → a + 32 ≤ 0x8000000 → q.memctl.errs = [] →
    (q.ringPtr n 2) + 4 ≤ 0x200000 → bitOf (q.ringCfg n) 9 = false →
    ∃ t, exec (.trap p b imm) s = .next t ∧
      (t.pol p).mem.readNat a 8 = r.wb.id.toNat ∧ (t.pol p).mem.readNat (a + 8) 1 = 4 ∧
      (t.pol p).mem.readNat (a + 11) 1 = (if imm.toNat < 0x10 then 0x0F else imm.toNat) ∧
      (t.pol p).mem.readNat (a + 0x14) 4 = q.wharf.tide % 2 ^ 32 ∧
      (t.pol p).ctr32 (q.ringPtr n 2) = (q.ptr n 2 + 1) % q.ringSize n ∧
      ∀ i, (i < a ∨ a + 32 ≤ i) → (i < 0x10000000 + q.ringPtr n 2 ∨ 0x10000000 + q.ringPtr n 2 + 4 ≤ i) →
        (t.pol p).mem.read i = q.mem.read i

/-- R244, END: with no operation of the waybill outstanding the waybill completes and the berth is free; with one outstanding the berth
drains. R207 and R212, TIMEOUT: a waybill whose count has reached WATCH_LIMIT ends, where no boundary is due before. -/
def Claim.EndAndTimeout : Prop :=
  ∀ (s : State) (p b : Ix4) (drain : Nat), (s.pol p).Serves →
    (Ready s p b 1 → (s.pol p).outstanding b = false → ∃ t, exec (.endOp p b drain) s = .next t ∧
      (t.bth p b).run = none ∧ (t.bth p b).phase = .idle ∧ (t.bth p b).stack = [] ∧ OthersKeep s t p b) ∧
    (Ready s p b 1 → (s.bth p b).flights = [] → (s.pol p).outstanding b = true → ∃ t, exec (.endOp p b drain) s = .next t ∧
      (t.bth p b).run = (s.bth p b).run ∧ (t.bth p b).phase = .draining ∧
      (t.bth p b).used = (s.bth p b).used + 1 + max drain ((s.bth p b).lastLand - (s.bth p b).mc) ∧ (t.pol p).mem = (s.pol p).mem ∧
      ∀ c, c ≠ b → t.bth p c = s.bth p c) ∧
    ((s.pol p).millsRun = true → (s.bth p b).impounded = false → (s.bth p b).halted = false →
      (∃ r, (s.bth p b).run = some r ∧ r.started = true) → (s.pol p).watchLimit ≤ (s.bth p b).used →
      s.basinTime p 0 / (s.pol p).tideNs ≤ (s.pol p).wharf.tide →
      ∃ t, exec (.timeout p b) s = .next t ∧ Ended s t p b)

/-- R238 to R240, BFILL: the committed bytes hold the pattern and no other byte changes; completed, it has popped its operands; stopped by
an interrupt, the operands are those of R240 and the PC stays. -/
def Claim.FillResult : Prop :=
  ∀ (s : State) (p b : Ix4) (v y n : Cell) (stop : LongStop) (rest : List Slot), MemReady s p b 1 →
    Holds (s.bth p b) [v, y, n] rest → rest.length ≤ 2077 → (s.bth p b).flights = [] →
    let x := s.bth p b
    let a := y.toNat % 2 ^ 48
    let k := stopBytes n.toNat stop
    a % 8 = 0 → n.toNat % 8 = 0 → AccessesPass s p b a k true →
    ∃ t, exec (.bfill p b stop) s = .next t ∧ Stores s t p a ((List.replicate (k / 8) (natLe 8 v.toNat)).flatten) ∧
      OthersKeep s t p b ∧ (t.bth p b).tallies = x.tallies ∧ (t.bth p b).rstack = x.rstack ∧
      (t.bth p b).mc = x.mc + (if k = 0 then 2 else 2 + k / 8 + (s.pol p).pathL a) ∧
      if k = n.toNat then (t.bth p b).stack = rest ∧ (t.bth p b).pc = (x.pc + 1) % 2 ^ 17 ∧ (t.bth p b).longOp = false
      else (t.bth p b).stack = [Slot.mk (n - BitVec.ofNat 64 k) 0, Slot.mk (y + BitVec.ofNat 64 k) 0, Slot.mk v 0] ++ rest ∧
        (t.bth p b).pc = x.pc ∧ (t.bth p b).longOp = true

/-- R238 to R240, BMOVE, whose destination does not start inside the source above its start: the committed bytes at the destination are
the source's as they were. -/
def Claim.MoveResult : Prop :=
  ∀ (s : State) (p b : Ix4) (u y n : Cell) (stop : LongStop) (rest : List Slot), MemReady s p b 1 →
    Holds (s.bth p b) [u, y, n] rest → rest.length ≤ 2077 → (s.bth p b).flights = [] →
    let x := s.bth p b
    let f := u.toNat % 2 ^ 48
    let a := y.toNat % 2 ^ 48
    let k := stopBytes n.toNat stop
    f % 8 = 0 → a % 8 = 0 → n.toNat % 8 = 0 → (a ≤ f ∨ f + n.toNat ≤ a) →
    AccessesPass s p b f k false → AccessesPass s p b a k true →
    ∃ t, exec (.bmove p b stop) s = .next t ∧ Stores s t p a ((s.pol p).mem.readBytes f k) ∧ OthersKeep s t p b ∧
      (t.bth p b).mc = x.mc + (if k = 0 then 2 else 2 + k / 8 + (s.pol p).pathL f + (s.pol p).pathL a) ∧
      if k = n.toNat then (t.bth p b).stack = rest ∧ (t.bth p b).pc = (x.pc + 1) % 2 ^ 17 ∧ (t.bth p b).longOp = false
      else (t.bth p b).stack = [n - BitVec.ofNat 64 k, y + BitVec.ofNat 64 k, u + BitVec.ofNat 64 k].map (Slot.mk · 0) ++ rest ∧
        (t.bth p b).pc = x.pc ∧ (t.bth p b).longOp = true

/-- R238, R239 and R240, CRC32C: the bytes read folded into the checksum, memory as it was. -/
def Claim.ChecksumResult : Prop :=
  ∀ (s : State) (p b : Ix4) (u y n : Cell) (stop : LongStop) (rest : List Slot), MemReady s p b 1 →
    Holds (s.bth p b) [u, y, n] rest → rest.length ≤ 2077 → (s.bth p b).flights = [] →
    let x := s.bth p b
    let a := y.toNat % 2 ^ 48
    let k := stopBytes n.toNat stop
    let crc : Cell := BitVec.ofNat 64 (crcFold (BitVec.ofNat 32 u.toNat) ((s.pol p).mem.readBytes a k)).toNat
    AccessesPass s p b a k false →
    ∃ t, exec (.crc32c p b stop) s = .next t ∧ (t.pol p).mem = (s.pol p).mem ∧ (∀ c, c ≠ b → t.bth p c = s.bth p c) ∧
      (t.bth p b).mc = x.mc + (if k = 0 then 2 else 2 + (k + 7) / 8 + (s.pol p).pathL a) ∧
      if k = n.toNat then (t.bth p b).stack = Slot.mk crc 0 :: rest ∧ (t.bth p b).pc = (x.pc + 1) % 2 ^ 17
      else (t.bth p b).stack = [n - BitVec.ofNat 64 k, y + BitVec.ofNat 64 k, crc].map (Slot.mk · 0) ++ rest ∧
        (t.bth p b).pc = x.pc ∧ (t.bth p b).longOp = true

/-- R12, R13, R224 and R247, a reserved opcode, and a branch or call into the body of a wide instruction: the waybill runs on, and what may
change is its own berth, the flags and counters of the post-units, memory that the berth may write and what it has in flight; every other
berth, register and byte stays (the bound is the model's, log entry 19). -/
def Claim.ReservedOpcodeFrame : Prop :=
  ∀ (s : State) (p b : Ix4) (op : Byte) (i8 : BitVec 8) (i16 : BitVec 16) (i24 : BitVec 24),
    let x := s.bth p b
    let into (len : Nat) (rel : Int) : Prop := Ready s p b len ∧ ¬ x.Outside (x.target len rel).pc
    ∀ e ∈ [(Instr.reservedOpcode p b op, Ready s p b 1), (.br p b i16, into 3 i16.toInt), (.br8 p b i8, into 2 i8.toInt),
        (.jmpl p b i24, into 4 i24.toInt), (.call p b i16, into 3 i16.toInt ∧ x.rstack.length < 544)], e.2 →
      ∃ t, exec e.1 s = .next t ∧ (t.bth p b).run = x.run ∧ (t.bth p b).impounded = x.impounded ∧ OthersKeep s t p b ∧
        (∀ o, ¬ (s.pol p).issueReg b o →
          ¬ o ∈ [Off.millSticky, Off.satCount, Off.satCount + 4, Off.nanCount, Off.nanCount + 4] →
          (t.pol p).stored o = (s.pol p).stored o) ∧ t.warden = s.warden ∧ t.hostMem = s.hostMem ∧
        ∀ i, (∀ r ∈ (s.pol p).writable b, i < r.1 ∨ r.2 ≤ i) →
          (∀ f ∈ x.flights, f.write = true → i < f.addr ∨ f.addr + f.len ≤ i) → (t.pol p).mem.read i = (s.pol p).mem.read i

/-! ## The queue, the whole die -/

/-- A step takes the command at the front of the queue and runs it on the state with the queue's rest. -/
def Claim.StepTakesFront : Prop :=
  ∀ (c : Instr) (cs : List Instr) (s : State), s.pending = c :: cs → step s = exec c { s with pending := cs }

/-- On an empty queue a step is 4 ns of die time, and nothing but time passes (the model's choice, log entries 1 and 3): where no berth
stands in a wait, every polder's memory, berths and registers stay, but for the event counters (R549, log entry 100). -/
def Claim.IdleStepPassesTime : Prop :=
  ∀ s : State, s.pending = [] → ∃ t, step s = .next t ∧ t.warden = { s.warden with dieTime := s.warden.dieTime + 4 } ∧
    t.pending = [] ∧ t.hostMem = s.hostMem ∧ t.pf4 = s.pf4 ∧
    ∀ p, ((s.pol p).boot ≠ .run ∨ (s.pol p).busy → (t.pol p).mem = (s.pol p).mem ∧ (t.pol p).berths = (s.pol p).berths ∧
        ∀ o, (∀ x ∈ (s.pol p).watch.evsel, o ≠ Off.evcnt x.1 ∧ o ≠ Off.evcnt x.1 + 4) →
          (t.pol p).stored o = (s.pol p).stored o) ∧
      ((s.pol p).basin.valid = true → (s.pol p).basin.slew = 0 → (t.pol p).basin.now = (s.pol p).basin.now + 4) ∧
      ((s.pol p).mtimeRuns = true → (t.pol p).clerks.mtime =
        ((s.pol p).clerks.mtime + ((s.warden.dieTime + 4) / 10 - s.warden.dieTime / 10)) % 2 ^ 64)

/-- No command touches the queue: what it answers waits for the same commands. -/
def Claim.CommandsKeepQueue : Prop :=
  ∀ (c : Instr) (s t : State), exec c s = .next t → t.pending = s.pending

/-- R156: the invariant of the Warden's pool, kept by every step. -/
def Claim.PoolSoundStep : Prop :=
  ∀ s t : State, s.warden.Sound → step s = .next t → t.warden.Sound

/-- R156: the pool is sound after reset. -/
def Claim.PoolSoundReset : Prop := State.reset.warden.Sound

/-- R19: a command of polder `p` changes no other polder, nor the Warden, nor PF4; `actsOn` names the commands of one polder alone. -/
def Claim.PolderIsolation : Prop :=
  ∀ (c : Instr) (p r : Ix4) (s t : State), c.actsOn = some p → exec c s = .next t → r ≠ p →
    t.pol r = s.pol r ∧ t.warden = s.warden ∧ t.pf4 = s.pf4 ∧ t.rails = s.rails ∧ t.perst = s.perst

/-- An instruction of a berth that issues none now, and an entry where no interrupt is to be taken, changes nothing (the model's choice,
log entry 4). -/
def Claim.IdleBerthInstructions : Prop :=
  ∀ (c : Instr) (p b : Ix4) (s : State) (stall : Nat),
    (c.issuedBy = some (p, b) → (s.pol p).issues b = false → exec c s = .next s) ∧
    ((s.pol p).interrupts b = none → exec (.interruptEntry p ⟨b, stall⟩) s = .next s)

/-! ## Power and reset -/

/-- R3 and R95, POWER_ON: every polder POWERED, a fused-off one ABSENT, with cause POWERON and nothing written, the die timebase at 0, and
VDD_AON alone in range; fuses and flash stay. -/
def Claim.PowerOnState : Prop :=
  ∀ s : State, ∃ t, exec .powerOn s = .next t ∧ t.rails = [.aon] ∧ t.warden.dieTime = 0 ∧ t.warden.lock = false ∧
    t.warden.grant = Quad.const 0 ∧ t.pf4 = HostFn.reset ∧ t.hostMem = s.hostMem ∧ t.perst = s.perst ∧
    ∀ p, (t.pol p).boot = (if (s.pol p).fuses.sku = .jt4x144 ∧ (s.pol p).fuses.index = .i3 then .absent else .powered) ∧
      (t.pol p).cause = .poweron ∧ (t.pol p).regs = [] ∧ (t.pol p).mem = Mem.reset ∧
      (t.pol p).berths = Quad.const Berth.reset ∧ (t.pol p).fuses = (s.pol p).fuses ∧ (t.pol p).bootCount = 0 ∧
      ((s.pol p).watch.rewrite = none → (t.pol p).charter.flashA = (s.pol p).charter.flashA ∧
        (t.pol p).charter.flashB = (s.pol p).charter.flashB)

/-- R84, R109, R116 and R119, the resets of polders: PERST# and a rail fault, which the Warden with its charter sees, reset every present
polder cold, FLR one polder warm. -/
def Claim.PolderResets : Prop :=
  ∀ s : State, s.perst = false → s.warden.thermtrip = false →
    (∃ t, exec .perstAssert s = .next t ∧ t.perst = true ∧ t.pf4.bme = false ∧
      ∀ p, (s.pol p).boot ≠ .absent → Restarted (s.pol p) (t.pol p) .perst) ∧
    (s.warden.lock = true → ∀ r, r ≠ Rail.aon → ∃ t, exec (.railfault r) s = .next t ∧
      t.rails = s.rails.filter (fun x => decide (x ≠ r)) ∧ t.pf4.linkUp = false ∧
      ∀ p, (s.pol p).boot ≠ .absent → Restarted (s.pol p) (t.pol p) .railfault) ∧
    ∀ p, (s.pol p).boot ≠ .absent → ∃ t, exec (.flr p) s = .next t ∧ Restarted (s.pol p) (t.pol p) .flr ∧
      (t.pol p).host.bme = false ∧ ∀ r, r ≠ p → t.pol r = s.pol r

/-- R32, R96, R113 and R178, the pins, the rails and PF4's FLR: each changes what it names and nothing else. -/
def Claim.PinsAndRails : Prop :=
  ∀ (s : State) (r : Rail),
    exec .perstDeassert s = .next { s with perst := false } ∧
    exec .rawWindowEnd s = .next (s.onWarden (fun w => { w with rawWindow := false })) ∧
    (¬ r ∈ s.rails → exec (.railInRange r) s = .next { s with rails := s.rails ++ [r] }) ∧
    ∃ t, exec .pf4Flr s = .next t ∧ t.polders = s.polders ∧ t.pf4.bme = false ∧ t.pf4.mse = false ∧
      t.pf4.msixEn = false ∧ t.pf4.pba = 0 ∧ t.pf4.linkUp = s.pf4.linkUp ∧ t.warden = { s.warden with imp := none }

/-- R3, R96, R98 and R588, POLDER_RELEASE: with every rail in range, PERST# deasserted and the Warden's charter loaded, a POWERED polder
with its mills enters CHARTER, where CHn_RST# rises, and starts its zero fill, and a fused-off one ABSENT. -/
def Claim.ReleaseFromPowered : Prop :=
  ∀ s : State, (∀ r, r ∈ s.rails) → s.perst = false → s.warden.lock = true → s.warden.thermtrip = false →
    ∃ t, exec .polderRelease s = .next t ∧
      ∀ p, (s.pol p).boot = .powered →
        (((s.pol p).fuses.sku = .jt4x144 ∧ (s.pol p).fuses.index = .i3) → (t.pol p).boot = .absent) ∧
        (¬ ((s.pol p).fuses.sku = .jt4x144 ∧ (s.pol p).fuses.index = .i3) →
          64 ≤ ((List.range 66).filter (fun i => (s.pol p).fuses.sites.getLsbD i)).length →
          (t.pol p).boot = .charter ∧ s.chRst p = some false ∧ t.chRst p = some true ∧ (t.pol p).charter.phase = .zeroFill ∧
            (t.pol p).bootCount = min ((s.pol p).bootCount + 1) 0xFFFFFFFF)

/-- R159, THERMTRIP#: every polder's clocks stop and its grant goes, the Warden withdraws what it has granted, memory stays. -/
def Claim.ThermtripStops : Prop :=
  ∀ s : State, s.warden.thermtrip = false →
    ∃ t, exec .thermtrip s = .next t ∧ t.warden.thermtrip = true ∧ t.warden.grant = Quad.const 0 ∧
      t.warden.nextGrant = Quad.const 0 ∧ t.warden.dieTime = s.warden.dieTime ∧
      ∀ p, (t.pol p).clocks.stopped = true ∧ (t.pol p).wharf.grant = 0 ∧ (t.pol p).mem = (s.pol p).mem ∧
        (t.pol p).berths = (s.pol p).berths ∧ (t.pol p).millsRun = false

/-- R555, WH_RESET by the host with 0x5752: halts and the freeze end, both mailboxes are idle at L0, and the Logbook stays. -/
def Claim.WatchhouseReset : Prop :=
  ∀ (s : State) (p : Ix4), (s.pol p).canIssue .host = true →
    ∃ t, exec (.whReset p .z 0x5752#32) s = .next t ∧ (t.pol p).wharf.frozen = false ∧
      (t.pol p).watch.box = Duo.const Mailbox.reset ∧ (t.pol p).watch.units = (s.pol p).watch.units ∧
      (t.pol p).mem = (s.pol p).mem ∧ (t.pol p).watch.evsel = [] ∧
      (∀ b, (t.bth p b).halted = false ∧ (t.bth p b).armed = false ∧ (t.bth p b).run = (s.bth p b).run) ∧
      ∀ h, ((t.pol p).clerks.harts.get h).halted = false

/-! ## The Charter -/

/-- R38 and R98, CHARTER_ZERO_FILL_DONE: the Granary and the Counter read zero, the rest of memory stays, and the flash is woken. -/
def Claim.ZeroFill : Prop :=
  ∀ (s : State) (p : Ix4), (s.pol p).clocks.stopped = false → (s.pol p).boot = .charter → (s.pol p).charter.phase = .zeroFill →
    ∃ t, exec (.charterZeroFillDone p) s = .next t ∧ (t.pol p).charter.phase = .sfdp ∧ (t.pol p).charter.dpd = false ∧
      (t.pol p).boot = .charter ∧ (t.pol p).berths = (s.pol p).berths ∧ (t.pol p).regs = (s.pol p).regs ∧
      (∀ a, (a < 0x8000000 ∨ 0x10000000 ≤ a ∧ a < 0x10200000) → (t.pol p).mem.read a = 0) ∧
      ∀ a, ¬ (a < 0x8000000 ∨ 0x10000000 ≤ a ∧ a < 0x10200000) → (t.pol p).mem.read a = (s.pol p).mem.read a

/-- R46 and R61, what a slot that fails with a cause of up to 0x08 leaves: after slot A slot B is tried from its SFDP on, after slot B the
polder is STRANDED, its Charter locked and its flash in deep power-down. -/
def SlotFailed (s t : State) (p : Ix4) (cause : Nat) : Prop :=
  let c := (t.pol p).charter
  ((s.pol p).charter.slotB = false → (t.pol p).boot = .charter ∧ c.causeA = BitVec.ofNat 8 cause ∧ c.slotB = true ∧ c.phase = .sfdp ∧
    c.lock = (s.pol p).charter.lock) ∧
  ((s.pol p).charter.slotB = true → (t.pol p).boot = .stranded ∧ c.causeB = BitVec.ofNat 8 cause ∧ c.lock = true ∧ c.dpd = true)

/-- R38 step 1 and R61, CHARTER_SFDP_READ: a valid SFDP brings the header, one that is not fails the slot with 0x01. -/
def Claim.SfdpRead : Prop :=
  ∀ (s : State) (p : Ix4) (f : Sfdp), (s.pol p).clocks.stopped = false → (s.pol p).boot = .charter → (s.pol p).charter.phase = .sfdp →
    ∃ t, exec (.charterSfdpRead p f) s = .next t ∧ (t.pol p).charter.sfdp = f ∧ (t.pol p).berths = (s.pol p).berths ∧
      (f.valid = true → (t.pol p).charter.phase = .header ∧ (t.pol p).boot = .charter ∧ (t.pol p).charter.slotB = (s.pol p).charter.slotB ∧
        (t.pol p).mem = (s.pol p).mem) ∧
      (f.valid = false → SlotFailed s t p 1)

/-- R38 steps 2 and 3, R45, R46 and R61, CHARTER_HEADER_READ: a header of all-ones fails with 0x01, one without its magic with 0x02, any other
check with its cause; a good one brings the body in the mode that port and header share, and one whose mode the port cannot enter fails with
0x08 (ADDR4 by log entry 108). -/
def Claim.HeaderRead : Prop :=
  ∀ (s : State) (p : Ix4) (bytes : List Byte), (s.pol p).clocks.stopped = false → (s.pol p).boot = .charter →
    (s.pol p).charter.phase = .header →
    let q := s.pol p
    let h := slotBytes q.charter.left bytes 0 64
    let cause := q.target.headerCause q.charter.sfdp.density h
    ∃ t, exec (.charterHeaderRead p bytes) s = .next t ∧ (t.pol p).berths = q.berths ∧
      (h = List.replicate 64 0xFF#8 → SlotFailed s t p 1) ∧
      ((∃ x ∈ h, x ≠ 0xFF#8) → h.take 4 ≠ [0x4A, 0x54, 0x43, 0x48] → SlotFailed s t p 2) ∧
      (cause ≠ 0 → SlotFailed s t p cause) ∧
      (cause = 0 → (q.target.mode q.charter.sfdp h).2.2 = false → SlotFailed s t p 8) ∧
      (cause = 0 → (q.target.mode q.charter.sfdp h).2.2 = true →
        (t.pol p).boot = .charter ∧ (t.pol p).charter.phase = .body ∧ (t.pol p).charter.header = h ∧
          (t.pol p).charter.lanes = (q.target.mode q.charter.sfdp h).1 ∧
          (t.pol p).charter.addr4 = decide (0x1000000 < q.charter.sfdp.density))

/-- R38 steps 4 to 6, R45, R46, R61, R99 and R586, CHARTER_BODY_READ: a body that cannot be read fails its slot with 0x08, an image with the
cause of the check it fails; an image whose framing scan fails strands the polder with 0x09 at the offset; and one of an END alone is
accepted, and the Root PLL is asked to lock (CHARTER_LEN and CHARTER_APPLIED by log entries 110 and 111). -/
def Claim.BodyRead : Prop :=
  ∀ (s : State) (p : Ix4) (rd : Sys2Proof.BodyRead), (s.pol p).clocks.stopped = false → (s.pol p).boot = .charter →
    (s.pol p).charter.phase = .body →
    let q := s.pol p
    let n := imageLen q.charter.header
    let img := q.charter.header ++ slotBytes q.charter.left rd.bytes 64 (n - 64)
    let cause := q.target.imageCause img
    ∃ t, exec (.charterBodyRead p rd) s = .next t ∧
      (rd.ok = false → SlotFailed s t p 8) ∧
      (rd.ok = true → cause ≠ 0 → SlotFailed s t p cause) ∧
      (rd.ok = true → cause = 0 → ∀ ofs, imageRecs img = .error ofs →
        (t.pol p).boot = .stranded ∧ (t.pol p).charter.failOfs = ofs ∧ (t.pol p).charter.lock = true ∧
          (if q.charter.slotB then (t.pol p).charter.causeB = 9 else (t.pol p).charter.causeA = 9)) ∧
      (rd.ok = true → cause = 0 → ∀ ofs fl, imageRecs img = .ok [⟨ofs, 0x7FFF, fl, []⟩] →
        (t.pol p).boot = .hbmtrain ∧ (t.pol p).charter.phase = .training ∧ (t.pol p).charter.imageLen = n ∧
          (t.pol p).charter.build.toNat = leNat ((img.drop 0x18).take 8) ∧ (t.pol p).charter.applied = q.charter.applied + 1 ∧
          (t.pol p).clocks.relock = .requested ∧ (t.pol p).clocks.boot = true ∧ (t.pol p).charter.lock = q.charter.lock ∧
          (t.pol p).berths = q.berths)

/-! ## Clocks -/

/-- R126 to R131, R136 and R160: the steps of a relock, a divider step, and the writes that schedule them; where the dividers change a skip
window begins. -/
def Claim.RelockSteps : Prop :=
  ∀ (s : State) (p : Ix4) (m : Master) (v : Word),
    let c := (s.pol p).clocks
    let goes (i : Instr) (c' : Clocks) : Prop := exec i s = .next (s.onPol p (fun q => { q with clocks := c' }))
    (c.refPresent = true → c.refStop = false →
      (c.relock = .requested → goes (.relockRequest p) { c with relock := .tuning, safe := true, locked := false }) ∧
      (c.relock = .tuning → goes (.lockDeclared p) { c with relock := .counting }) ∧
      (c.relock = .counting → ∃ t, exec (.dividerRelease p) s = .next t ∧
        (t.pol p).clocks = { c with
          relock := .none, boot := false, locked := true, safe := false, want := none
          divCur := BitVec.ofNat 2 ((s.pol p).stored Off.millDiv), testActive := bitOf ((s.pol p).stored Off.clkTest) 0
          window := { c.window with level := c.window.next, pos := 0 } } ∧
        (t.pol p).counter Off.relockCount = ((s.pol p).counter Off.relockCount + bit (!c.boot)) % 2 ^ 48 ∧
        (c.boot = false → bitOf ((t.pol p).stored Off.clkSticky) 1 = true))) ∧
    (c.boot = true → c.relock = .tuning ∨ c.relock = .counting → c.refStop = false →
      ∃ t, exec (.lockRetry p) s = .next t ∧ (t.pol p).clocks = { c with relock := .tuning } ∧
        (t.pol p).counter Off.lockRetryCount = ((s.pol p).counter Off.lockRetryCount + 1) % 2 ^ 48) ∧
    (∀ d, c.want = some d → c.coasting = false → c.stopped = false → c.relock = .none →
      goes (.dividerStep p) { c with
        divCur := d, want := none, window := { c.window with level := c.window.next, pos := 0 } }) ∧
    (WritePasses s p m Off.millDiv →
      ∃ t, exec (.millDivWrite p m v) s = .next t ∧ (t.pol p).stored Off.millDiv = v.toNat % 4 ∧
        (t.pol p).clocks = if c.relock = .none ∧ c.locked = true then { c with want := some (BitVec.ofNat 2 v.toNat) } else c)

/-- R135, CLK_TEST: a write by the Watchhouse at L2 asks for a relock, with the divider step that was scheduled left to its release; below L2
it has no effect; and a write by another master is a LOCK violation, which impounds it and writes nothing. -/
def Claim.ClockTest : Prop :=
  ∀ (s : State) (p h : Ix4) (v : Word),
    (WritePasses s p .watchhouse Off.clkTest →
      ∃ t, exec (.clkTestWrite p .watchhouse v) s = .next t ∧ (t.pol p).stored Off.clkTest % 2 = v.toNat % 2 ∧
        (t.pol p).clocks = { (s.pol p).clocks with relock := .requested, want := none }) ∧
    ((∀ i, ((s.pol p).watch.box.at i).level < 2) →
      ∃ t, exec (.clkTestWrite p .watchhouse v) s = .next t ∧ t.pol p = s.pol p) ∧
    ((s.pol p).canIssue (.hart h) = true → (s.pol p).holders.find? (fun x => decide (x.master = .hart h)) = none →
      (s.pol p).bootWrites = false → (s.pol p).fenced (masterCode (.hart h)) (winBase + Off.clkTest) 4 true = false →
      ∃ t, exec (.clkTestWrite p (.hart h) v) s = .next t ∧ ((t.pol p).clerks.harts.get h).impounded = true ∧
        (t.pol p).stored Off.clkTest = (s.pol p).stored Off.clkTest ∧ (t.pol p).clocks = (s.pol p).clocks ∧
        (t.pol p).imp.valid = true ∧
        ((s.pol p).imp.valid = false → (t.pol p).imp.cause = 5 ∧ (t.pol p).imp.write = true ∧
          (t.pol p).imp.addr = winBase + Off.clkTest))

/-- R137 to R141 and R143, the loss of the reference: a locked PLL coasts, outputs on SAFE stop; COAST_LONG; and its return, in place, by
a relock, or on SAFE again. -/
def Claim.ReferenceLoss : Prop :=
  ∀ (s : State) (p : Ix4) (inRange : Bool),
    let c := (s.pol p).clocks
    let ends (i : Instr) (c' : Clocks) (bump : Option Nat) (stuck : Option Nat) : Prop :=
      ∃ t, exec i s = .next t ∧ (t.pol p).clocks = c' ∧ (t.pol p).mem = (s.pol p).mem ∧ (t.pol p).berths = (s.pol p).berths ∧
        (∀ o ∈ bump, (t.pol p).counter o = ((s.pol p).counter o + 1) % 2 ^ 48) ∧
        ∀ k ∈ stuck, bitOf ((t.pol p).stored Off.clkSticky) k = true
    let back : Clocks := { c with refPresent := true, coasting := false, coastLong := false }
    let gone : Clocks := { c with refPresent := false, coasting := true, coastLong := false }
    (c.refPresent = true → c.locked = true → c.relock = .none →
      (c.want = none → ends (.refLost p) gone (some Off.refLossCount) (some 0)) ∧
      (∀ d, c.want = some d →
        ends (.refLost p) { gone with divCur := d, want := none, window := { c.window with level := c.window.next, pos := 0 } }
          (some Off.refLossCount) (some 0))) ∧
    (c.refPresent = true → ¬ (c.locked = true ∧ c.relock = .none) →
      ends (.refLost p) { gone with refStop := true, relock := if c.relock = .none then .none else .requested }
        (some Off.refLossCount) (some 0)) ∧
    (c.coasting = true → c.coastLong = false → ends (.coastLong p) { c with coastLong := true } none (some 3)) ∧
    (c.refPresent = false →
      (c.refStop = true →
        ends (.refReacquired p inRange) { back with
          refStop := false, safe := true, locked := false, relock := if c.relock = .none then .none else .tuning } none none) ∧
      (c.refStop = false → inRange = true → c.coastLong = false →
        ends (.refReacquired p inRange) back (some Off.realignCount) (some 2)) ∧
      (c.refStop = false → (inRange = false ∨ c.coastLong = true) →
        ends (.refReacquired p inRange) { back with relock := .requested, want := none } none none))

/-! ## The Warden -/

/-- R151, R153, R155, R157 and R158, an epoch: time reaches the next microsecond, what was delivered takes effect, and the pool is divided:
all excesses where they fit, or else equal shares that use the whole of it; in the raw window the governor compares the scaled reading. -/
def Claim.EpochDivision : Prop :=
  ∀ (s : State) (x : Sample), s.warden.thermtrip = false → s.warden.lock = true → x.temps.any (·.isSome) = true →
    ∃ t, exec (.wardenEpoch x) s = .next t ∧ t.warden.dieTime = (s.warden.dieTime / 1000 + 1) * 1000 ∧
      t.warden.epoch = s.warden.epoch + 1 ∧ t.warden.skip = s.warden.nextSkip ∧ t.warden.floors = s.warden.floors ∧
      (∀ n, t.warden.grant.get n = (if (s.pol n).boot = .run then s.warden.nextGrant.get n else 0) ∧
        (t.pol n).wharf.grant = t.warden.grant.get n ∧
        ((s.pol n).boot ≠ .run ∨ (s.pol n).busy → (t.pol n).mem = (s.pol n).mem)) ∧
      let w := t.warden
      let share (n : Ix4) : Nat := w.nextGrant.get n - w.floors.get n
      let excess (n : Ix4) : Nat :=
        if (s.pol n).boot = .run then min (w.req.get n) (w.pool + w.floors.get n) - w.floors.get n else 0
      let sum (f : Ix4 → Nat) : Nat := f .i0 + f .i1 + f .i2 + f .i3
      (∀ n, ((s.pol n).boot = .run → w.floors.get n ≤ w.nextGrant.get n) ∧ ((s.pol n).boot ≠ .run → w.nextGrant.get n = 0)) ∧
      (sum excess ≤ w.pEff → ∀ n, (s.pol n).boot = .run → w.nextGrant.get n = w.floors.get n + excess n) ∧
      (w.pEff < sum excess → sum (fun n => if (s.pol n).boot = .run then share n else 0) = w.pEff ∧
        ∀ n m, (s.pol n).boot = .run → (s.pol m).boot = .run → share n < excess n → share m ≤ share n + 1) ∧
      (w.temp < 16 * w.tSoft → w.vrHalved.toList.any id = false → w.pEff = w.pool) ∧
      (16 * (w.tHard : Int) ≤ w.temp → 16 * (w.tSoft : Int) ≤ w.temp → w.pEff = 0) ∧
      (w.vrForce = true → w.nextSkip = Quad.const 48) ∧
      (w.vrForce = false → w.rawWindow = true → w.overB = false → ∀ n, (s.pol n).boot = .run →
        let e := w.imon.get n
        let g := w.nextGrant.get n
        let old := s.warden.nextSkip.get n
        w.nextSkip.get n =
          if g < e then min 56 (old + (64 * (e - g) + e - 1) / e) else if e + 4 < g ∧ 0 < old then old - 1 else old)

/-- R148, R164 to R167, R176 and R177, the Warden's pins and its regulators: VR_HOT# forces quarter rate, VR_ALERT#, the calibration
clock, eight epochs over the budget, and the answers to its polls. -/
def Claim.WardenSignals : Prop :=
  ∀ (s : State) (n : Ix4) (a : Nat) (v : BitVec 16) (ans : Quad (Option (BitVec 16))),
    let w := s.warden
    let stuck (t : State) (k : Nat) : Prop := bitOf (t.warden.wreg 0xC) k = true
    let counted (t : State) (o : Nat) : Prop := t.warden.count o = (w.count o + 1) % 2 ^ 48
    (∃ t, exec .vrHot s = .next t ∧ t.warden.skip = Quad.const 48 ∧ t.warden.nextSkip = Quad.const 48 ∧ t.warden.vrForce = true ∧
      counted t 0x90 ∧ stuck t 0 ∧ ∀ p, (t.pol p).clocks.window.next = 48 ∧ (t.pol p).mem = (s.pol p).mem) ∧
    (w.vrForce = true → ∃ t, exec .vrHotRelease s = .next t ∧ t.warden.vrHotPin = false ∧ t.warden.vrForce = false ∧
      ∀ p, t.warden.nextSkip.get p = (if w.live.get p = 1 then w.nextSkip.get p else 0) ∧
        t.warden.skip.get p = (if w.live.get p = 1 then w.skip.get p else 0) ∧
        (t.pol p).clocks.window.next = (if w.live.get p = 1 then (s.pol p).clocks.window.next else 0) ∧
        (t.pol p).mem = (s.pol p).mem) ∧
    (∃ t, exec .vrAlert s = .next t ∧ t.warden.vrAlertPin = true ∧ t.warden.vrUnread = Quad.const true ∧ stuck t 1 ∧
      t.polders = s.polders) ∧
    (∃ t, exec .calLost s = .next t ∧ t.peRefclk = false ∧ t.warden.clkCal = false ∧ stuck t 7 ∧ t.polders = s.polders) ∧
    exec .pcieRefclkReturn s = .next { s with peRefclk := true, warden := { s.warden with clkCal := true } } ∧
    (8 ≤ w.overRun → w.overB = false →
      ∃ t, exec .overbudget s = .next t ∧ t.warden.overB = true ∧ counted t 0xA0 ∧ stuck t 6 ∧ t.polders = s.polders) ∧
    (w.pmbusAddr.get n ≠ 0 → w.vrAlertPin = true → v.getLsbD 4 = false → v.getLsbD 5 = false →
      ∃ t, exec (.statusWord n (some v)) s = .next t ∧
        t.warden.vrHalved.get n = (v.getLsbD 2 || v.getLsbD 14) ∧ t.warden.misses.get n = 0 ∧ t.warden.vrUnread.get n = false ∧
        t.polders = s.polders ∧ ((v.getLsbD 2 || v.getLsbD 14) = true → t.warden.vrAlertPin = true) ∧
        ((v.getLsbD 2 || v.getLsbD 14) = false →
          (∀ k, k ≠ n → w.pmbusAddr.get k = 0 ∨ w.vrUnread.get k = false ∧ w.vrHalved.get k = false) → t.warden.vrAlertPin = false)) ∧
    (w.pmbusAddr.get n ≠ 0 → w.vrAlertPin = true → v.getLsbD 4 = true ∨ v.getLsbD 5 = true → w.lock = true → w.thermtrip = false →
      ∃ t, exec (.statusWord n (some v)) s = .next t ∧
        ∀ p, (s.pol p).boot ≠ .absent → Restarted (s.pol p) (t.pol p) .railfault) ∧
    (w.pmbusAddr.get n ≠ 0 → w.vrAlertPin = true → 2 ≤ w.misses.get n →
      ∃ t, exec (.statusWord n none) s = .next t ∧ t.warden.misses.get n = 0 ∧ counted t 0xA8 ∧ stuck t 4) ∧
    (a ≠ 0 → w.pmbusAddr = ⟨a, 0, 0, 0⟩ → ans.a0 = some v → v.toNat / 2 ^ 11 = 0 → v.toNat < 0x400 →
      (∃ t, exec (.readIout ans) s = .next t ∧ t.warden.iout = 16 * v.toNat ∧ t.polders = s.polders ∧
        (w.corrOff = false → 4 * (65536 * v.toNat) < 3 * (32768 * w.rawSum) → t.warden.scaleNum = 3 ∧ t.warden.scaleDen = 4)) ∧
      ∃ t, exec (.readTemperature1 ans) s = .next t ∧ t.warden.vrTemp = 16 * v.toNat ∧ t.polders = s.polders)

/-- R178, a host write to PF4 after WARDEN_LOCK: one of a field the charter sets impounds the host there and changes no field, and one of
WARDEN_STICKY clears the bits written as 1. -/
def Claim.WardenWrites : Prop :=
  ∀ (s : State) (v : Word), s.pf4.linkUp = true → s.pf4.mse = true → s.warden.lock = true → s.warden.imp = none →
    s.warden.wholder = none →
    (∀ o ∈ [0x10, 0x14, 0x18, 0x1C, 0x20, 0x28, 0x2C, 0x30, 0x34],
      ∃ t, exec (.wardenWrite o 4 (v.setWidth 64) Coincide.none) s = .next t ∧ t.warden = { s.warden with imp := some o } ∧
        t.polders = s.polders) ∧
    ∃ t, exec (.wardenWrite 0xC 4 (v.setWidth 64) Coincide.none) s = .next t ∧
      (∀ k < 8, bitOf (t.warden.wreg 0xC) k = (bitOf (s.warden.wreg 0xC) k && !v.getLsbD k)) ∧
      t.warden.floors = s.warden.floors ∧ t.polders = s.polders

/-! ## The Wharf -/

/-- R182, R183, R185 to R187, a doorbell brings the tail, of a ring with EN or not, and a waybill that is read goes into the pool with the
fields of its 128 bytes, MHEAD advancing; one that fails a check never enters the pool and sets MALFORMED_SEEN. -/
def Claim.WaybillReads : Prop :=
  ∀ (s : State) (p : Ix4) (n : Nat) (m : Master) (v : Word), (s.pol p).boot = .opened ∨ (s.pol p).boot = .run →
    (s.pol p).clocks.stopped = false →
    let q := s.pol p
    let a := q.ringBase n + 128 * q.ptr n 1
    let bs := q.mem.readBytes a 128
    let f (o k : Nat) : Nat := leNat ((bs.drop o).take k)
    (WritePasses s p m Off.doorbell → v.toNat % 16 = n →
      (q.ptr n 0 ≠ q.ptr n 1 ∨ (q.wharf.ring n).mtail % q.ringSize n = q.ptr n 1 ∧ (q.wharf.ring n).moved = false) →
      ∃ t, exec (.doorbell p m v) s = .next t ∧ ((t.pol p).wharf.ring n).mtail = q.ptr n 0 ∧ (t.pol p).mem = q.mem) ∧
    (q.nextRing = some n → q.memctl.errs = [] → q.Plain a 128 false → q.Serves →
      ∃ t, exec (.waybillRead p) s = .next t ∧
        (WellFormedBill bs → q.pclassCurrent (f 0xA 1 % 16) ≤ s.warden.floors.get p + s.warden.pool →
          (t.pol p).ptr n 1 = (q.ptr n 1 + 1) % q.ringSize n ∧
          ∃ w, (t.pol p).wharf.pool = q.wharf.pool ++ [w] ∧ w.id.toNat = f 0 8 ∧ w.cls.toNat = f 8 1 % 4 ∧
            w.prio.toNat = f 8 1 / 4 % 4 ∧ w.hold = bitOf (f 8 1) 4 ∧ w.kind.toNat = f 9 1 % 64 ∧ w.pclass.toNat = f 0xA 1 % 16 ∧
            w.size.toNat = f 0xA 1 / 16 % 4 ∧ w.energy.toNat = f 0xC 4 ∧ w.codeAddr.toNat = f 0x10 8 ∧ w.codeLen.toNat = f 0x18 4 ∧
            w.entry.toNat = f 0x1C 4 ∧ w.ctxAddr.toNat = f 0x20 8 ∧ w.ctxLen.toNat = f 0x28 4 ∧ w.seedCount = f 0x2C 1 ∧
            w.deadline = (if bitOf (f 0xB 1) 4 then none else some (q.wharf.tide + f 0xB 1 % 16)) ∧ w.ring = n ∧
            ((t.pol p).wharf.ring n).reserved = (q.wharf.ring n).reserved + 1) ∧
        (¬ WellFormedBill bs → (t.pol p).wharf.pool = q.wharf.pool ∧ bitOf ((t.pol p).stored Off.wharfSticky) 1 = true))

/-- R191, R195 to R197, from a candidate in the pool to its first instruction: admission to the lowest free berth and the free aligned
group with the highest base, preload into the spare half of the lowest busy berth, and the end of the code load. -/
def Claim.WaybillStarts : Prop :=
  ∀ (s : State) (p b : Ix4) (w : Waybill) (r : Run), (s.pol p).boot = .run → (s.pol p).clocks.stopped = false →
    let q := s.pol p
    let code := q.mem.readBytes w.codeAddr.toNat w.codeLen.toNat
    (q.wharf.pool = [w] → q.wharf.admitting = true → q.dozing = none →
      (∀ c, (s.bth p c).run = none ∧ (s.bth p c).impounded = false ∧ (s.bth p c).pre = none) → q.wbCurrent w ≤ q.wharf.grant →
      ∃ t, exec (.admission p) s = .next t ∧ (t.pol p).wharf.pool = [] ∧ (t.bth p .i0).phase = .loading ∧
        (∃ x, (t.bth p .i0).run = some x ∧ x.wb.id = w.id ∧ x.mills = 8 * 2 ^ w.size.toNat ∧ x.base + x.mills = 64) ∧
        (t.pol p).counter Off.admitCount = (q.counter Off.admitCount + 1) % 2 ^ 48 ∧
        ∀ c, c ≠ .i0 → (t.bth p c).run = none) ∧
    (w.ctxLen = 0 → q.memctl.errs = [] → q.Plain w.codeAddr.toNat w.codeLen.toNat false →
      (q.wharf.pool = [w] → q.wharf.grant < q.runCurrent + q.wbCurrent w → (∀ c, (s.bth p c).pre = none) →
        (s.bth p b).run.isSome = true → (s.bth p b).impounded = false → (s.bth p b).phase ≠ .loading →
        (∀ c, c.toNat < b.toNat → (s.bth p c).run = none ∨ (s.bth p c).impounded = true ∨ (s.bth p c).phase = .loading) →
        ∃ t, exec (.preload p) s = .next t ∧ (t.bth p b).pre = some w ∧ (t.bth p b).spare = code ∧
          (t.bth p b).run = (s.bth p b).run ∧ (t.bth p b).half = (s.bth p b).half ∧ ∀ c, c ≠ b → t.bth p c = s.bth p c) ∧
      ((s.bth p b).phase = .loading → (s.bth p b).run = some r → r.wb = w → (s.bth p b).impounded = false →
        ∃ t, exec (.codeLoadDone p b) s = .next t ∧ (t.bth p b).phase = .running ∧ (t.bth p b).pc = w.entry.toNat ∧
          (t.bth p b).codeLen = w.codeLen.toNat ∧ (t.bth p b).half = (!(s.bth p b).half) ∧
          (if (t.bth p b).half then (t.bth p b).code1 else (t.bth p b).code0) = code ∧
          (t.bth p b).stack.map Slot.val = (w.seeds.take w.seedCount).reverse ∧ (t.bth p b).rstack = [] ∧
          (t.bth p b).tallies = List.replicate 16 0 ∧ OthersKeep s t p b))

/-- R108, R114, R203, R206, R241, R246 and R548: the tide boundary from OPEN and in RUN, the slack interrupt, doze and wake. -/
def Claim.TideEvents : Prop :=
  ∀ (s : State) (p b : Ix4) (dt : Nat),
    let q := s.pol p
    let ns := s.basinTime p dt
    let tide := ns / (q.stored Off.tidePeriod % 2 ^ 17 * 1000)
    q.clocks.stopped = false → (q.alone = true ∨ q.basin.valid = true ∧ q.basin.slew = 0) →
    (q.Serves → q.wharf.frozen = false → q.wharf.tide < tide → (q.boot = .opened ∨ q.boot = .run) →
      ∃ t, exec (.tideBoundary p dt) s = .next t ∧ (t.pol p).boot = .run ∧ (t.pol p).wharf.tide = tide ∧
        (q.boot = .opened → (t.pol p).runTime = s.warden.dieTime + dt) ∧ (t.pol p).held = q.heldNext ∧ (t.pol p).heldNext = [] ∧
        (∀ w ∈ (t.pol p).wharf.pool, ∀ d ∈ w.deadline, tide ≤ d) ∧
        (∀ r, (s.bth p b).run = some r → (s.bth p b).impounded = false → (∃ d ∈ r.wb.deadline, d < tide) →
          (t.bth p b).run = none ∧ (t.bth p b).phase = .idle)) ∧
    (q.boot = .run → q.wharf.frozen = false → q.wharf.slackFired = false → q.stored Off.slack % 2 ^ 17 ≠ 0 →
      (q.wharf.tide + 1) * (q.stored Off.tidePeriod % 2 ^ 17 * 1000) ≤ ns + q.stored Off.slack % 2 ^ 17 * 1000 →
      ns < (q.wharf.tide + 1) * (q.stored Off.tidePeriod % 2 ^ 17 * 1000) →
      ∃ t, exec (.slack p dt) s = .next t ∧ (t.pol p).wharf.slackFired = true ∧
        ∀ r, (s.bth p b).run = some r → r.started = true → (t.bth p b).pend = (s.bth p b).pend ||| 1#4) ∧
    (q.boot = .run → q.dozing = none → q.wharf.grant = 0 →
      ∃ t, exec (.doze p) s = .next t ∧ (t.pol p).dozing = some true ∧ (t.pol p).wharf.admitting = false ∧
        (t.pol p).berths = q.berths) ∧
    (q.dozing = some true → q.wharf.grant ≠ 0 →
      ∃ t, exec (.wake p) s = .next t ∧ (t.pol p).dozing = none ∧ (t.pol p).wharf.admitting = true ∧ (t.pol p).berths = q.berths)

/-! ## Wide instructions -/

/-- R289, R290 and R299, LDW and LDWT: the plane of each selected mill holds the 32 vectors of A, as rows or turned, in A's format; memory
and every other plane stay. -/
def Claim.PlaneLoads : Prop :=
  ∀ (s : State) (p b : Ix4) (w : WideBody) (o : WideOps) (a : Operand) (turned : Bool), WideReady s p b → w.func = 0 →
    Operands s p b w o → o.a = some a →
    let q := s.pol p
    let x := s.bth p b
    let g := x.millGroup w.msel
    Unbroken s p b (distanceChecks o g g) (q.ldwShapeOk b w o) (ldwPlan q b w g a turned) →
    (∀ k < g.n, ∀ t, Store.find x.lastUse (planeKey (g.base + k) (wPlane w)) = some t → t + 66 ≤ loadCyc x w a turned 0) →
    ∃ t, exec (if turned then .ldwt p b w else .ldw p b w) s = .next t ∧ WideRetires s t p b o.rest q.mem ∧
      (∀ k < g.n,
        let pl := (t.pol p).plane (g.base + k) (wPlane w)
        let v (j i : Nat) : BitVec 16 := BitVec.ofNat 16 ((a.vec q b g k j).getD i 0)
        pl.elem = a.elem ∧ ∀ i < 32,
          (a.size = 2 → ∀ r < 32, ((pl.rows.getD r []).getD i 0) = if turned then v i r else v r i) ∧
          (a.size = 1 → ∀ r < 64, ((pl.rows.getD r []).getD i 0) = if turned then v i r else v (r / 2) (32 * (r % 2) + i))) ∧
      ∀ m l, ¬ (l = wPlane w ∧ g.base ≤ m ∧ m < g.base + g.n) → l < 2 → (t.pol p).plane m l = q.plane m l

/-- R266, R270, R291, R293 to R297, MM: row j of D at each mill is the product of vector j with the mill's plane, through the post-unit, with
D added where ACC is set, and lands 72 mc and D's latency after its entry; with 8-bit integers the product is the sum of the 64 products,
modulo 2^32. -/
def Claim.MatrixResults : Prop :=
  ∀ (s : State) (p b : Ix4) (w : WideBody) (o : WideOps) (d a : Operand) (e : Elem), WideReady s p b → Operands s p b w o →
    o.d = some d → o.a = some a →
    let q := s.pol p
    let x := s.bth p b
    let g := x.millGroup w.msel
    Unbroken s p b (distanceChecks o g g) (q.mmShapeOk b w o) (mmPlan q b w g d a) → q.mmAcc g (wPlane w) a.elem = some e →
    (∀ k < g.n, Store.getD x.ready (planeKey (g.base + k) (wPlane w)) 0 ≤ entry x.mc a.srcLat (wPace w) 0) →
    d.apart g a.count a g → (wAcc w = true → d.distinctRows g a.count) →
    let lane (j k n : Nat) : Word :=
      let pl := q.plane (g.base + k) (wPlane w)
      mmLane pl.elem a.elem pl.rows (a.vec q b g k j) n
    let vals (j k : Nat) : List Nat :=
      (postRow (PostFunc.of w.func) d.elem (wAcc w) ((List.range 32).map (fun n => accVal e (lane j k n)))
        (if wAcc w then d.oldRow q g k j else []) []).map (·.val)
    ∃ t, exec (.mm p b w) s = .next t ∧ WideRetires s t p b o.rest q.mem ∧ (t.pol p).planes = q.planes ∧
      RowsFly (t.bth p b) d g a.count (fun j => entry x.mc a.srcLat (wPace w) j + 72 + d.lat) vals ∧
      (a.elem = .int8 → ∀ j k n,
        let rows := (q.plane (g.base + k) (wPlane w)).rows
        lane j k n = BitVec.ofInt 32 (((List.range 64).map (fun i =>
          ((BitVec.ofNat 8 ((rows.getD i []).getD n 0).toNat).toInt *
            (BitVec.ofNat 8 ((a.vec q b g k j).getD (i / 2 + 32 * (i % 2)) 0)).toInt : Int))).sum))

/-- R266, R270, R292, R298, MMO: the 32 rows of D at each mill are the sum of the outer products of A's and B's vectors, through the
post-unit, row r landing 73 + r mc and D's latency after the last entry. -/
def Claim.OuterResults : Prop :=
  ∀ (s : State) (p b : Ix4) (w : WideBody) (o : WideOps) (d a y : Operand) (e : Elem), WideReady s p b → Operands s p b w o →
    o.d = some d → o.a = some a → o.b = some y → accOf a.elem y.elem = some e →
    let q := s.pol p
    let x := s.bth p b
    let g := x.millGroup w.msel
    Unbroken s p b (distanceChecks o g g) (q.mmoShapeOk b w o) (mmoPlan q b w g d a y) →
    (wAcc w = true → d.distinctRows g 32) →
    let vals (r k : Nat) : List Nat :=
      let sums := (List.range 32).map (fun n => accVal e (mmoLane a.elem y.elem ((List.range a.count).map (a.vec q b g k))
        ((List.range y.count).map (y.vec q b g k)) r n))
      (postRow (PostFunc.of w.func) d.elem (wAcc w) sums (if wAcc w then d.oldRow q g k r else []) []).map (·.val)
    ∃ t, exec (.mmo p b w) s = .next t ∧ WideRetires s t p b o.rest q.mem ∧ (t.pol p).planes = q.planes ∧
      RowsFly (t.bth p b) d g 32
        (fun r => entry x.mc (max a.srcLat y.srcLat) (wPace w) (a.count - 1) + 73 + r + d.lat) vals

/-- R266, R270, R300 to R305, POST on each vector of A, its rows landing 6 mc and D's latency after their entry, and RED_SUM, RED_MAX and
RED_MIN over the mills of the group into the bin of its first, two cycles later for each level of the tree. -/
def Claim.PostAndReduce : Prop :=
  ∀ (s : State) (p b : Ix4) (w : WideBody) (o : WideOps) (d a : Operand), WideReady s p b → Operands s p b w o →
    o.d = some d → o.a = some a →
    let q := s.pol p
    let x := s.bth p b
    let g := x.millGroup w.msel
    let rows := a.count * a.rowsPer
    let lanes (j k : Nat) : List PostVal :=
      (((a.vec q b g k (j / a.rowsPer)).drop (32 * (j % a.rowsPer))).take 32).map (PostVal.of a.elem)
    (Unbroken s p b (distanceChecks o g g) (q.postShapeOk b w o) (postPlan q b w g d a o.b) → d.apart g rows a g →
      ∃ t, exec (.post p b w) s = .next t ∧ (t.pol p).planes = q.planes ∧ WideRetires s t p b o.rest q.mem ∧
        RowsFly (t.bth p b) d g rows (fun j => entry x.mc (postLat a o.b) (wPace w) (j / a.rowsPer) + 6 + d.lat) (fun j k =>
          (postRow (PostFunc.of w.func) d.elem false (lanes j k) []
            (match o.b with
              | some y => (y.vec q b g k 0).map word
              | none => [])).map (·.val))) ∧
    (Unbroken s p b (distanceChecks o g.first g) (q.redShapeOk b w o) (redPlan q b w g d a) → d.apart g.first rows a g →
      ∀ e ∈ [(Instr.redSum p b w, RedOp.sum), (.redMax p b w, .max), (.redMin p b w, .min)],
        ∃ t, exec e.1 s = .next t ∧ (t.pol p).planes = q.planes ∧ WideRetires s t p b o.rest q.mem ∧
          RowsFly (t.bth p b) d g.first rows
            (fun j => entry x.mc a.srcLat (wPace w) (j / a.rowsPer) + 2 * Nat.log2 g.n + 6 + d.lat) (fun j _ =>
              (postRow (PostFunc.of 0) d.elem false ((redTree e.2 g.levels ((List.range g.n).map (lanes j))).getD 0 []) [] []).map
                (·.val)))

/-- R277 to R280 and R328, MOV, TURN and their report: the copy holds A's elements in index order, TURN's with the first two extents
exchanged; until the report only D's bytes may change, and with it D holds the elements and the tally rises. -/
def Claim.CopyResults : Prop :=
  ∀ (s : State) (p b : Ix4) (w : WideBody) (o : WideOps) (d a : Operand) (op : CopyOp) (rest : List CopyOp) (dmc : Nat),
    let q := s.pol p
    let x := s.bth p b
    let g := x.ownGroup
    q.noReads →
    (WideReady s p b → x.Calm 1 → w.func = 0 → Operands s p b w o → o.d = some d → o.a = some a → a.mode ≠ .indexed → a.elem = d.elem →
      (∀ r ∈ a.runs q g, q.Plain r.1 r.2 false) → (∀ r ∈ d.runs q g, q.Plain r.1 r.2 true) → ∀ turn : Bool,
      Takes s p b .copy (copyChecks g o) (if turn then turnOk q g o else movOk o) →
      ∃ t new, exec (if turn then .turn p b w else .mov p b w) s = .next t ∧ (t.pol p).copy.length = q.copy.length + 1 ∧
        (t.pol p).copy.getLast? = some new ∧ new.berth = b ∧ new.stale = false ∧
        new.tally = w.tally.extractLsb' 4 4 ∧ new.inc = w.tally.extractLsb' 0 4 ∧ WideRetires s t p b o.rest (t.pol p).mem ∧
        (∀ i, (∀ y ∈ d.elements g, i < y ∨ y + d.size ≤ i) → (t.pol p).mem.read i = q.mem.read i) ∧
        (turn = false → new.out = a.bytesIn g q.mem) ∧
        (turn = true → ∀ z < a.sh.e2 * a.sh.e3, ∀ i < a.sh.e0, ∀ j < a.sh.e1,
          (new.out.drop (a.size * ((z * a.sh.e0 + i) * a.sh.e1 + j))).take a.size =
            ((a.bytesIn g q.mem).drop (a.size * ((z * a.sh.e1 + j) * a.sh.e0 + i))).take a.size)) ∧
    (q.clocks.stopped = false → q.copy = op :: rest → op.berth = b → q.Unheld b → x.Calm dmc →
      (s.dom p).changed b op.stale op.src op.snap = false →
      runsMeet op.src op.dst = false → op.out ≠ [] → (op.dst.map (·.2)).sum = op.out.length → q.memctl.errs = [] →
      (∀ r ∈ op.dst, q.Plain r.1 r.2 true) → op.dst.Pairwise (fun r r' => r.1 + r.2 ≤ r'.1 ∨ r'.1 + r'.2 ≤ r.1) →
      q.stored (Off.berth b.toNat + 0x1C) % 2 = 0 → x.phase ≠ .draining →
      ∃ t, exec (.copyReport p b 0 dmc) s = .next t ∧ (t.pol p).copy.map (·.out) = rest.map (·.out) ∧
        op.dst.flatMap (fun r => (t.pol p).mem.readBytes r.1 r.2) = op.out ∧
        (∀ i, (∀ r ∈ op.dst, i < r.1 ∨ r.1 + r.2 ≤ i) → (t.pol p).mem.read i = q.mem.read i) ∧ Reported s t p b op.tally op.inc ∧
        ∀ c, c ≠ b → t.bth p c = s.bth p c)

/-- R460, R462 to R464 and R469, PUT, MPUT and RPUT enter the XFER unit with A's bytes; a PUT to the polder itself lands them at its start;
a control block that breaks R463 fails there with RESULT 3; the report writes RESULT and raises the tally. -/
def Claim.TransferResults : Prop :=
  ∀ (s : State) (p b : Ix4) (w : WideBody) (o : WideOps) (a y : Operand) (op : XferOp) (rest : List XferOp) (dmc ca : Nat),
    let q := s.pol p
    let x := s.bth p b
    let g := x.ownGroup
    let blk (i n : Nat) : Nat := q.mem.readNat (ca + i) n
    let only (t : State) (lo n : Nat) : Prop := ∀ i, i < lo ∨ lo + n ≤ i → (t.pol p).mem.read i = q.mem.read i
    (WideReady s p b → x.Calm 1 → Operands s p b w o → o.a = some a → o.b = some y → (∀ r ∈ a.runs q g, q.Plain r.1 r.2 false) →
      ∀ e ∈ [(Instr.put p b w, 0), (.mput p b w, 1), (.rput p b w, 2)],
        Takes s p b .xfer (xferChecks g o) (xferOk w (decide (e.2 = 2)) o) →
        ∃ t new, exec e.1 s = .next t ∧ (t.pol p).lock.xfer = q.lock.xfer ++ [new] ∧ new.berth = b ∧ new.func = e.2 ∧
          new.bytes = a.bytesIn g q.mem ∧ new.ctlAt = y.runs q g ∧ new.ctl = none ∧ new.code = none ∧
          new.tally = w.tally.extractLsb' 4 4 ∧ new.inc = w.tally.extractLsb' 0 4 ∧ WideRetires s t p b o.rest q.mem) ∧
    (q.clocks.stopped = false → q.lock.xfer = op :: rest → op.berth = b → op.ctlAt = [(ca, 32)] → q.memctl.errs = [] → q.Unheld b →
      (op.ctl = none → op.code = none → q.Plain ca 32 false → (∀ z ∈ rest, z.token ≠ op.token) →
        (op.func = 0 → blk 0 2 % 4096 = q.addr.toNat → blk 2 1 % 64 = q.grid.toNat →
          (s.dom p).changed b op.stale op.src op.bytes = false → q.noReads →
          let ra := blk 8 8 % 2 ^ 48
          q.landable ra op.bytes.length = true → q.Plain ra op.bytes.length true → blk 0x10 4 < 2 ^ 31 →
          ∃ t, exec (.xferStart p b) s = .next t ∧ (t.pol p).mem.readBytes ra op.bytes.length = op.bytes ∧ only t ra op.bytes.length ∧
            (t.pol p).lock.xfer.map (·.formed) = op.bytes.length :: rest.map (·.formed)) ∧
        (op.func = 2 → blk 4 1 = 0 → blk 2 1 % 64 = q.grid.toNat →
          ∃ t, exec (.xferStart p b) s = .next t ∧ (t.pol p).lock.xfer.map (·.code) = some 3 :: rest.map (·.code) ∧
            (t.pol p).mem = q.mem)) ∧
      (q.xferEnded op = true → q.Plain (ca + 0x14) 4 true → q.noReads → x.Calm dmc → q.stored (Off.berth b.toNat + 0x1C) % 2 = 0 →
        x.phase ≠ .draining →
        ∃ t, exec (.xferReport p b 0 dmc) s = .next t ∧ (t.pol p).lock.xfer.map (·.token) = rest.map (·.token) ∧
          (t.pol p).mem.readNat (ca + 0x14) 4 = op.code.getD 0 % 2 ^ 32 ∧ only t (ca + 0x14) 4 ∧ Reported s t p b op.tally op.inc))

/-! ## The Gleaner -/

/-- R353 to R356, R358 to R364 and R379, lookups of rows of the polder's own, nothing else waiting for the Gleaner: the operation holds A's
entries and the rows they name as they are in memory, with their scales; its report writes what those rows give to D, and raises the
tally. -/
def Claim.Lookups : Prop :=
  ∀ (s : State) (p b : Ix4) (w : WideBody) (o : WideOps) (a : Operand) (op : GlOp) (rest : List GlOp) (dmc : Nat),
    let q := s.pol p
    let g := (s.bth p b).ownGroup
    let tb := q.glTable (w.msel.toNat % 64)
    let entries := glEntries ((a.packed (8 * a.sh.e0)).bytesIn g q.mem)
    (∀ e ∈ [(Instr.gleanSum p b w, 0), (.gleanMean p b w, 1), (.gleanMax p b w, 2), (.wsum p b w, 3), (.gather p b w, 0x10),
        (.warm p b w, 0x18)],
      WideReady s p b → (s.bth p b).Calm 1 → Operands s p b w o → o.a = some a → q.queued b .gleaner < 16 →
      q.wideCheck b (glChecks tb e.2 g o) (glSixth tb e.2 o) = none → tb.good = true → q.memctl.errs = [] → q.noReads →
      (∀ r ∈ (a.packed (8 * a.sh.e0)).runs q g, q.Plain r.1 r.2 false) →
      (∀ l ∈ o.b, ∀ r ∈ (l.packed (tb.listBytes e.2 o.d a.sh.e0)).runs q g, q.Plain r.1 r.2 false) →
      (∀ d ∈ o.d, ∀ r ∈ d.runs q g, q.Plain r.1 r.2 true) → q.GleanerFree →
      (∀ x ∈ entries, OwnRow q tb x.1.toNat ∧ ∀ d ∈ o.d, ∀ y ∈ d.elements g, ∀ r ∈ q.rowReads tb x.1.toNat,
        y + d.size ≤ r.1 ∨ r.1 + r.2 ≤ y) →
      ∃ t new, exec e.1 s = .next t ∧ (t.pol p).gleaner.ops = q.gleaner.ops ++ [new] ∧ new.berth = b ∧ new.func = e.2 ∧
        new.entries = entries ∧ new.started = true ∧ new.waits = [] ∧ new.fail = none ∧ new.tally = w.tally.extractLsb' 4 4 ∧
        new.inc = w.tally.extractLsb' 0 4 ∧
        (∀ i (h : i < entries.length), Store.find new.rows i = some (q.rowIn tb (entries[i]).1.toNat)) ∧
        WideRetires s t p b o.rest (t.pol p).mem ∧
        ∀ i, (∀ d ∈ o.d, ∀ y ∈ d.elements g, i < y ∨ y + d.size ≤ i) → (t.pol p).mem.read i = q.mem.read i) ∧
    (q.clocks.stopped = false → q.gleaner.ops = op :: rest → op.berth = b → op.func < 0x20 → op.started = true → op.waits = [] → op.fail = none →
      q.Unheld b → (s.bth p b).Calm dmc → q.memctl.errs = [] → (op.dst.map (·.2)).sum = (op.result (q.glTable op.table)).length →
      (∀ r ∈ op.dst, q.Plain r.1 r.2 true) → op.dst.Pairwise (fun r r' => r.1 + r.2 ≤ r'.1 ∨ r'.1 + r'.2 ≤ r.1) →
      q.stored (Off.berth b.toNat + 0x1C) % 2 = 0 → (s.bth p b).phase ≠ .draining →
      ∃ t, exec (.gleanReport p b 0 dmc) s = .next t ∧ (t.pol p).gleaner.ops = rest ∧
        op.dst.flatMap (fun r => (t.pol p).mem.readBytes r.1 r.2) = op.result (q.glTable op.table) ∧
        (∀ i, (∀ r ∈ op.dst, i < r.1 ∨ r.1 + r.2 ≤ i) → (t.pol p).mem.read i = q.mem.read i) ∧ Reported s t p b op.tally op.inc)

/-- R368 to R371 and R373 to R377, an update of one row of the polder's own, by ASSIGN, ADD or AXPY or by a GLUPD frame: the row's pending
slot holds the new row, the published row stays; and a published slot is copied back to its row and freed. -/
def Claim.RowUpdates : Prop :=
  ∀ (s : State) (p b : Ix4) (w : WideBody) (o : WideOps) (a l : Operand) (sd : Side) (h : Heard) (inbox : List Heard) (i : Nat)
      (aux : Word) (pay : List Byte) (slot : PendSlot),
    let q := s.pol p
    let g := (s.bth p b).ownGroup
    let tb := q.glTable (w.msel.toNat % 64)
    let (old, scale) := q.rowIn tb i
    let xs : List Word := (pieces 4 (pay.length + 1) pay).map (fun x => BitVec.ofNat 32 (leNat x))
    let sums (axpy : Bool) : List Word :=
      ((tb.lanes old scale).zip xs).map (fun x => f32add x.1 (if axpy then f32mul aux x.2 else x.2))
    let result (func : Nat) : List Byte :=
      if func = 0x20 then pay.take (tb.rowBytes + 4) else (tb.requant 0 (sums (decide (func = 0x22)))).1 ++ natLe 4 scale.toNat
    let finite (func : Nat) : Prop :=
      if func = 0x20 then (tb.lanes (pay.take tb.rowBytes) (BitVec.ofNat 32 (leNat ((pay.drop tb.rowBytes).take 4)))).all f32finite = true
      else tb.scaled = false ∧ (sums (decide (func = 0x22))).all f32finite = true ∧
        (tb.lanes (tb.requant 0 (sums (decide (func = 0x22)))).1 0).all f32finite = true
    let slotHolds (t : State) (func : Nat) : Prop :=
      (t.pol p).mem.readBytes tb.pbase (tb.rowBytes + 4) = result func ∧
      (t.pol p).gleaner.slots = ⟨tb.t, tb.ell i, i, 0, false⟩ :: q.gleaner.slots ∧
      (∀ x, x < tb.pbase ∨ tb.pbase + tb.rowBytes + 4 ≤ x → (t.pol p).mem.read x = q.mem.read x)
    tb.valid = true → tb.good = true → 0 < tb.publish → q.memctl.errs = [] → q.noReads → (∀ y ∈ q.gleaner.ops, y.started = true) →
    (OwnRow q tb i → FreeSlot q tb →
      (∀ e ∈ [(Instr.assign p b w, 0x20), (.gleanAdd p b w, 0x21), (.axpy p b w, 0x22)],
        WideReady s p b → (s.bth p b).Calm 1 → q.GleanerFree → Operands s p b w o → o.a = some a → o.b = some l → a.sh.e0 = 1 →
        q.queued b .gleaner < 16 →
        q.wideCheck b (glChecks tb e.2 g o) (glSixth tb e.2 o) = none →
        (∀ r ∈ (a.packed 8).runs q g, q.Plain r.1 r.2 false) →
        (∀ r ∈ (l.packed (tb.payBytes e.2)).runs q g, q.Plain r.1 r.2 false) →
        glEntries ((a.packed 8).bytesIn g q.mem) = [(BitVec.ofNat 32 i, aux)] → i < 2 ^ 32 →
        (l.packed (tb.payBytes e.2)).bytesIn g q.mem = pay → finite e.2 →
        ∃ t new, exec e.1 s = .next t ∧ slotHolds t e.2 ∧ (t.pol p).gleaner.ops = q.gleaner.ops ++ [new] ∧ new.berth = b ∧
          new.func = e.2 ∧ WideRetires s t p b o.rest (t.pol p).mem) ∧
      (NextFrame q sd h inbox → q.glFrame h.frame = true → frameOp h.frame = 6 → segRaddr h.frame = 0 →
        (segTag h.frame).toNat = tb.t + 256 * 0x20 → segData h.frame = natLe 4 i ++ natLe 4 aux.toNat ++ pay →
        i < 2 ^ 32 → pay.length = tb.rowBytes + 8 → finite 0x20 →
        ∃ t, exec (.glupd p sd) s = .next t ∧ slotHolds t 0x20 ∧ Landed q (t.pol p) sd h inbox)) ∧
    (q.clocks.stopped = false → q.gleaner.slots = [slot] → slot.committing = true → slot.table = tb.t → tb.scaled = false →
      q.Plain (tb.slotAt slot.slot) (tb.rowBytes + 4) false → q.Plain (tb.rowAt slot.ell) tb.rowBytes true →
      ∃ t, exec (.committingDone p) s = .next t ∧ (t.pol p).gleaner.slots = [] ∧
        (t.pol p).mem.readBytes (tb.rowAt slot.ell) tb.rowBytes = q.mem.readBytes (tb.slotAt slot.slot) tb.rowBytes ∧
        ∀ x, x < tb.rowAt slot.ell ∨ tb.rowAt slot.ell + tb.rowBytes ≤ x → (t.pol p).mem.read x = q.mem.read x)

/-- R363, R364 and R478, between Gleaners: a request for one row of the polder's own is answered with that row and its scale on the stream
to the asker; an answer that is whole gives its row to the operation that waits for it. -/
def Claim.RemoteRows : Prop :=
  ∀ (s : State) (p : Ix4) (sd : Side) (h : Heard) (inbox : List Heard) (n g : Nat) (op : GlOp) (ops : List GlOp) (ent : Nat),
    let q := s.pol p
    let f := h.frame
    let tb := q.glTable n
    let src := q.rowIn tb g
    NextFrame q sd h inbox → q.glFrame f = true → n < 64 → tb.good = true → q.memctl.errs = [] → tb.rowBytes + 4 ≤ 1008 →
    (∀ y ∈ q.gleaner.ops, y.started = true) →
    (frameOp f = 4 → (segTag f).toNat % 64 = n → tb.valid = true → segData f = natLe 4 g → g < 2 ^ 32 → OwnRow q tb g →
      f.sgrid = q.grid → f.src ≠ q.addr →
      ∃ t x, exec (.glreq p sd) s = .next t ∧ Landed q (t.pol p) sd h inbox ∧ (t.pol p).mem = q.mem ∧
        ((t.pol p).txOf f.src q.grid 0).frames = (q.txOf f.src q.grid 0).frames ++ [x] ∧ x.frame.dst = f.src ∧
        frameOp x.frame = 5 ∧ x.frame.payload = segHeader 0 f.seq (segTag f) ++ src.1 ++ natLe 4 src.2.toNat ∧ x.queued = true) ∧
    (frameOp f = 5 → q.gleaner.ops = op :: ops → op.func ≠ 0x18 → op.table = n → op.waits = [⟨f.sgrid ++ f.src, segRnote f, [ent], []⟩] →
      (∀ y ∈ ops, y.token ≠ op.token) → (segData f).length = tb.rowBytes + 4 → bitOf (q.stored (Off.gleaner + 4)) 4 = false →
      ∃ t, exec (.glrow p sd) s = .next t ∧ Landed q (t.pol p) sd h inbox ∧ (t.pol p).mem = q.mem ∧
        ∃ new, (t.pol p).gleaner.ops = new :: ops ∧ new.waits = [] ∧
          Store.find new.rows ent = some ((segData f).take tb.rowBytes, BitVec.ofNat 32 (leNat ((segData f).drop tb.rowBytes))))

/-! ## The Ledger -/

/-- R391, R392, R395, R400 and R410, the Ledger's instructions: the operation enters with its control block, and with nothing before it and
pages enough it runs; an OPEN, CLOSE or FETCH sets LAST_TIDE. PAGEWAIT starts the oldest waiter once its pages are free. -/
def Claim.LedgerStarts : Prop :=
  ∀ (s : State) (p b : Ix4) (w : WideBody) (o : WideOps) (y : Operand) (op : LgOp) (n : Nat),
    let q := s.pol p
    let g := (s.bth p b).ownGroup
    q.ledger.swaps = [] → q.memctl.errs = [] → q.noReads →
    (∀ e ∈ [(Instr.append p b w, 0), (.attend p b w, 1), (.backward p b w, 2), (.ledgOpen p b w, 0x10), (.ledgClose p b w, 0x11),
        (.ledgFetch p b w, 0x12)],
      WideReady s p b → (s.bth p b).Calm 1 → w.msel = 0 → q.lgGeom.good = true → Operands s p b w o → o.b = some y →
      q.ledger.ops = [] →
      Takes s p b .ledger (lgChecks g o) (lgShape e.2 o) → (∀ r ∈ (y.packed 64).runs q g, q.Plain r.1 r.2 false) →
      (∀ a ∈ o.a, a.mode ≠ .indexed ∧ ∀ r ∈ a.runs q g, q.Plain r.1 r.2 false) →
      op.berth = b → op.func = e.2 → op.ctl = LgCtl.parse ((y.packed 64).bytesIn g q.mem) →
      (∀ a ∈ o.a, op.a = a.bytesIn g q.mem ∧ op.aElem = a.elem ∧ op.aShape = a.rowShape) →
      (∀ d ∈ o.d, op.dst = d.runs q g ∧ op.dElem = d.elem ∧ op.dShape = d.rowShape ∧ (∀ r ∈ op.dst, q.Plain r.1 r.2 true ∧
        Apart [r, (q.lgGeom.seqAt op.ctl.seq, 32)] ∧ Apart [r, (q.lgGeom.entryAt op.ctl.seq 0, 4 * q.lgGeom.entries)]) ∧
        (e.2 = 2 → op.oRuns = joinRuns q (d.laidOut g op.ctl.oAddr op.ofmt.size) ∧
          op.doRuns = joinRuns q (d.laidOut g op.ctl.doAddr op.ofmt.size))) →
      LgReady q op → q.lgWants op ≤ q.freePages →
      ∃ t new, exec e.1 s = .next t ∧ (t.pol p).ledger.ops = [new] ∧ new.wait = .running ∧ new.berth = b ∧ new.func = e.2 ∧
        new.ctl = op.ctl ∧ new.tally = w.tally.extractLsb' 4 4 ∧ new.inc = w.tally.extractLsb' 0 4 ∧
        (∀ a ∈ o.a, new.a = op.a ∧ new.aElem = op.aElem) ∧ (∀ d ∈ o.d, new.dst = op.dst ∧ new.dElem = op.dElem) ∧
        WideRetires s t p b o.rest (t.pol p).mem ∧ (t.pol p).ledger.used.length = q.ledger.used.length + q.lgWants op ∧
        (e.2 ∈ [0x10, 0x11, 0x12] → ((t.pol p).lgSeq op.ctl.seq).tide = q.wharf.tide % 2 ^ 64)) ∧
    (q.clocks.stopped = false → q.ledger.ops = [op] → op.wait = .pages n → n ≤ q.freePages → LgReady q op → q.lgWants op ≤ q.freePages →
      q.Unheld op.berth →
      ∃ t new, exec (.pagewait p) s = .next t ∧ (t.pol p).ledger.ops = [new] ∧ new.wait = .running ∧ new.berth = op.berth ∧
        new.func = op.func ∧ new.ctl = op.ctl ∧ new.a = op.a ∧ new.dst = op.dst ∧ new.tally = op.tally ∧ new.inc = op.inc ∧
        (t.pol p).ledger.used.length = q.ledger.used.length + q.lgWants op)

/-- R393, R394, R397 and R410, LEDG_REPORT: OPEN leaves the sequence RESIDENT and empty, CLOSE leaves it FREE with an empty page table,
APPEND leaves the token in its page and LEN behind it, and ATTEND leaves its rows in D; the operation is gone and its tally risen. -/
def Claim.LedgerReports : Prop :=
  ∀ (s : State) (p b : Ix4) (dmc : Nat) (op : LgOp),
    let q := s.pol p
    let g := q.lgGeom
    let sq := op.ctl.seq
    let x := q.lgSeq sq
    let ends (t : State) : Prop :=
      exec (.ledgReport p b 0 dmc) s = .next t ∧ (t.pol p).ledger.ops = [] ∧ Reported s t p b op.tally op.inc
    q.clocks.stopped = false → q.ledger.ops = [op] → q.ledger.swaps = [] → op.berth = b → op.wait = .running → q.memctl.errs = [] →
    q.stored (Off.berth b.toNat + 0x1C) % 2 = 0 → (s.bth p b).phase ≠ .draining → (s.bth p b).Calm dmc → q.Unheld b →
    q.Owned (g.seqAt sq) 32 → (s.dom p).changed b op.stale op.src op.snap = false →
    (op.func = 0x10 → ∃ t, ends t ∧
      let y := (t.pol p).lgSeq sq
      y.state = 1 ∧ y.prio = op.ctl.prio % 16 ∧ y.len = 0 ∧ y.pages = 0 ∧ y.windowed = bitOf op.ctl.cflags.toNat 3 ∧
        y.window = if bitOf op.ctl.cflags.toNat 3 then op.ctl.window % 2 ^ 32 else 0) ∧
    (op.func = 0x11 → Apart [(g.seqAt sq, 32), (g.entryAt sq 0, 4 * g.entries)] → (∀ i < g.entries, q.Owned (g.entryAt sq i) 4) →
      ∃ t, ends t ∧ ((t.pol p).lgSeq sq).state = 0 ∧ ∀ i < g.entries, (t.pol p).lgEntry sq i = 0) ∧
    (op.func = 0x12 → ∃ t, ends t ∧ (t.pol p).mem = q.mem) ∧
    (op.func = 0 → op.ctl.n = 1 → op.a.length = 2 * g.kvBytes → ∀ k v, q.lgToken g x sq op.ctl.layer op.ctl.pos = some (k, v) →
      q.Plain k g.kvBytes true → q.Plain v g.kvBytes true → Apart [(g.seqAt sq, 32), (k, g.kvBytes), (v, g.kvBytes)] →
      ∃ t, ends t ∧ (t.pol p).mem.readBytes k g.kvBytes = op.a.take g.kvBytes ∧
        (t.pol p).mem.readBytes v g.kvBytes = op.a.drop g.kvBytes ∧ ((t.pol p).lgSeq sq).len = (op.ctl.pos + 1) % 2 ^ 32 ∧
        ∀ i, (∀ r ∈ [(g.seqAt sq, 32), (k, g.kvBytes), (v, g.kvBytes)], i < r.1 ∨ r.1 + r.2 ≤ i) → (t.pol p).mem.read i = q.mem.read i) ∧
    (op.func = 1 → bitOf op.ctl.cflags.toNat 0 = false → g.good = true →
      (∀ j < (lgSpan op.ctl x).2, q.lgReadable op ((lgSpan op.ctl x).1 + j)) → (∀ r ∈ op.dst, q.Plain r.1 r.2 true) → Apart op.dst →
      (op.dst.map (·.2)).sum = op.ctl.n * g.nh * g.hd * op.dElem.size →
      (wordsOf op.aElem op.a).length = op.ctl.n * g.nh * g.hd →
      ∃ t, ends t ∧ op.dst.flatMap (fun r => (t.pol p).mem.readBytes r.1 r.2) =
        (List.range (op.ctl.n * g.nh)).flatMap (fun r => (q.lgRow op (r / g.nh) (r % g.nh)).flatMap (fun u =>
          natLe op.dElem.size (op.dElem.convert true (f32num u)).val)))

/-- R399, R406 and R410, the report of a BACKWARD: it ends, and what it may have written is D and the gradient rows of the keys it sees; with
one query of one head that sees one key, D and the gradients are those of R399 (O and dO in the layout of D: log entry 124). -/
def Claim.BackwardReport : Prop :=
  ∀ (s : State) (p b : Ix4) (dmc : Nat) (op : LgOp),
    let q := s.pol p
    let g := q.lgGeom
    let c := op.ctl
    let x := q.lgSeq c.seq
    let sp := lgSpan c x
    let gr := lgGradRuns g x c
    let f32s (bs : List Byte) (i n : Nat) : List Word := (List.range n).map (fun k => BitVec.ofNat 32 (leNat ((bs.drop (i + 4 * k)).take 4)))
    let get (rs : List (Nat × Nat)) : List Byte := rs.flatMap (fun r => q.mem.readBytes r.1 r.2)
    q.clocks.stopped = false → q.ledger.ops = [op] → q.ledger.swaps = [] → op.berth = b → op.wait = .running → op.func = 2 →
    q.memctl.errs = [] → q.stored (Off.berth b.toNat + 0x1C) % 2 = 0 → (s.bth p b).phase ≠ .draining → (s.bth p b).Calm dmc →
    q.Unheld b → (s.dom p).changed b op.stale op.src op.snap = false →
    g.good = true → (∀ j < sp.2, q.lgReadable op (sp.1 + j)) → (∀ r ∈ op.dst ++ gr, q.Plain r.1 r.2 true) →
    (∀ r ∈ lgStats g c :: op.oRuns ++ op.doRuns, q.Plain r.1 r.2 false) →
    ∃ t, exec (.ledgReport p b 0 dmc) s = .next t ∧ (t.pol p).ledger.ops = [] ∧ Reported s t p b op.tally op.inc ∧
      (∀ i, (∀ r ∈ op.dst ++ gr, i < r.1 ∨ r.1 + r.2 ≤ i) → (t.pol p).mem.read i = q.mem.read i) ∧
      (c.n = 1 → g.nh = 1 → g.nkv = 1 → sp.2 = 1 → op.grad.length = 8 * g.hd → Apart (op.dst ++ gr) →
        (op.dst.map (·.2)).sum = g.hd * op.dElem.size → (wordsOf op.aElem op.a).length = g.hd →
        (op.oRuns.map (·.2)).sum = g.hd * op.ofmt.size → (op.doRuns.map (·.2)).sum = g.hd * op.ofmt.size →
        let st := f32s (get [lgStats g c]) 0 2
        let y := backwardRow g.scale g.hd (st.getD 0 0) (st.getD 1 0) (wordsOf op.aElem op.a) (wordsOf op.ofmt (get op.oRuns))
          (wordsOf op.ofmt (get op.doRuns)) [q.lgKeyValue op sp.1] [(f32s op.grad 0 g.hd, f32s op.grad (4 * g.hd) g.hd)]
        op.dst.flatMap (fun r => (t.pol p).mem.readBytes r.1 r.2) =
          y.1.flatMap (fun u => natLe op.dElem.size (op.dElem.convert true (f32num u)).val) ∧
        gr.flatMap (fun r => (t.pol p).mem.readBytes r.1 r.2) = (y.2.1.flatMap (fun e => e.1 ++ e.2)).flatMap (fun u => natLe 4 u.toNat))

/-- R402, R403, R408 and R415, the last page of a swap: a swap-out leaves the page in the host slot and its pool page free, the sequence
SWAPPED; a swap-in leaves it in the pool, the sequence RESIDENT; and a swap-out that fails leaves it RESIDENT in the pool. -/
def Claim.SwapPages : Prop :=
  ∀ (s : State) (p : Ix4) (sq host : Nat) (e : SwapPage),
    let q := s.pol p
    let g := q.lgGeom
    let page := g.pageAt e.page
    q.clocks.stopped = false → q.ledger.ops = [] → q.ledger.victims = [] → q.memctl.errs = [] → e.page < 2 ^ 24 → 0 < e.page →
    q.Owned (g.seqAt sq) 32 → q.Owned (g.entryAt sq e.entry) 4 →
    Apart [(g.seqAt sq, 32), (g.entryAt sq e.entry, 4), (page, g.pageBytes)] →
    (q.ledger.swaps = [⟨sq, true, [e], []⟩] → q.Plain page g.pageBytes false → e.slot < 2 ^ 31 →
      (q.hostAddr (g.hostAt sq e.slot) g.pageBytes true = some host → (s.dom p).hostUp = true →
        ∃ t, exec (.swapoutPage p sq true) s = .next t ∧ t.hostMem.readBytes host g.pageBytes = q.mem.readBytes page g.pageBytes ∧
          (t.pol p).ledger.swaps = [] ∧ ¬ e.page ∈ (t.pol p).ledger.used ∧ (t.pol p).lgEntry sq e.entry = 2 ^ 31 + e.slot ∧
          ((t.pol p).lgSeq sq).state = 3) ∧
      (∃ t, exec (.swapoutPage p sq false) s = .next t ∧ (t.pol p).ledger.swaps = [] ∧ (t.pol p).ledger.used = q.ledger.used ∧
        (t.pol p).lgEntry sq e.entry = q.lgEntry sq e.entry ∧ ((t.pol p).lgSeq sq).state = 1)) ∧
    (q.ledger.swaps = [⟨sq, false, [e], []⟩] → q.Plain page g.pageBytes true →
      q.hostAddr (g.hostAt sq e.slot) g.pageBytes false = some host → (s.dom p).hostUp = true →
      ∃ t, exec (.swapinPage p sq true) s = .next t ∧ (t.pol p).mem.readBytes page g.pageBytes = s.hostMem.readBytes host g.pageBytes ∧
        (t.pol p).ledger.swaps = [] ∧ (t.pol p).lgEntry sq e.entry = e.page ∧ ((t.pol p).lgSeq sq).state = 1)

/-! ## Memory -/

/-- R320, R321, R324 and R348, Granary scrub of a bin: the Watchhouse and the host go first until 63 denials; otherwise the next line is
read, and what turns out wrong in it, one bit or two, is reported; a correction that waits is written back first. -/
def Claim.GranaryScrub : Prop :=
  ∀ (s : State) (p : Ix4) (bin flips u : Nat) (wh host : Bool),
    let q := s.pol p
    let denied := Store.getD q.memctl.denied bin 0
    let line := Store.getD q.memctl.scrubLine bin 0
    let a := bin * 0x200000 + 64 * line
    bin < 64 → q.scrubs = true →
    ((wh || host) = true → denied < 63 → exec (.maintenanceAccess p bin wh host flips) s =
      .next (s.onPol p (fun q => { q with memctl := { q.memctl with denied := Store.insert q.memctl.denied bin (denied + 1) } }))) ∧
    ∀ e ∈ [(Instr.maintenanceAccess p bin false false flips, 0), (.maintenanceAccess p bin wh host flips, 63),
        (.granScrubTakeover p bin flips, 63)], e.2 ≤ denied →
      (q.memctl.errs = [] → q.memctl.back = [] → flips ≤ 2 →
        ∃ t, exec e.1 s = .next t ∧ (t.pol p).mem = q.mem ∧ (t.pol p).berths = q.berths ∧
          Store.getD (t.pol p).memctl.scrubLine bin 0 = (line + 1) % 32768 ∧ Store.getD (t.pol p).memctl.denied bin 0 = 0 ∧
          (t.pol p).memctl.errs = (if flips = 0 then [] else [(a, flips)]) ∧
          (t.pol p).memctl.back = (if flips = 1 then [a] else []) ∧
          (flips = 1 → (t.pol p).memctl.granCeAddr = a ∧ bitOf ((t.pol p).stored Off.memSticky) 2 = true ∧
            (t.pol p).counter (Off.memCount 2) = (q.counter (Off.memCount 2) + 1) % 2 ^ 48) ∧
          (flips = 2 → q.memctl.ueValid = false → (t.pol p).memctl.ueValid = true ∧ (t.pol p).memctl.ueAddr = a ∧
            bitOf ((t.pol p).stored Off.memSticky) 3 = true)) ∧
      (q.memctl.back = [u] → bin * 0x200000 ≤ u → u < bin * 0x200000 + 0x200000 →
        ∃ t, exec e.1 s = .next t ∧ (t.pol p).mem = q.mem ∧ (t.pol p).memctl.back = [] ∧
          (t.pol p).memctl.errs = q.memctl.errs.filter (fun x => !(decide (u ≤ x.1 ∧ x.1 < u + 64 ∧ x.2 = 1))) ∧
          Store.getD (t.pol p).memctl.scrubLine bin 0 = line)

/-- R335 to R337 and R348, the background requests of a stack: patrol scrub, by its own pace or forced after 4096 deferrals, reads the next unit
and goes on, a wrap counting a pass; a forced telemetry read takes the temperature; a forced one is counted and sets SCRUB_FORCED. -/
def Claim.PatrolScrub : Prop :=
  ∀ (s : State) (p : Ix4) (st : Ix2) (flips temp : Nat),
    let q := s.pol p
    let k := q.memctl.patrolPos.at st
    let a := q.unitAt st k
    q.stackServes st = true →
    (bitOf (q.stored Off.hbmCfg) 0 = true → q.Serves → q.memctl.down = ⟨false, false⟩ → q.memctl.errs = [] → q.memctl.back = [] →
      flips ≤ 1 →
      ∀ e ∈ [(Instr.patrolRead p st flips, 0), (.scrubForced p st (.patrol flips), 1)],
        ∃ t, exec e.1 s = .next t ∧ (t.pol p).mem = q.mem ∧ (t.pol p).berths = q.berths ∧
          (t.pol p).memctl.patrolPos.at st = (if k + 1 < q.stackUnits then k + 1 else 0) ∧
          (t.pol p).counter (Off.memCount 7) = (q.counter (Off.memCount 7) + (if k + 1 < q.stackUnits then 0 else 1)) % 2 ^ 48 ∧
          (t.pol p).counter (Off.memCount 6) = (q.counter (Off.memCount 6) + e.2) % 2 ^ 48 ∧
          (e.2 = 1 → bitOf ((t.pol p).stored Off.memSticky) 6 = true) ∧
          (t.pol p).memctl.errs = (if flips = 0 then [] else [(a, 1)]) ∧ (t.pol p).memctl.back = (if flips = 0 then [] else [a]) ∧
          (flips = 1 → (t.pol p).memctl.ceAddr = a ∧
            (t.pol p).counter (Off.memCount 0) = (q.counter (Off.memCount 0) + 1) % 2 ^ 48)) ∧
    ∃ t, exec (.scrubForced p st (.telemetry temp)) s = .next t ∧ (t.pol p).mem = q.mem ∧ (t.pol p).berths = q.berths ∧
      (t.pol p).memctl.temp.at st = temp ∧ (t.pol p).memctl.doubled.at st = decide (85 ≤ temp) ∧
      (t.pol p).memctl.patrolPos = q.memctl.patrolPos ∧
      (t.pol p).counter (Off.memCount 6) = (q.counter (Off.memCount 6) + 1) % 2 ^ 48 ∧
      bitOf ((t.pol p).stored Off.memSticky) 6 = true ∧ (95 ≤ temp → bitOf ((t.pol p).stored Off.memSticky) 7 = true)

/-- R145, R337, R350 and R351, the stacks of HBM: temperatures from 85 °C up double the refresh rate, those from 95 °C up are flagged; 16
parity errors in a row and the loss of a PLL hold the stack's requests for a retrain; a retrain lets them go on, and the third that fails
within one second takes the stack down. -/
def Claim.StackTroubles : Prop :=
  ∀ (s : State) (p : Ix4) (st : Ix2) (temps : Duo Nat) (run : Nat),
    let q := s.pol p
    let m := q.memctl
    let keeps (t : State) : Prop := (t.pol p).mem = q.mem ∧ (t.pol p).berths = q.berths ∧ (t.pol p).memctl.errs = m.errs
    (q.stackServes .z = true → q.stackServes .o = true →
      ∃ t, exec (.hbmTelemetryRead p temps) s = .next t ∧ keeps t ∧ (t.pol p).memctl.temp = temps ∧
        (∀ i, (t.pol p).memctl.doubled.at i = decide (85 ≤ temps.at i)) ∧
        (95 ≤ temps.at st → bitOf ((t.pol p).stored Off.memSticky) 7 = true)) ∧
    (q.stackServes st = true →
      ∃ t, exec (.hbmParity p st run) s = .next t ∧ keeps t ∧
        (t.pol p).counter (Off.memCount 9) = (q.counter (Off.memCount 9) + run) % 2 ^ 48 ∧
        (t.pol p).memctl.held.at st = decide (16 ≤ run) ∧
        (t.pol p).counter (Off.memCount 8) = (q.counter (Off.memCount 8) + (if 16 ≤ run then 1 else 0)) % 2 ^ 48) ∧
    (∃ t, exec (.hbmPllUnlock p st) s = .next t ∧ keeps t ∧ bitOf ((t.pol p).stored Off.clkSticky) (4 + st.toNat) = true ∧
      (t.pol p).memctl.held.at st = (m.held.at st || m.up.at st)) ∧
    (m.held.at st = true →
      exec (.hbmRetrainDone p st true) s = .next (s.onPol p (fun q => { q with memctl := { m with held := m.held.put st false } })) ∧
      ∃ t, exec (.hbmRetrainDone p st false) s = .next t ∧ keeps t ∧
        (let failed := ((m.fails.at st).filter (fun x => decide (s.warden.dieTime < x + 1000000000))).length
         (t.pol p).memctl.held.at st = decide (failed < 2) ∧
         (2 ≤ failed → (t.pol p).memctl.down.at st = true ∧ (t.pol p).memctl.up.at st = false ∧
           bitOf ((t.pol p).stored Off.memSticky) (8 + st.toNat) = true) ∧
         (failed < 2 → (t.pol p).memctl.down = m.down ∧
           (t.pol p).counter (Off.memCount 8) = (q.counter (Off.memCount 8) + 1) % 2 ^ 48)))

/-- R99 to R107, from HBMTRAIN on: training brings the enabled stacks up, or strands the polder; the end of the zero fill locks the Charter,
and the polder opens alone, or, with a ROSTER, both sluices listen; at the superframe in which a join delay ends a REQUEST goes out in the cell
that the seed gives; and 100 ms after BASINJOIN began one joined sluice is enough. -/
def Claim.Joining : Prop :=
  ∀ (s : State) (p : Ix4) (sd : Side),
    let q := s.pol p
    let m := q.charter.stackMask
    let x := q.sluices.get sd
    let w := (x.seed.extractLsb' 12 4).toNat % 14
    let slot := (x.seed.extractLsb' 10 2).toNat
    (q.clocks.stopped = false → q.trains = true →
      ((bitOf m 0 = false ∨ q.memctl.down.fst = false) → (bitOf m 1 = false ∨ q.memctl.down.snd = false) →
        ∃ t, exec (.hbmTrainingDone p) s = .next t ∧ (t.pol p).boot = .hbmtrain ∧ (t.pol p).charter.phase = .hbmFill ∧
          (t.pol p).memctl.up = ⟨bitOf m 0, bitOf m 1⟩ ∧ (t.pol p).mem = q.mem) ∧
      ∃ t, exec (.hbmTrainingTimeout p) s = .next t ∧ (t.pol p).boot = .stranded ∧ (t.pol p).charter.lock = true ∧
        (t.pol p).charter.failOfs = q.charter.trainOfs ∧
        if q.charter.slotB then (t.pol p).charter.causeB = 0xB else (t.pol p).charter.causeA = 0xB) ∧
    (q.clocks.stopped = false → q.boot = .hbmtrain → q.charter.phase = .hbmFill → q.charter.deferred = [] → q.wharf.bells = [] →
      ∃ t, exec (.hbmZeroFillDone p) s = .next t ∧ (t.pol p).charter.lock = true ∧
        (∀ a, 0x100000000 ≤ a → a < q.hbmTop → (t.pol p).mem.read a = 0) ∧
        (∀ a, a < 0x8000000 - q.charter.staged * 0x200000 → (t.pol p).mem.read a = q.mem.read a) ∧
        (q.charter.hasRoster = true → (t.pol p).boot = .basinjoin ∧ (t.pol p).alone = q.alone ∧
          (t.pol p).joinFrom = s.warden.dieTime ∧ ∀ i, ((t.pol p).sluices.get i).state = .listen) ∧
        (q.charter.hasRoster = false → (t.pol p).boot = .opened ∧ (t.pol p).alone = true ∧ (t.pol p).sluices = q.sluices ∧
          (t.pol p).wharf.tide = q.tideAt s.warden.dieTime ∧ ((t.pol p).clerks.harts.get .i0).started = true ∧
          ((t.pol p).clerks.harts.get .i0).pc = BitVec.ofNat 64 (q.stored64 Off.clerkBoot))) ∧
    (∀ sf, x.state = .listen → x.delay = some sf →
      ((s.dom p).sfNow sd < sf → exec (.joinDelayExpiry p sd) s = .next s) ∧
      (sf ≤ (s.dom p).sfNow sd → x.due = 0 →
        ∃ t z, exec (.joinDelayExpiry p sd) s = .next t ∧ ((t.pol p).sluices.get sd).state = .unranged ∧
          ((t.pol p).sluices.get sd).delay = none ∧ ((t.pol p).sluices.get sd).sent = x.sent ++ [z] ∧ z.cont = true ∧
          z.frame.typ = 2 ∧ z.frame.slot.toNat = slot ∧ z.frame.wave.toNat = (if w < 7 then w + 1 else w + 2) ∧
          z.sf = (s.dom p).sfNow sd + (if (s.dom p).slotNow sd ≤ slot then 0 else 1) ∧ z.tag = q.tagOf z.frame ∧
          z.launch = ((12288 * z.sf + 192 * slot : Nat) : Int) ∧
          z.frame.payload.take 2 = natLe 2 (q.stored (Off.sluice sd + 0xC) % 256))) ∧
    (q.boot = .basinjoin →
      (s.warden.dieTime < q.joinFrom + 100000000 → exec (.joinSlow p) s = .next s) ∧
      (q.joinFrom + 100000000 ≤ s.warden.dieTime → q.wharf.bells = [] →
        ∃ t, exec (.joinSlow p) s = .next t ∧ (t.pol p).joinSlow = true ∧ (t.pol p).sluices = q.sluices ∧
          (((q.sluices.get .r).state = .joined ∨ (q.sluices.get .c).state = .joined) → (t.pol p).boot = .opened) ∧
          ((q.sluices.get .r).state ≠ .joined → (q.sluices.get .c).state ≠ .joined → (t.pol p).boot = .basinjoin)))

/-- R179, the load of the Warden's charter ends with WARDEN_LOCK, once; a flash that gives no valid SFDP leaves every default in force. -/
def Claim.WardenLoad : Prop :=
  ∀ (s : State) (f : WardenFlash),
    (s.warden.lock = true → exec (.wardenCharterLoad f) s = .next s) ∧
    (s.warden.lock = false → ∃ t, exec (.wardenCharterLoad f) s = .next t ∧ t.warden.lock = true ∧ t.polders = s.polders ∧
      (f.sfdp.valid = false → t.warden = { s.warden with lock := true, slotB := true, defaults := true, causeA := 1, causeB := 1 }))

/-! ## The sluices -/

/-- R419, R426 to R429, R433 and R476, a frame heard: what cannot be corrected (a signal of the other generation with it: log entry 138), what
comes under a wrong tag or in another cell, and what R427 does not permit is counted, flagged and dropped; what is accepted joins the receive
pool where it has room. A frame in the cells of its port shows that the port is alive. A dark sluice hears nothing. -/
def Claim.FramesHeard : Prop :=
  ∀ (s : State) (p : Ix4) (sd : Side) (h : Heard),
    let q := s.pol p
    let x := q.sluices.get sd
    let f := h.frame
    let slot := h.slot.toNat
    let own : Prop := 5 ≤ slot ∧ ∃ m, x.mapFor h.sf = some m ∧ indexOf x.ports f.xmit = some (m.at slot h.wave.toNat)
    let same (y z : Sluice) : Prop := (own → y = { z with alive := Store.insert z.alive f.xmit.toNat ((s.dom p).sfNow sd) }) ∧
      (¬ own → y = z)
    let drops (k bit : Nat) (z : Sluice) : Prop := ∃ t, exec (.frameReceive p sd h) s = .next t ∧ same ((t.pol p).sluices.get sd) z ∧
      (t.pol p).counter (Off.slCount sd k) = (q.counter (Off.slCount sd k) + 1) % 2 ^ 48 ∧
      bitOf ((t.pol p).stored (Off.sluice sd + 4)) bit = true ∧ (t.pol p).mem = q.mem ∧ (t.pol p).lock = q.lock
    let cellOk : Prop := f.slot = h.slot ∧ f.wave = h.wave ∧ f.sf = BitVec.ofNat 16 h.sf
    let genOk : Prop := x.mapNext.isSome = true → h.b2 = (decide (f.typ ≠ 3) && x.gen.getLsbD h.wave.toNat)
    let max := if x.gen.getLsbD h.wave.toNat then 2048 else 1024
    let queued (z : Sluice) : Prop := ∃ t, exec (.frameReceive p sd h) s = .next t ∧ same ((t.pol p).sluices.get sd) z ∧
      (∀ a < q.poolBase, (t.pol p).mem.read a = q.mem.read a) ∧ (t.pol p).lock = q.lock ∧
      (t.pol p).counter (Off.slCount sd 2) = (q.counter (Off.slCount sd 2) + h.corrected) % 2 ^ 48
    (x.state = .dark → exec (.frameReceive p sd h) s = .next s) ∧
    (x.state ≠ .dark →
      (h.clean = false ∨ ¬ genOk → ∃ t, exec (.frameReceive p sd h) s = .next t ∧ (t.pol p).sluices.get sd = x ∧
        (t.pol p).counter (Off.slCount sd 1) = (q.counter (Off.slCount sd 1) + 1) % 2 ^ 48 ∧
        bitOf ((t.pol p).stored (Off.sluice sd + 4)) 3 = true ∧ (t.pol p).mem = q.mem ∧ (t.pol p).lock = q.lock) ∧
      (h.clean = true → genOk → (h.tag ≠ q.tagOf f ∧ (indexOf x.ports f.xmit).isNone = true ∨ h.tag = q.tagOf f ∧ ¬ cellOk) →
        drops 3 2 { x with stranger := word f.xmit.toNat }) ∧
      (h.clean = true → genOk → h.tag = q.tagOf f → cellOk →
        (f.typ = 2 → f.part = false → f.payload.length = 8 →
          (slot < 4 → queued { x with inbox := x.inbox ++ [h] }) ∧
          (4 ≤ slot → drops 5 1 { x with trespass := word (f.xmit.toNat + 2 ^ 16 * slot + 2 ^ 24 * h.wave.toNat) })) ∧
        (f.typ = 3 → f.part = false → f.payload.length = 1024 → slot = 4 → h.wave = 0 ∨ h.wave = 8 →
          queued { x with inbox := x.inbox ++ [h], lastSf := (s.dom p).sfNow sd }) ∧
        (f.typ = 6 → f.part = false → f.payload = [] → own → queued x) ∧
        (f.typ = 4 ∧ slot < 4 ∧ f.payload.length ≤ 256 ∨ f.typ = 0 ∧ own ∧ f.payload.length ≤ max → f.part = true →
          1 ≤ f.payload.length → q.clocks.stopped = false → q.clocks.safe = false →
          ((x.inbox.map (fun k => frameSize k.frame)).sum + frameSize f ≤ 0x600000 → queued { x with inbox := x.inbox ++ [h] }) ∧
          (0x600000 < (x.inbox.map (fun k => frameSize k.frame)).sum + frameSize f →
            ∃ t, exec (.frameReceive p sd h) s = .next t ∧ same ((t.pol p).sluices.get sd) x ∧ (t.pol p).mem = q.mem ∧
              (t.pol p).counter (Off.xfCount sd 3) = (q.counter (Off.xfCount sd 3) + 1) % 2 ^ 48))))

/-- R104, R432, R433, R436, R437, R439 and R585, what a sluice makes of the beacon and the request it has heard: the beacon's table, map, master,
root and generations, and the state that its table gives; a master's table with the port entered at the lowest free index, or removed. -/
def Claim.BeaconsAndRequests : Prop :=
  ∀ (s : State) (p : Ix4) (sd : Side) (h : Heard) (i : Nat),
    let q := s.pol p
    let x := q.sluices.get sd
    let bs := h.frame.payload
    let f (o n : Nat) : Nat := leNat ((bs.drop o).take n)
    let here := indexOf (beaconPorts bs) q.addr
    let k : Ask := ⟨min 236 (f 0 2 % 256), bitOf (f 2 2) 0, bitOf (f 2 2) 1⟩
    let first := (f 0 8 + 782 + x.rtt.getD 0 / 2) / 12288 + 1 + (x.seed.extractLsb' 0 10).toNat
    let waits (y : Sluice) (sf : Nat) : Prop := y.state = .listen ∧ y.delay = some sf
    let joins (y : Sluice) : Prop := y.state = .joined ∧ y.index = i
    x.inbox = [h] →
    (h.frame.typ = 3 → f 0x12 1 % 128 ≠ q.basinByte sd →
      ∃ t, exec (.beacon p sd) s = .next t ∧ (t.pol p).sluices.get sd = { x with inbox := [] } ∧
        bitOf ((t.pol p).stored (Off.sluice sd + 4)) 5 = true) ∧
    (h.frame.typ = 3 → f 0x12 1 % 128 = q.basinByte sd → BitVec.ofNat 12 (f 8 2) ≠ q.addr →
      ∃ t, exec (.beacon p sd) s = .next t ∧ (t.pol p).mem = q.mem ∧
        (let y := (t.pol p).sluices.get sd
         y.inbox = [] ∧ y.ports = beaconPorts bs ∧ (x.mapNext.map (·.sf) ≠ some (f 0x14 4) → y.mapNow = x.mapNext) ∧
         (∃ m, y.mapNext = some m ∧ m.sf = f 0x14 4) ∧ y.masterAddr = BitVec.ofNat 12 (f 8 2) ∧ y.root = BitVec.ofNat 12 (f 0xA 2) ∧
         y.hops = f 0xC 1 ∧ y.gen = BitVec.ofNat 16 (f 0x10 2) ∧
         (x.state = .listen → waits y (x.delay.getD first)) ∧
         (x.state = .unranged → here = some i → joins y) ∧
         (x.state = .unranged → here = none → y.state = .unranged) ∧
         (x.state = .joined → here = some i → joins y ∧
           (bitOf (f 0xD 1) 0 = true → BitVec.ofNat 12 (f 0xE 2) = q.addr → y.master = true ∧ y.inherit = true)) ∧
         (x.state = .joined ∨ x.state = .candidate ∧ x.back = .joined → here = none →
           waits y first ∧ y.rtt = none ∧ y.master = false) ∧
         (x.state = .silent → x.pllOk = true → waits y first ∧ y.rtt = none) ∧
         (x.state = .candidate →
           (x.back = .joined ∨ x.back = .unranged → here = some i → joins y) ∧
           (x.back = .unranged → here = none → y.state = .unranged) ∧
           (x.back = .listen → waits y (x.delay.getD first))))) ∧
    (h.frame.typ = 2 →
      ∃ t, exec (.request p sd) s = .next t ∧
        (let y := (t.pol p).sluices.get sd
         y.inbox = [] ∧ y.state = x.state ∧
         (k.demand ≠ 0 → y.ask h.frame.xmit = k) ∧
         (x.master = false → y.ports = x.ports) ∧
         (x.master = true → k.demand = 0 → y.ports = x.ports.filter (fun e => decide (e.2 ≠ h.frame.xmit))) ∧
         (x.master = true → k.demand ≠ 0 → indexOf x.ports h.frame.xmit = none → freeIndex x.ports = some i →
           y.ports = Store.insert x.ports i h.frame.xmit) ∧
         (x.master = true → k.demand ≠ 0 → (indexOf x.ports h.frame.xmit).isSome = true → y.ports = x.ports)))

/-- R425, R430, R431 and R585, the echo of the frame sent first: one that is equal ends its wait, the calibration of its ring, or the contention,
and makes a candidate whose beacon it is the master; one that differs is a collision, which draws a wait of up to 2^c superframes; at its end,
and no earlier, the frame goes out in the cell that was drawn. -/
def Claim.Contention : Prop :=
  ∀ (s : State) (p : Ix4) (sd : Side) (z : Sent) (rest : List Sent) (f : Frame) (rtt r sf : Nat) (lost : Bool),
    let q := s.pol p
    let x := q.sluices.get sd
    let noted : Sluice := x.note z.sf (fun l => { l with heard := l.heard || !lost })
    (x.sent = z :: rest →
      (z.cont = false → z.frame.typ ≠ 3 → z.ring = some (BitVec.ofNat 4 r) →
        ∃ t, exec (.echo p sd ⟨true, lost, rtt⟩) s = .next t ∧ (t.pol p).sluices.get sd = { noted with
          sent := rest, rtt := some rtt, due := x.due &&& ~~~(1#16 <<< (r % 16))
          calAt := Store.insert x.calAt (r % 16) s.warden.dieTime }) ∧
      (z.cont = false → z.frame.typ = 3 → z.ring = none → x.state = .candidate →
        ∃ t, exec (.echo p sd ⟨true, lost, rtt⟩) s = .next t ∧
          (let y := (t.pol p).sluices.get sd
           y.state = .joined ∧ y.master = true ∧ y.delay = none ∧ y.sent = rest ∧ y.rtt = some rtt ∧ y.lastSf = z.sf)) ∧
      (z.cont = true → z.frame.typ ≠ 3 → z.ring = none → x.contQ = [f] →
        ∃ t, exec (.echo p sd ⟨true, lost, rtt⟩) s = .next t ∧
          (t.pol p).sluices.get sd = { noted with sent := rest, rtt := some rtt, contQ := [], coll := 0, backoff := none }) ∧
      (z.cont = true → z.frame.typ ≠ 3 →
        ∃ t, exec (.echo p sd ⟨false, lost, rtt⟩) s = .next t ∧
          (let y := (t.pol p).sluices.get sd
           y.sent = rest ∧ y.rtt = x.rtt ∧ y.contQ = x.contQ ∧ y.coll = min 15 (x.coll + 1) ∧
           (∃ k, y.backoff = some (z.sf + k + 1) ∧ 1 ≤ k ∧ k ≤ min (2 ^ min 15 (x.coll + 1)) 1024) ∧
           (x.rtt = none → y.contWave ≠ 0 ∧ y.contWave ≠ 8) ∧
           (t.pol p).counter (Off.slCount sd 0) = (q.counter (Off.slCount sd 0) + 1) % 2 ^ 48))) ∧
    (x.backoff = some sf →
      ((s.dom p).sfNow sd < sf → exec (.backoffExpiry p sd) s = .next s) ∧
      (sf ≤ (s.dom p).sfNow sd → x.contQ = [f] →
        ∃ t g, exec (.backoffExpiry p sd) s = .next t ∧
          (let y := (t.pol p).sluices.get sd
           y.backoff = none ∧ y.sent = x.sent ++ [g] ∧ y.coll = x.coll ∧ y.state = x.state ∧ y.contQ.length = 1) ∧
          g.cont = true ∧ g.tag = q.tagOf g.frame ∧ g.frame.payload = f.payload ∧ g.frame.xmit = q.addr ∧
          g.frame.slot.toNat = x.contSlot.toNat ∧ g.frame.wave = x.contWave))

/-- A map of R434 for a table: a cell for each of the 59 × 16, each given to no port or to one of the table, at most 4 of a slot to a port. -/
def Claim.goodMap (ports : Store (BitVec 12)) (m : BasinMap) : Prop :=
  m.cells.length = 944 ∧ (∀ c ∈ m.cells, c = 127 ∨ ∃ e ∈ ports, e.1 = c) ∧
  ∀ k < 59, ∀ i, i ≠ 127 → ((m.cells.drop (16 * k)).take 16).countP (fun c => decide (c = i)) ≤ 4

/-- R419, R433 to R439, R443 and R585, the master: in slot 4 a beacon on λ0 and λ8 with the map for the next superframe, in B1; a sluice that has
heard none for 3 superframes is a candidate, and sends the last map on in the superframe of its position; a master whose echo fails in 3
superframes in a row is a candidate; and a port that has been silent for 8 superframes leaves the table. Nothing of it is due earlier, nor a
beacon in another superframe (log entry 131). -/
def Claim.MasterDuties : Prop :=
  ∀ (s : State) (p : Ix4) (sd : Side) (a : BitVec 12) (e1 e2 e3 : EchoLog) (es : List EchoLog),
    let q := s.pol p
    let x := q.sluices.get sd
    let now := (s.dom p).sfNow sd
    let ns := if q.basin.valid then q.basin.now else (s.dom p).mediumNs sd
    let free (sf : Nat) : Prop := x.canDrive (slotNo sf 4) 0 = true ∧ x.canDrive (slotNo sf 4) 8 = true
    let beacons (t : State) (sf : Nat) : Prop := ∃ y z, ((t.pol p).sluices.get sd).sent = x.sent ++ [y, z] ∧
      (∀ e ∈ [(y, 0), (z, 8)], e.1.frame.typ = 3 ∧ e.1.frame.slot = 4 ∧ e.1.frame.wave.toNat = e.2 ∧ e.1.cont = false ∧
        e.1.sf = sf ∧ e.1.b2 = false ∧ e.1.frame.payload.length = 1024 ∧ e.1.tag = q.tagOf e.1.frame ∧
        leNat (e.1.frame.payload.take 8) = sf * 12288 % 2 ^ 64 ∧ leNat ((e.1.frame.payload.drop 8).take 2) = q.addr.toNat) ∧
      (t.pol p).mem = q.mem
    (x.master = true → x.state = .joined → ns % 12288 / 192 = 4 → free (ns / 12288) →
      ∃ t m, exec (.beaconSend p sd (ns / 12288)) s = .next t ∧ beacons t (ns / 12288) ∧ ((t.pol p).sluices.get sd).mapNow = x.mapNext ∧
        ((t.pol p).sluices.get sd).mapNext = some m ∧ m.sf = (ns / 12288 + 1) % 2 ^ 32 ∧
        (x.inherit = false → Claim.goodMap ((t.pol p).sluices.get sd).ports m) ∧
        (x.inherit = true → ∀ v, x.mapNext = some v → m.cells = v.cells) ∧ ((t.pol p).sluices.get sd).inherit = false) ∧
    (∀ k, (k ≠ ns / 12288 → exec (.beaconSend p sd k) s = .next s) ∧ (k ≠ now → exec (.candidateBeacon p sd k) s = .next s)) ∧
    (x.state = .candidate → (s.dom p).slotNow sd = 4 → free now → now = x.lastSf + 4 + q.position sd →
      ∃ t m, exec (.candidateBeacon p sd now) s = .next t ∧ beacons t now ∧ ((t.pol p).sluices.get sd).mapNext = some m ∧
        m.sf = (now + 1) % 2 ^ 32 ∧ ∀ v, x.mapNext = some v → m.cells = v.cells) ∧
    (x.master = false → x.state = .listen ∨ x.state = .unranged ∨ x.state = .joined →
      (x.lastSf + 3 < now → ∃ t, exec (.candidate p sd) s = .next t ∧
        (let y := (t.pol p).sluices.get sd
         y.state = .candidate ∧ y.back = x.state ∧ y.delay = none ∧ y.sent = x.sent ∧ y.mapNext = x.mapNext ∧ y.ports = x.ports)) ∧
      (now ≤ x.lastSf + 3 → exec (.candidate p sd) s = .next s)) ∧
    (x.master = true → x.judged = e1 :: e2 :: e3 :: es →
      (∀ e ∈ [e1, e2, e3], e.beacon = true ∧ e.clean = false) → e1.sf = e2.sf + 1 → e2.sf = e3.sf + 1 → x.state = .joined →
      ∃ t, exec (.masterEchoFail p sd) s = .next t ∧ (t.pol p).sluices.get sd =
        { x with master := false, state := .candidate, back := .joined, echoes := [], lastSf := x.cleanSf.getD now }) ∧
    (x.judged.length < 3 → exec (.masterEchoFail p sd) s = .next s) ∧
    (x.master = true → a ≠ q.addr →
      (Store.getD x.alive a.toNat 0 + 8 < now → ∃ t, exec (.portRemove p sd a) s = .next t ∧ (t.pol p).sluices.get sd =
        { x with ports := x.ports.filter (fun e => decide (e.2 ≠ a)), asks := Store.erase x.asks a.toNat }) ∧
      (now ≤ Store.getD x.alive a.toNat 0 + 8 → exec (.portRemove p sd a) s = .next s))

/-- R145, R432, R441, R444, R445 and R454, a sluice falls silent after 3 superframes with every echo lost, loses its PLL and hears again; SL_DEMAND
asks for another share; a slew ends; and a ring that is due calibrates in a cell free for it, or, 1 ms later, takes one of the port's own; neither in
another slot than the one that runs (log entry 131). -/
def Claim.SluiceStates : Prop :=
  ∀ (s : State) (p : Ix4) (sd : Side) (m : Master) (v : Word) (ring : BitVec 4) (map : BasinMap),
    let q := s.pol p
    let x := q.sluices.get sd
    let r := ring.toNat
    let sf := (s.dom p).sfNow sd
    let slot := (s.dom p).slotNow sd
    let hushed : Sluice :=
      { x with
        state := .silent, master := false, inherit := false, backoff := none, contQ := [], sent := [], echoes := [], delay := none }
    let lockBit : Nat := match sd with
      | .r => 6
      | .c => 7
    let at_ := Store.getD x.calAt r 0 + q.stored (Off.sluice sd + 0x10) % 2 ^ 16 * 1000
    let calibrates (t : State) (due : BitVec 16) : Prop := ((t.pol p).sluices.get sd).due = due ∧
      ∃ z, ((t.pol p).sluices.get sd).sent = x.sent ++ [z] ∧ z.frame.typ = 5 ∧ z.frame.payload = [] ∧ z.frame.slot.toNat = slot ∧
        z.frame.wave = ring ∧ z.sf = sf ∧ z.ring = some ring ∧ z.cont = false
    (x.state = .unranged ∨ x.state = .joined ∨ x.state = .candidate → 3 ≤ x.judged.length → (∀ e ∈ x.judged.take 3, e.heard = false) →
      ∃ t, exec (.silent p sd) s = .next t ∧ (t.pol p).sluices.get sd = hushed ∧
        bitOf ((t.pol p).stored (Off.sluice sd + 4)) 4 = true) ∧
    (x.judged.length < 3 ∨ (∃ e ∈ x.judged.take 3, e.heard = true) → exec (.silent p sd) s = .next s) ∧
    (x.state ≠ .dark →
      ∃ t, exec (.sluicePllUnlock p sd) s = .next t ∧ (t.pol p).sluices.get sd = { hushed with pllOk := false } ∧
        bitOf ((t.pol p).stored Off.clkSticky) lockBit = true) ∧
    (x.pllOk = false → x.state = .silent →
      ∃ t, exec (.sluicePllRelock p sd) s = .next t ∧ (t.pol p).sluices.get sd = { x with
        pllOk := true, state := .listen, master := false, rtt := none, delay := none, lastSf := sf, backoff := none, contQ := []
        sent := [], echoes := [], cleanSf := none, inherit := false }) ∧
    (q.basin.slew = 0 ∨ 5000000 ≤ q.basin.slewNs →
      exec (.slewEnd p) s = .next (s.onPol p (fun q => { q with basin := { q.basin with slew := 0, slewNs := 0 } }))) ∧
    (WritePasses s p m (Off.sluice sd + 0xC) → v.toNat % 256 ≠ q.stored (Off.sluice sd + 0xC) % 256 →
      ∃ t, exec (.slDemandWrite p sd m v) s = .next t ∧ (t.pol p).stored (Off.sluice sd + 0xC) % 256 = v.toNat % 256 ∧
        (x.state = .joined → x.contQ = [] → ∃ z, ((t.pol p).sluices.get sd).sent = x.sent ++ [z] ∧ z.frame.typ = 2 ∧ z.cont = true ∧
          z.frame.payload.take 2 = natLe 2 (v.toNat % 256)) ∧
        (x.state = .listen → (t.pol p).sluices = q.sluices)) ∧
    (∀ k, (s.warden.dieTime < at_ ∨ k ≠ slot → exec (.calDue p sd ring k) s = .next s) ∧
      (k ≠ slot → exec (.calForced p sd ring k) s = .next s)) ∧
    (x.state = .joined → x.rtt.isSome = true → x.mapFor sf = some map → x.canDrive (slotNo sf slot) r = true →
      (at_ ≤ s.warden.dieTime →
        (ring ≠ 0 → ring ≠ 8 → slot = 4 → x.master = false →
          ∃ t, exec (.calDue p sd ring slot) s = .next t ∧ calibrates t (x.due ||| (1#16 <<< r))) ∧
        (5 ≤ slot → map.at slot r = 127 →
          ∃ t, exec (.calDue p sd ring slot) s = .next t ∧ calibrates t (x.due ||| (1#16 <<< r))) ∧
        (5 ≤ slot → map.at slot r ≠ 127 → x.due.getLsbD r = false →
          ∃ t, exec (.calDue p sd ring slot) s = .next t ∧ (t.pol p).sluices.get sd =
            { x with due := x.due ||| (1#16 <<< r), dueAt := Store.insert x.dueAt r at_ })) ∧
      (5 ≤ slot → map.at slot r = x.index → x.due.getLsbD r = true → Store.getD x.dueAt r 0 + 1000000 ≤ s.warden.dieTime →
        ∃ t, exec (.calForced p sd ring slot) s = .next t ∧ calibrates t x.due ∧
          (t.pol p).counter (Off.slCount sd 6) = (q.counter (Off.slCount sd 6) + 1) % 2 ^ 48 ∧
          bitOf ((t.pol p).stored (Off.sluice sd + 4)) 7 = true))

/-- R418, R420, R422, R425, R468, R470 and R477, a cell of a joined sluice: without a map for the superframe that runs nothing goes out, and
MAP_MISS counts once; in a cell of its own it sends the ACK that is due, then a frame that waits, or IDLE, half the round trip ahead of the cell;
in the cell of another port it sends nothing. -/
def Claim.CellsSent : Prop :=
  ∀ (s : State) (p : Ix4) (sd : Side) (wave : BitVec 4) (map : BasinMap) (r : RxStream) (n rtt : Nat) (ts : TxStream) (f : TxFrame),
    let q := s.pol p
    let x := q.sluices.get sd
    let sf := (s.dom p).sfNow sd
    let slot := (s.dom p).slotNow sd
    let sends (t : State) (typ : Nat) (dst : BitVec 12) (payload : List Byte) : Prop :=
      exec (.cellSend p sd wave) s = .next t ∧ (t.pol p).mem = q.mem ∧ ((t.pol p).sluices.get sd).state = .joined ∧
        wave.toNat ∈ ((t.pol p).sluices.get sd).driven ∧
        ∃ z, ((t.pol p).sluices.get sd).sent = x.sent ++ [z] ∧ z.frame.typ.toNat = typ ∧ z.frame.dst = dst ∧
          z.frame.payload = payload ∧ z.frame.slot.toNat = slot ∧ z.frame.wave = wave ∧ z.frame.sf = BitVec.ofNat 16 sf ∧
          z.tag = q.tagOf z.frame ∧ z.cont = false ∧ z.sf = sf ∧
          z.launch = ((12288 * sf + 192 * slot : Nat) : Int) - ((rtt / 2 : Nat) : Int)
    x.state = .joined → 5 ≤ slot →
    (x.mapFor sf = none →
      (x.missed = some sf → exec (.cellSend p sd wave) s = .next s) ∧
      (x.missed ≠ some sf → ∃ t, exec (.cellSend p sd wave) s = .next t ∧
        (t.pol p).sluices.get sd = { x with missed := some sf } ∧
        (t.pol p).counter (Off.slCount sd 7) = (q.counter (Off.slCount sd 7) + 1) % 2 ^ 48 ∧
        bitOf ((t.pol p).stored (Off.sluice sd + 4)) 8 = true)) ∧
    (x.mapFor sf = some map → map.at slot wave.toNat ≠ x.index → exec (.cellSend p sd wave) s = .next s) ∧
    (x.mapFor sf = some map → map.at slot wave.toNat = x.index → x.rtt = some rtt → x.canDrive (slotNo sf slot) wave.toNat = true →
      q.lock.relayQ.get sd = [] → q.lock.xfer = [] → q.lock.sets = [] →
      (q.lock.rx = [] → q.lock.tx = [] → ∃ t, sends t 6 0 []) ∧
      (q.clocks.stopped = false →
        (q.lock.rx = [r] → r.due = some n → n < sf → r.kind = 0 → q.ackVia r = some (.cell sd) →
          ∃ t, sends t 1 r.origin r.entry ∧ (t.pol p).lock.rx = [{ r with due := none, reject := none }]) ∧
        (q.PoolsGood → q.lock.rx = [] → q.lock.tx = [ts] → ts.frames = [f] → f.queued = true → f.via = .cell sd → f.frame.typ = 0 →
          frameOp f.frame ≠ 3 → f.frame.multicast = false →
          f.frame.payload.length ≤ (if x.gen.getLsbD wave.toNat then 2048 else 1024) →
          ∃ t g, sends t 0 f.frame.dst f.frame.payload ∧
            (t.pol p).lock.tx = [{ ts with frames :=
              [{ f with frame := g, sends := f.sends + 1, queued := false, at_ := s.warden.dieTime }] }] ∧
            g = if f.sends = 0 then launched (q.synced f.frame) q.wharf.tide else q.synced f.frame)))

/-- R423 and R424, a slot unit interval by unit interval: 10,200 of them, of which 384 stay dark, 352 alternate between the outer levels, 32 give
the sync word, and then the FEC block follows, one bit or two of it in each; what is left of the slot stays dark. -/
def Claim.SlotLayout : Prop :=
  ∀ (x : Sent) (bits : List Bool),
    let header := frameHeader x.frame
    let rest := x.frame.payload ++ natLe 8 x.tag.toNat
    let l := x.slot
    let n := if x.b2 then (bits.length + 1) / 2 else bits.length
    let outer (b : Bool) : Option (Fin 4) := some (if b then 3 else 0)
    bits = scrambled (fecSymbols header rest) → 768 + n ≤ 10200 →
    l.length = 10200 ∧ (∀ i < 384, l.getD i none = none) ∧
    (∀ i < 352, l.getD (384 + i) none = outer (decide (i % 2 = 1))) ∧
    (∀ i < 32, l.getD (736 + i) none = outer ((0xB74A16E3#32).getLsbD i)) ∧
    (∀ i < n, (l.getD (768 + i) none).isSome = true) ∧ (x.b2 = false → ∀ i < n, l.getD (768 + i) none = outer (bits.getD i false)) ∧
    (∀ i, 768 + n ≤ i → l.getD i none = none)

/-! ## The Lock -/

/-- R461, R469, R472, R474, R483 and R487, a DATA or URGENT frame for the polder: its segment lands where an inbound window takes it, and the
RNOTE cell rises by the bytes; one that no window takes is rejected; one past its deadline tide is dropped; a row-sum that completes its set
lands the sum in ascending source order; and a set that stays incomplete is dropped. -/
def Claim.FramesLanded : Prop :=
  ∀ (s : State) (p : Ix4) (sd : Side) (h : Heard) (inbox : List Heard) (x : ReduceSet) (c : Contribution) (n : Nat),
    let q := s.pol p
    let f := h.frame
    let a := segRaddr f
    let data := segData f
    let note := 0x10000000 + (segRnote f).toNat / 8 % 2 ^ 18 * 8
    let lanes (bs : List Byte) : List Word := (List.range (bs.length / 4)).map (fun i => BitVec.ofNat 32 (leNat ((bs.drop (4 * i)).take 4)))
    (NextFrame q sd h inbox → q.noReads → f.multicast = false → f.dst = q.addr →
      (frameOp f ≤ 1 → ∀ e ∈ [(Instr.data p sd, 0), (.urgent p sd, 4)], f.typ.toNat = e.2 →
        (q.landable a data.length = true → (q.Plain a data.length true) →
          ∃ t, exec e.1 s = .next t ∧ Landed q (t.pol p) sd h inbox ∧
            ((segRnote f).getLsbD 31 = false → Stores s t p a data) ∧
            ((segRnote f).getLsbD 31 = true → (a + data.length ≤ note ∨ note + 8 ≤ a) →
              (t.pol p).mem.readBytes a data.length = data ∧
              (t.pol p).mem.readNat note 8 = (q.mem.readNat note 8 + data.length) % 2 ^ 64 ∧
              ∀ i, (i < a ∨ a + data.length ≤ i) → (i < note ∨ note + 8 ≤ i) → (t.pol p).mem.read i = q.mem.read i)) ∧
        (q.landable a data.length = false →
          ∃ t, exec e.1 s = .next t ∧ (t.pol p).mem = q.mem ∧ ((t.pol p).sluices.get sd).inbox = inbox ∧
            ((t.pol p).rxFrame f).reject = some 0 ∧ ((t.pol p).rxFrame f).base = f.seq ∧ ((t.pol p).rxFrame f).due = some h.sf ∧
            (t.pol p).counter (Off.lockCount 7) = (q.counter (Off.lockCount 7) + 1) % 2 ^ 48 ∧
            bitOf ((t.pol p).stored Off.lockSticky) 4 = true)) ∧
      (frameOp f = 3 → f.typ = 0 → f.sgrid = q.grid → f.src ≠ q.addr → q.lock.sets = [x] → x.final = true → x.dst = f.dst →
        x.tag = segTag f → x.raddr = a → x.ncol = 2 → f.opinfo.toNat / 2 ^ 23 % 128 = 2 → x.int32 = some false → x.contribs = [c] →
        c.src.toNat < f.src.toNat → c.src ≠ q.addr → c.data.length = data.length → data.length % 4 = 0 →
        q.relayUsed + 56 + data.length ≤ 0x200000 → q.landable a data.length = true → q.Plain a data.length true →
        x.rnote.getLsbD 31 = false →
        ∃ t, exec (.data p sd) s = .next t ∧ Landed q (t.pol p) sd h inbox ∧ (t.pol p).lock.sets = [] ∧
          (t.pol p).mem.readBytes a data.length =
            ((lanes c.data).zip (lanes data)).flatMap (fun y => natLe 4 (f32add y.1 y.2).toNat) ∧
          (∀ i < q.poolBase, i < a ∨ a + data.length ≤ i → (t.pol p).mem.read i = q.mem.read i) ∧
          ((t.pol p).rxOf c.src q.grid f.dst 3).due = some h.sf)) ∧
    (q.clocks.stopped = false → q.PoolsGood → q.lock.sets = [] → (q.sluices.get sd).inbox = h :: inbox → f.typ = 0 → frameOp f ≤ 3 →
      q.concerns sd f = true → staleAt f.tide f.opinfo q.wharf.tide = true →
      ∃ t, exec (.data p sd) s = .next t ∧ (t.pol p).mem = q.mem ∧ ((t.pol p).sluices.get sd).inbox = inbox ∧
        (t.pol p).lock = q.lock ∧ (t.pol p).counter (Off.xfCount sd 4) = (q.counter (Off.xfCount sd 4) + 1) % 2 ^ 48) ∧
    (q.clocks.stopped = false → q.lock.sets = [x] → x.sent = none →
      (x.born + 12288 * (q.stored (Off.lock + 0xC) % 2 ^ 16) ≤ s.warden.dieTime → ∃ t, exec (.reduceDrop p 0) s = .next t ∧ (t.pol p).lock.sets = [] ∧ (t.pol p).mem = q.mem ∧
        (t.pol p).counter (Off.lockCount 4) = (q.counter (Off.lockCount 4) + 1) % 2 ^ 48 ∧
        bitOf ((t.pol p).stored Off.lockSticky) 2 = true) ∧
      (s.warden.dieTime < x.born + 12288 * (q.stored (Off.lock + 0xC) % 2 ^ 16) → exec (.reduceDrop p 0) s = .next s) ∧
      exec (.reduceDrop p (n + 1)) s = .next s)

/-- R464, R468, R470 and R479, acknowledgement: an ACK frees the frames that its entry covers, and a rejected one fails its operation with
RESULT 2; a frame not acknowledged in its interval is sent again, or, at RETX_LIMIT, its operation fails with RESULT 1; frames for another grid are
written to the harbour's ring in the host window. -/
def Claim.Acknowledgements : Prop :=
  ∀ (s : State) (p : Ix4) (sd : Side) (h : Heard) (inbox : List Heard) (r : RxStream) (ts : TxStream) (f : TxFrame) (op : XferOp)
      (m : Master) (v : Word) (host : Nat),
    let q := s.pol p
    let limit (i : Side) : Nat := q.stored (Off.sluice i + 0x100) / 2 ^ 16 % 256
    let g : Frame := launched (q.synced f.frame) q.wharf.tide
    let wire : List Byte := q.frameBytes { g with slot := 0, wave := 0, sf := 0 }
    let ra := q.stored64 (Off.lock + 0x18) % 2 ^ 48 / 64 * 64 + 2112 * q.harbIdx 0
    (q.clocks.stopped = false → q.PoolsGood → h.frame.typ = 1 → (q.sluices.get sd).inbox = h :: inbox → h.frame.multicast = false → h.frame.dst = q.addr →
      q.inRoster h.frame.src h.frame.sgrid = true → h.frame.payload = r.entry → r.origin = q.addr → r.kind = 0 → q.lock.tx = [ts] →
      ts.is r.target h.frame.sgrid 0 = true → (∀ k ∈ ts.frames, k.waits = [h.frame.src]) →
      (r.reject = none →
        ∃ t, exec (.ack p sd) s = .next t ∧ ((t.pol p).sluices.get sd).inbox = inbox ∧ (t.pol p).mem = q.mem ∧
          (t.pol p).lock.tx = [{ ts with
            sync := false, frames := ts.frames.filter (fun k => !ackCovers r.base r.bitmap k.frame.seq) }]) ∧
      (∀ why, r.reject = some why → ts.frames = [f] → ackCovers r.base r.bitmap f.frame.seq = false → q.lock.xfer = [op] → op.token = f.token →
        op.code = none → q.gleaner.ops = [] →
        ∃ t, exec (.ack p sd) s = .next t ∧ (t.pol p).lock.xfer = [{ op with code := some 2 }] ∧
          (t.pol p).lock.tx = [{ ts with sync := false, frames := [] }] ∧ (t.pol p).mem = q.mem)) ∧
    (q.clocks.stopped = false → q.lock.tx = [ts] → ts.frames = [f] → 1 ≤ f.sends → f.queued = false → f.frame.typ = 0 → q.lock.xfer = [op] → op.token = f.token →
      op.code = none → op.ctl = none → q.gleaner.ops = [] → q.lock.sets = [] → q.lock.rx = [] → q.lock.harbOut = [] → q.harbEn = false →
      ∀ e ∈ [(Instr.retransmit p sd 0, sd, Via.cell sd), (.harbRetx p 0, .r, .harbour)], f.via = e.2.2 →
        (s.warden.dieTime < f.at_ + 12288 * q.retxAfter f → ∃ t, exec e.1 s = .next t ∧ (t.pol p).lock = q.lock) ∧
        (f.at_ + 12288 * q.retxAfter f ≤ s.warden.dieTime → f.sends < limit e.2.1 →
          ∃ t, exec e.1 s = .next t ∧ (t.pol p).lock = { q.lock with tx := [{ ts with frames := [{ f with queued := true }] }] } ∧
            (t.pol p).counter (Off.xfCount e.2.1 2) = (q.counter (Off.xfCount e.2.1 2) + 1) % 2 ^ 48) ∧
        (f.at_ + 12288 * q.retxAfter f ≤ s.warden.dieTime → limit e.2.1 ≤ f.sends →
          ∃ t, exec e.1 s = .next t ∧ (t.pol p).lock.tx = [{ ts with frames := [] }] ∧
            (t.pol p).lock.xfer = [{ op with code := some 1 }] ∧ bitOf ((t.pol p).stored Off.lockSticky) 3 = true)) ∧
    (WritePasses s p m Off.harbDoorbell → v.getLsbD 0 = true → q.harbEn = true → q.harbIdx 2 = q.harbIdx 3 → q.memctl.errs = [] →
      (q.harbIdx 0 + 1) % q.harbSize ≠ q.harbIdx 1 →
      q.lock.rx = [] → q.lock.harbOut = [] → q.lock.xfer = [] → q.lock.tx = [ts] → ts.frames = [f] → f.queued = true → f.via = .harbour →
      f.sends = 0 → f.frame.payload.length ≤ 2072 → 0x800000000000 ≤ ra → ra < 0x1000000000000 → q.hostAddr ra 2112 true = some host →
      (s.dom p).hostUp = true →
      ∃ t, exec (.harbDoorbell p m v) s = .next t ∧ t.hostMem.readBytes host 2112 = wire ++ List.replicate (2112 - wire.length) 0 ∧
        (t.pol p).ctr32 (q.harbPtr 0) = (q.harbIdx 0 + 1) % q.harbSize ∧
        (t.pol p).lock.tx = [{ ts with frames := [{ f with frame := g, sends := 1, queued := false, at_ := s.warden.dieTime }] }] ∧
        (t.pol p).counter (Off.lockCount 5) = (q.counter (Off.lockCount 5) + 1) % 2 ^ 48)

/-! ## The clerks -/

/-- R489, R492 and R496, accesses of a hart in M-mode to main memory, as the harts see it through their caches: loads, stores, LR and SC, AMOs
and fetches; x0 stays 0. -/
def Claim.HartAccesses : Prop :=
  ∀ (s : State) (p h : Ix4) (n : Nat) (va v : BitVec 64) (rd : BitVec 5) (signed : Bool),
    let q := s.pol p
    let x := q.clerks.harts.get h
    let a := va.toNat
    let old := leNat ((List.range n).map (fun i => q.seen (a + i)))
    let o := BitVec.ofNat (8 * n) old
    let y := BitVec.ofNat (8 * n) v.toNat
    let rdIs (t : State) (w : BitVec 64) : Prop := ((t.pol p).clerks.harts.get h).getX rd.toNat = if rd = 0 then 0 else w.toNat
    let rest (t : State) : Prop := (t.pol p).berths = q.berths ∧ (t.pol p).imp = q.imp ∧
      ((t.pol p).clerks.harts.get h).pc = x.pc ∧ ((t.pol p).clerks.harts.get h).csr = x.csr ∧ ((t.pol p).clerks.harts.get h).f = x.f ∧
      ∀ r < 32, r ≠ rd.toNat → ((t.pol p).clerks.harts.get h).getX r = x.getX r
    q.Cached → a % n = 0 →
    (n = 1 ∨ n = 2 ∨ n = 4 ∨ n = 8 →
      (HartReaches s p h 0 a n → ∃ t, exec (.hartLoadStoreAmo p h ⟨.load rd signed false, va, n, v⟩) s = .next t ∧ rest t ∧
        rdIs t (if signed then o.signExtend 64 else o.setWidth 64) ∧ SeenStores s t p a []) ∧
      (HartReaches s p h 1 a n → ∃ t, exec (.hartLoadStoreAmo p h ⟨.store, va, n, v⟩) s = .next t ∧
        (t.pol p).berths = q.berths ∧ (t.pol p).clerks.harts.get h = { x with wfi := false } ∧ SeenStores s t p a (natLe n v.toNat))) ∧
    (n = 4 ∨ n = 8 →
      (HartReaches s p h 0 a n → ∃ t, exec (.hartLoadStoreAmo p h ⟨.lr rd, va, n, v⟩) s = .next t ∧ rest t ∧
        rdIs t (o.signExtend 64) ∧ ((t.pol p).clerks.harts.get h).reserve = some (a, n) ∧ SeenStores s t p a []) ∧
      (HartReaches s p h 1 a n →
        (x.reserve = some (a, n) → ∃ t, exec (.hartLoadStoreAmo p h ⟨.sc rd, va, n, v⟩) s = .next t ∧ rest t ∧ rdIs t 0 ∧
          ((t.pol p).clerks.harts.get h).reserve = none ∧ SeenStores s t p a (natLe n v.toNat)) ∧
        (x.reserve ≠ some (a, n) → ∃ t, exec (.hartLoadStoreAmo p h ⟨.sc rd, va, n, v⟩) s = .next t ∧ rest t ∧ rdIs t 1 ∧
          ((t.pol p).clerks.harts.get h).reserve = none ∧ SeenStores s t p a []) ∧
        (HartReaches s p h 0 a n →
          ∀ e ∈ [(AmoOp.swap, y), (.add, o + y), (.xor, o ^^^ y), (.and, o &&& y), (.or, o ||| y),
              (.min, if o.toInt ≤ y.toInt then o else y), (.max, if o.toInt ≤ y.toInt then y else o),
              (.minu, if o.toNat ≤ y.toNat then o else y), (.maxu, if o.toNat ≤ y.toNat then y else o)],
            ∃ t, exec (.hartLoadStoreAmo p h ⟨.amo e.1 rd, va, n, v⟩) s = .next t ∧ rest t ∧ rdIs t (o.signExtend 64) ∧
              SeenStores s t p a (natLe n e.2.toNat)))) ∧
    (n = 2 ∨ n = 4 → HartReaches s p h 2 a n → q.hartInterrupt h = none →
      ∃ t, exec (.hartLoadStoreAmo p h ⟨.fetch, va, n, v⟩) s = .next t ∧ SeenStores s t p a [] ∧
        (t.pol p).clerks.harts.get h = { x with wfi := false, pc := va })

/-- R77, R85, R86, R492 and R496 (the trap registers as log entry 26 has them), where a hart's access does not go through: a misaligned AMO is an
exception in M-mode (log entry 133), but one at the register window is malformed there and reads 0; a pending interrupt is taken at the next fetch; and an access that the polder's checks stop impounds the hart. -/
def Claim.HartTraps : Prop :=
  ∀ (s : State) (p h : Ix4) (n c : Nat) (va v : BitVec 64) (rd : BitVec 5) (op : AmoOp),
    let q := s.pol p
    let x := q.clerks.harts.get h
    let a := va.toNat
    let trapped (t : State) (cause tval : Nat) : Prop :=
      let y := (t.pol p).clerks.harts.get h
      y.priv = .m ∧ y.csrWord 0x342 = cause ∧ y.csrWord 0x341 = x.pc.toNat ∧ y.csrWord 0x343 = tval ∧
      bitOf (y.csrWord 0x300) 3 = false ∧ bitOf (y.csrWord 0x300) 7 = bitOf (x.csrWord 0x300) 3 ∧ y.x = x.x
    q.canIssue (.hart h) = true → q.Cached → x.priv = .m → q.holders.find? (fun e => decide (e.master = .hart h)) = none →
    (n = 4 ∨ n = 8 → a < 2 ^ 48 → bitOf (x.csrWord 0x300) 17 = false → x.pmpOk .m 1 a (min n (4096 - a % 4096)) = true →
      q.region a = some .window →
      ∃ t, exec (.hartLoadStoreAmo p h ⟨.amo op rd, va, n, v⟩) s = .next t ∧ (t.pol p).imp.logCause = 1 ∧
        (t.pol p).imp.logMaster = 4 + h.toNat ∧ (t.pol p).imp.logAddr = a ∧
        ((t.pol p).clerks.harts.get h).getX rd.toNat = 0 ∧ (∀ i, (t.pol p).seen i = q.seen i) ∧
        (t.pol p).counter Off.accLogCount = (q.counter Off.accLogCount + 1) % 2 ^ 48) ∧
    (n = 4 ∨ n = 8 → a % n ≠ 0 → a < 2 ^ 48 → bitOf (x.csrWord 0x300) 17 = false → x.pmpOk .m 1 a (min n (4096 - a % 4096)) = true →
      q.region a ≠ some .window →
      ∃ t, exec (.hartLoadStoreAmo p h ⟨.amo op rd, va, n, v⟩) s = .next t ∧ trapped t 6 a ∧
        ((t.pol p).clerks.harts.get h).pc.toNat = x.csrWord 0x305 / 4 * 4 ∧ ∀ i, (t.pol p).seen i = q.seen i) ∧
    (n = 2 ∨ n = 4 → q.hartInterrupt h = some c → x.csrWord 0x305 % 4 = 0 → a ≠ x.csrWord 0x305 →
      ∃ t, exec (.hartLoadStoreAmo p h ⟨.fetch, va, n, v⟩) s = .next t ∧ trapped t (c + 2 ^ 63) 0 ∧
        ((t.pol p).clerks.harts.get h).pc.toNat = x.csrWord 0x305 ∧ (t.pol p).mem = q.mem) ∧
    (n = 1 ∨ n = 2 ∨ n = 4 ∨ n = 8 → a % n = 0 → a < 2 ^ 48 → bitOf (x.csrWord 0x300) 17 = false → x.pmpOk .m 1 a n = true →
      q.region a ≠ some .window → q.causeOf (.hart h) a n true = some c →
      ∃ t, exec (.hartLoadStoreAmo p h ⟨.store, va, n, v⟩) s = .next t ∧ ((t.pol p).clerks.harts.get h).impounded = true ∧
        (∀ i, (t.pol p).seen i = q.seen i) ∧ (t.pol p).imp.valid = true ∧
        (q.imp.valid = false → (t.pol p).imp.cause = c ∧ (t.pol p).imp.write = true ∧ (t.pol p).imp.addr = a ∧
          (t.pol p).imp.data = BitVec.ofNat 64 (v.toNat % 2 ^ (8 * n))))

/-- R490, R493, R494 and R500, cache-block operations by a hart in M-mode on a dirty line; FENCE; the custom CSRs; and mtime. -/
def Claim.HartInstructions : Prop :=
  ∀ (s : State) (p h : Ix4) (va : BitVec 64) (bs : List Byte) (rd : BitVec 5) (pred succ : BitVec 4) (ticks : Nat),
    let q := s.pol p
    let x := q.clerks.harts.get h
    let l := va.toNat / 64
    let hart (t : State) : Hart := (t.pol p).clerks.harts.get h
    (q.canIssue (.hart h) = true → x.priv = .m → bitOf (x.csrWord 0x300) 17 = false → 64 * l < 2 ^ 48 → x.pmpOk .m 0 (64 * l) 64 = true →
      q.Cached → Store.find q.clerks.cache l = some ⟨true, bs⟩ →
      ∀ e ∈ [(Instr.cboClean p h va, true, some (Line.mk false bs)), (.cboFlush p h va, true, none), (.cboInval p h va, false, none)],
        ∃ t, exec e.1 s = .next t ∧ Store.find (t.pol p).clerks.cache l = e.2.2 ∧ hart t = x ∧
          (if e.2.1 then Stores s t p (64 * l) bs else (t.pol p).mem = q.mem) ∧
          ∀ k, k ≠ l → Store.find (t.pol p).clerks.cache k = Store.find q.clerks.cache k) ∧
    (q.canIssue (.hart h) = true →
      (∃ t, exec (.fence p h pred succ) s = .next t ∧ (t.pol p).clerks = { q.clerks with
        harts := q.clerks.harts.set h { x with wfi := false } } ∧ (t.pol p).mem = q.mem) ∧
      ∀ e ∈ [(Instr.tideCsr p h rd, q.wharf.tide), (.basinns p h rd, if q.alone then s.warden.dieTime else q.basin.now)],
        ∃ t, exec e.1 s = .next t ∧ (hart t).getX rd.toNat = (if rd = 0 then 0 else e.2 % 2 ^ 64) ∧ (t.pol p).mem = q.mem ∧
          (hart t).csr = x.csr ∧ (hart t).pc = x.pc ∧ ∀ r < 32, r ≠ rd.toNat → (hart t).getX r = x.getX r) ∧
    (q.mtimeRuns = true → q.clerks.mtime + ticks < q.stored64 (Off.mtimecmp h.toNat) → exec (.mtimecmp p h ticks) s = .next s) ∧
    (q.mtimeRuns = true → q.stored64 (Off.mtimecmp h.toNat) ≤ q.clerks.mtime + ticks → q.clerks.mtime + ticks < 2 ^ 64 →
      ∃ t, exec (.mtimecmp p h ticks) s = .next t ∧ t.warden.dieTime = s.warden.dieTime + 10 * ticks ∧ (t.pol p).clerks.mtime = q.clerks.mtime + ticks ∧ (t.pol p).mem = q.mem ∧
        bitOf ((t.pol p).mip h) 7 = true ∧ hart t = if bitOf (x.csrWord 0x304) 7 then { x with wfi := false } else x)

/-- R491, R498, R500 and R502, the clerks' registers: hart 0 starts the others at their entries; MSIP shows in mip; a claim takes the enabled
pending source of highest priority, the lowest of equals, and a completion frees it, with what was held. -/
def Claim.ClerkRegisters : Prop :=
  ∀ (s : State) (p h : Ix4) (m : Master) (ctx n : Nat) (v : Word),
    let q := s.pol p
    let c := q.clerks.plic
    let o := Off.plic + 0x4004 + 0x1000 * ctx
    let wants (k : Nat) : Prop := k < 35 ∧ q.plicPending.getLsbD k = true ∧ c.enabled ctx k = true ∧ 0 < c.priority k
    (WritePasses s p (.hart .i0) Off.clerkStart → h ≠ .i0 → (q.clerks.harts.get h).started = false →
      ∃ t, exec (.clerkStart p (.hart .i0) v) s = .next t ∧ (t.pol p).clerks.harts.get .i0 = q.clerks.harts.get .i0 ∧
        if v.getLsbD h.toNat then
          (t.pol p).clerks.harts.get h = { Hart.reset with
            started := true, impounded := (q.clerks.harts.get h).impounded, pc := BitVec.ofNat 64 (q.stored64 (Off.hartEntry h.toNat)) }
        else (t.pol p).clerks.harts.get h = q.clerks.harts.get h) ∧
    (WritePasses s p m (Off.msip h.toNat) →
      ∃ t, exec (.msip p h m v) s = .next t ∧ bitOf ((t.pol p).mip h) 3 = v.getLsbD 0 ∧ (t.pol p).clerks = q.clerks) ∧
    (ctx < 8 → q.mayIssue m false = true → q.clocks.stopped = false → q.holders.find? (fun e => decide (e.master = m)) = none → q.readFenced m o 4 = false →
      (∀ k, wants k → ∃ t w, exec (.plicClaim p m ctx) s = .next t ∧ wants w ∧
        (∀ j, wants j → c.priority j ≤ c.priority w ∧ (c.priority j = c.priority w → w ≤ j)) ∧
        (t.pol p).clerks.plic = { c with
          edge := c.edge &&& ~~~(1#35 <<< w), claimed := c.claimed ||| (1#35 <<< w), owner := Store.insert c.owner w ctx } ∧
        (m = .host → (t.pol p).host.cpl = .success (natLe 4 w))) ∧
      ((∀ k, ¬ wants k) → ∃ t, exec (.plicClaim p m ctx) s = .next t ∧ (t.pol p).clerks = q.clerks ∧
        (m = .host → (t.pol p).host.cpl = .success (natLe 4 0)))) ∧
    (ctx < 8 → WritePasses s p m o → n < 35 → v = BitVec.ofNat 32 n → c.enabled ctx n = true → c.claimed.getLsbD n = true →
      ∃ t, exec (.plicComplete p m ctx v) s = .next t ∧ (t.pol p).clerks.plic.claimed = c.claimed &&& ~~~(1#35 <<< n) ∧
        (t.pol p).clerks.plic.edge = c.edge ||| (c.held &&& (1#35 <<< n)) ∧
        (t.pol p).clerks.plic.held = c.held &&& ~~~(1#35 <<< n) ∧ (t.pol p).clerks.harts = q.clerks.harts)

/-! ## The host port -/

/-- R59, R71, R77, R81, R340, R349, R508 and R520, host requests through BAR2: memory is written and read as it is, in a single double word the
enabled bytes alone; a register of the window is accessed as by a master's own access, through BAR0 too; a read that a check stops impounds the
host and is unsupported; and while the Charter is loaded BAR2 reads all-ones. -/
def Claim.HostAccesses : Prop :=
  ∀ (s : State) (p : Ix4) (r : HostReq) (c : Nat) (be : BitVec 4),
    let q := s.pol p
    let n := 4 * r.dw
    let o := r.addr - winBase
    let window : Prop := winBase ≤ r.addr ∧ r.addr < winBase + 0x400000
    HostAsks s p r → q.memctl.errs = [] → q.noReads →
    (q.bootWrites = true → r.write = false →
      ∃ t, exec (.bar2Access p r) s = .next t ∧ (t.pol p).host.cpl = .success (List.replicate n 0xFF#8) ∧ Untouched s t p) ∧
    (r.addr + n ≤ 0x400000 → q.bootWrites = false →
      exec (.bar2Access p { r with bar0 := true }) s = exec (.bar2Access p { r with addr := winBase + r.addr }) s) ∧
    (q.bootWrites = false →
    (¬ window → r.write = true → r.data.length = n → q.causeOf .host r.addr n true = none → q.Plain r.addr n true →
      ∃ t, exec (.bar2Access p r) s = .next t ∧ Stores s t p r.addr r.data ∧ (t.pol p).berths = q.berths ∧
        (t.pol p).counter Off.hostRx = (q.counter Off.hostRx + n) % 2 ^ 48) ∧
    (r.write = true → r.dw = 1 → r.data.length = 4 → r.addr + 4 ≤ 0x8000000 → (∀ k, q.fenceOn k = false) →
      ∃ t, exec (.bar2Access p { r with firstBE := be }) s = .next t ∧
        (∀ i < 4, (t.pol p).mem.read (r.addr + i) = if be.getLsbD i then r.data.getD i 0 else q.mem.read (r.addr + i)) ∧
        ∀ i, i < r.addr ∨ r.addr + 4 ≤ i → (t.pol p).mem.read i = q.mem.read i) ∧
    (¬ window → r.write = false → q.causeOf .host r.addr n false = none → q.Plain r.addr n false →
      ∃ t, exec (.bar2Access p r) s = .next t ∧ (t.pol p).host.cpl = .success (q.mem.readBytes r.addr n) ∧ (t.pol p).mem = q.mem) ∧
    (¬ window → r.write = false → q.causeOf .host r.addr n false = some c →
      ∃ t, exec (.bar2Access p r) s = .next t ∧ (t.pol p).host.cpl = .unsupported ∧ (t.pol p).imp.host = true ∧
        (t.pol p).imp.valid = true ∧ (q.imp.valid = false → (t.pol p).imp.cause = c ∧ (t.pol p).imp.addr = r.addr) ∧
        (t.pol p).mem = q.mem) ∧
    (window → r.write = true → r.dw = 1 → r.data.length = 4 →
      exec (.bar2Access p r) s =
        exec (.registerWrite p ⟨.host, o, 4, BitVec.ofNat 64 (leNat r.data)⟩ Coincide.none) s) ∧
    (window → r.write = false → r.dw = 1 → (regSpec o).isSome = true → isPair o = false → readsClear o = false → isInner o = false →
      q.readFenced .host o 4 = false →
      ∃ t, exec (.bar2Access p r) s = .next t ∧ (t.pol p).host.cpl = .success (natLe 4 (q.regRead o)) ∧ Untouched s t p))

/-- R10, R59, R69, R72, R76, R77 and R86, a write of a register by a master: its plain fields take the bits written, those of W1C bits clear
unless hardware sets them in the same cycle; tide-scheduled fields are held after CHARTER_LOCK; the low half of a pair waits for the high
one; a field fixed at CHARTER_LOCK impounds the master; and an unassigned offset is logged. -/
def Claim.RegisterWrites : Prop :=
  ∀ (s : State) (p : Ix4) (m : Master) (o : Nat) (v sets : Word) (r : RegSpec),
    let q := s.pol p
    let write (o : Nat) (co : Coincide) : Instr := .registerWrite p ⟨m, o, 4, v.setWidth 64⟩ co
    let old := q.stored o
    (WritePasses s p m o → plainReg o r → r.w1c = 0 → r.ts = 0 →
      ∃ t, exec (write o Coincide.none) s = .next t ∧ Untouched s t p ∧ RegsKept s t p o ∧
        ∀ i < 32, bitOf ((t.pol p).stored o) i = if bitOf (r.rw ||| r.lv) i then v.getLsbD i else bitOf old i) ∧
    (WritePasses s p m Off.memSticky →
      ∃ t, exec (write Off.memSticky ⟨sets.setWidth 64, 0, false⟩) s = .next t ∧ Untouched s t p ∧
        (∀ i < 10, bitOf ((t.pol p).stored Off.memSticky) i =
          (sets.getLsbD i || (bitOf (q.stored Off.memSticky) i && !v.getLsbD i))) ∧
        (t.pol p).counter Off.setwinCount =
          (q.counter Off.setwinCount + (List.range 10).countP (fun i => v.getLsbD i && sets.getLsbD i)) % 2 ^ 48) ∧
    (WritePasses s p m o → plainReg o r → r.ts ≠ 0 → q.charter.lock = true →
      ∃ t, exec (write o Coincide.none) s = .next t ∧ Untouched s t p ∧
        Store.find (t.pol p).held o = some (BitVec.ofNat 32 (v.toNat &&& r.ts)) ∧
        ∀ i < 32, bitOf r.ts i = true → bitOf ((t.pol p).stored o) i = bitOf old i) ∧
    (q.mayIssue m true = true → q.clocks.stopped = false → q.holders = [] → isPair o = true → o % 8 = 0 → o < 0x200000 → isMsix o = false →
      (∃ t, exec (write o Coincide.none) s = .next t ∧ (t.pol p).holders = [⟨m, o, v⟩] ∧ Untouched s t p ∧
        ∀ k, ¬ k ∈ [Off.hostRx, Off.hostRx + 4] → (t.pol p).stored k = q.stored k)) ∧
    (∀ h, m = .hart h → q.mayIssue m true = true → q.holders = [] → isPair o = false → isMsix o = false → o < 0x200000 → o % 4 = 0 →
      q.bootWrites = false → q.fenced (masterCode m) (winBase + o) 4 true = false → regSpec o = some r → r.rw ≠ 0 →
      q.charter.lock = true →
      ∃ t, exec (write o Coincide.none) s = .next t ∧ ((t.pol p).clerks.harts.get h).impounded = true ∧ (t.pol p).mem = q.mem ∧
        (t.pol p).stored o = old ∧ (t.pol p).imp.valid = true ∧ (q.imp.valid = false → (t.pol p).imp.cause = 5 ∧
          (t.pol p).imp.addr = winBase + o ∧ (t.pol p).imp.data = v.setWidth 64)) ∧
    (q.mayIssue m true = true → q.clocks.stopped = false → q.holders = [] → regSpec o = none → isPair o = false → isMsix o = false → o < 0x200000 → o % 4 = 0 →
      ∃ t, exec (write o Coincide.none) s = .next t ∧ Untouched s t p ∧ (t.pol p).imp.logCause = 5 ∧
        (t.pol p).imp.logMaster = masterCode m ∧ (t.pol p).imp.logAddr = winBase + o ∧
        (t.pol p).counter Off.accLogCount = (q.counter Off.accLogCount + 1) % 2 ^ 48)

/-- R144, R175, R382, R412, R452 and R486, a W1C write in the cycle in which hardware sets the bit it would clear, in CLK_STICKY (REF_LOST),
WARDEN_STICKY, GL_STICKY, LG_STICKY, SL_STICKY and LOCK_STICKY: the bit stays set. -/
def Claim.StickySetWins : Prop :=
  ∀ (s : State) (p : Ix4) (sd : Side) (m : Master) (v sets : Word),
    (∀ e ∈ [(Off.clkSticky, 1), (Off.glSticky, 6), (Off.lgSticky, 4), (Off.sluice sd + 4, 10), (Off.lockSticky, 5)],
      WritePasses s p m e.1 →
      ∃ t, exec (.registerWrite p ⟨m, e.1, 4, v.setWidth 64⟩ ⟨sets.setWidth 64, 0, false⟩) s = .next t ∧ Untouched s t p ∧
        ∀ i < e.2, bitOf ((t.pol p).stored e.1) i = (sets.getLsbD i || (bitOf ((s.pol p).stored e.1) i && !v.getLsbD i))) ∧
    (s.pf4.linkUp = true → s.pf4.mse = true → s.warden.lock = true → s.warden.imp = none → s.warden.wholder = none →
      ∃ t, exec (.wardenWrite 0xC 4 (v.setWidth 64) ⟨sets.setWidth 64, 0, false⟩) s = .next t ∧ t.polders = s.polders ∧
        ∀ i < 8, bitOf (t.warden.wreg 0xC) i = (sets.getLsbD i || (bitOf (s.warden.wreg 0xC) i && !v.getLsbD i)))

/-- R507, R521, R525 and R527, the link: it goes down for every function, is counted and flagged, and comes up at the rate and width trained;
configuration sets what it names, and a held message is sent once its vector can send. -/
def Claim.LinkEvents : Prop :=
  ∀ (s : State) (p : Ix4) (rate : BitVec 4) (width : BitVec 5) (flit : Bool) (k : ConfigBits) (v : Nat),
    let q := s.pol p
    (q.host.linkUp = true → s.pf4.linkUp = true →
      ∃ t, exec .linkDown s = .next t ∧ (t.pol p).host.linkUp = false ∧ (t.pol p).host.bme = false ∧ (t.pol p).host.mse = false ∧
        (t.pol p).host.msixEn = false ∧ t.pf4.linkUp = false ∧ Untouched s t p ∧ t.warden = s.warden ∧
        (t.pol p).counter Off.linkDownCount = (q.counter Off.linkDownCount + 1) % 2 ^ 48 ∧
        bitOf ((t.pol p).stored Off.hostSticky) 0 = true) ∧
    (s.perst = false →
      (width = 8 ∨ width = 16 → ∃ t, exec (.linkUp rate width flit) s = .next t ∧
        (∀ i, t.pol i = { s.pol i with host := { (s.pol i).host with rate := rate, width := width, linkUp := true, flit := flit } }) ∧
        t.pf4 = { s.pf4 with rate := rate, width := width, linkUp := true, flit := flit } ∧ t.warden = s.warden) ∧
      (width ≠ 8 → width ≠ 16 → exec (.linkUp rate width flit) s = .next s)) ∧
    (q.host.linkUp = true →
      exec (.configWrite (some p) k) s = .next (s.onPol p (fun q => { q with
        host := { q.host with
          mse := k.mse, bme := k.bme, msixEn := k.msixEnable, fmask := k.functionMask, payload := k.payload
          readSize := k.readSize } }))) ∧
    (s.pf4.linkUp = true → exec (.configWrite none k) s = .next { s with
      pf4 := { s.pf4 with
        mse := k.mse, bme := k.bme, msixEn := k.msixEnable, fmask := k.functionMask, payload := k.payload, readSize := k.readSize } }) ∧
    (v < 64 →
      (q.host.pba.getLsbD v = true → q.host.canSend v = true →
        ∃ t, exec (.msixPendingSend (some p) v) s = .next t ∧
          (t.pol p).host = { q.host with sent := v :: q.host.sent, pba := q.host.pba &&& ~~~(1#64 <<< v) } ∧ Untouched s t p) ∧
      (s.pf4.pba.getLsbD v = true → s.pf4.canSend v = true →
        exec (.msixPendingSend none v) s = .next { s with
          pf4 := { s.pf4 with sent := v :: s.pf4.sent, pba := s.pf4.pba &&& ~~~(1#64 <<< v) } }))

/-! ## The Watchhouse -/

/-- R533 to R535, AUTH: a challenge leaves its nonce; the right MAC over it raises the session to the level asked for; a wrong one, or none to
check it by, is AUTHFAIL, and the eighth in a row locks the mailbox out; nonce and lockout end in their time. -/
def Claim.Authentication : Prop :=
  ∀ (s : State) (p : Ix4) (r : MbReq) (nonce : List Byte) (level : Nat) (box : Ix2),
    let q := s.pol p
    let b := q.watch.box.at r.box
    let after (t : State) : Mailbox := (t.pol p).watch.box.at r.box
    let mac (n : List Byte) : List Byte := hmac256 (q.debugKey level) (q.authMessage r.box n level)
    let fails (t : State) : Prop := Answered t p r 1 0xF 0 [] ∧ (after t).level = b.level ∧ (after t).nonce = none ∧ Untouched s t p ∧
      bitOf ((t.pol p).stored Off.whSticky) 2 = true ∧
      (b.fails < 7 → (after t).fails = b.fails + 1 ∧ (after t).lockout = false) ∧
      (b.fails = 7 → (after t).lockout = true ∧ bitOf ((t.pol p).stored Off.whSticky) 3 = true)
    (Mailed s p r 0 → b.lockout = false →
      (nonce.length = 32 → ∃ t, exec (.authChallenge p r nonce) s = .next t ∧ Answered t p r 1 0 0 nonce ∧ Untouched s t p ∧
        (after t).nonce = some nonce ∧ (after t).level = b.level) ∧
      (r.args.toNat % 256 = level → level = 1 ∨ level = 2 → 32 ≤ r.data.length →
        (∀ n, b.nonce = some n → mac n = r.data.take 32 →
          ∃ t, exec (.authResponse p r) s = .next t ∧ Answered t p r 1 0 0 [] ∧ (after t).level = level ∧ (after t).fails = 0 ∧
            (after t).nonce = none ∧ Untouched s t p) ∧
        ((∀ n, b.nonce = some n → mac n ≠ r.data.take 32) → ∃ t, exec (.authResponse p r) s = .next t ∧ fails t))) ∧
    (Mailed s p r 0 → b.lockout = true → ∀ e ∈ [Instr.authChallenge p r nonce, .authResponse p r],
      ∃ t, exec e s = .next t ∧ Answered t p r 1 0x10 0 [] ∧ (after t).level = b.level ∧ (after t).nonce = b.nonce) ∧
    (∃ t, exec (.nonceExpiry p box) s = .next t ∧ (t.pol p).watch.box.at box = { q.watch.box.at box with nonce := none } ∧
      Untouched s t p) ∧
    ∃ t, exec (.lockoutEnd p box) s = .next t ∧ (t.pol p).watch.box.at box = { q.watch.box.at box with lockout := false } ∧
      Untouched s t p

/-- R535, R536, R538 and R550, STATUS, READ and WRITE: a request below its level, or at a mailbox that is busy, is turned away; memory and the
arrays of a halted berth are read and written as they are. -/
def Claim.WatchAccess : Prop :=
  ∀ (s : State) (p b : Ix4) (r : MbReq),
    let q := s.pol p
    let x := s.bth p b
    (Mailed s p r 0 → ∃ t result, exec (.status p r) s = .next t ∧ Untouched s t p ∧
      Answered t p r 2 0 result (q.berths.toList.flatMap (fun x => natLe 4 x.status) ++ natLe 4 (q.regRead 0x140000))) ∧
    (q.boxOpen r.box = true → (q.watch.box.at r.box).busy = true →
      ∀ e ∈ [Instr.status p r, .read p r, .write p r], ∃ t, exec e s = .next t ∧ Untouched s t p ∧
        (t.pol p).watch.box.at r.box = { q.watch.box.at r.box with reject := true }) ∧
    (Mailed s p r 0 →
      ((q.watch.box.at r.box).level < 1 → ∃ t, exec (.read p r) s = .next t ∧ Answered t p r 3 1 0 [] ∧ Untouched s t p) ∧
      ((q.watch.box.at r.box).level < 2 → r.space.toNat < 3 →
        ∃ t, exec (.write p r) s = .next t ∧ Answered t p r 4 1 0 [] ∧ Untouched s t p)) ∧
    (r.len ≤ 57344 →
      (r.space = 0 → q.boot.booting = false → q.holders = [] → r.addr + r.len ≤ 0x8000000 → q.memctl.errs = [] →
        (Mailed s p r 1 → ∃ t, exec (.read p r) s = .next t ∧ Untouched s t p ∧
          Answered t p r 3 0 0 (q.mem.readBytes r.addr r.len)) ∧
        (Mailed s p r 2 → r.data.length = r.len → q.noReads →
          ∃ t, exec (.write p r) s = .next t ∧ Answered t p r 4 0 0 [] ∧ Stores s t p r.addr r.data ∧ (t.pol p).berths = q.berths)) ∧
      (r.space = 1 → r.unit.toNat = b.toNat →
        (x.halted = false → Mailed s p r 1 → ∃ t, exec (.read p r) s = .next t ∧ Answered t p r 3 4 0 [] ∧ Untouched s t p) ∧
        (x.halted = true → r.len = 8 →
          (∀ k c, x.stack[k]? = some c → k < 2080 → r.addr = 8 * k →
            (Mailed s p r 1 → ∃ t, exec (.read p r) s = .next t ∧ Answered t p r 3 0 0 (natLe 8 c.val.toNat) ∧ Untouched s t p) ∧
            (Mailed s p r 2 → r.data.length = 8 → ∃ t, exec (.write p r) s = .next t ∧ Answered t p r 4 0 0 [] ∧
              t.bth p b = { x with stack := x.stack.set k (Slot.mk (BitVec.ofNat 64 (leNat r.data)) 0) }))) ∧
        (x.halted = true → r.len = 4 → r.addr = 0xE000 → r.data.length = 4 → Mailed s p r 2 →
          ∃ t, exec (.write p r) s = .next t ∧ Answered t p r 4 0 0 [] ∧ t.bth p b = { x with pc := leNat r.data % 2 ^ 17 })))

/-- R539, R542, R543, R550, R553 and R554, halting and resuming: a berth that runs is asked, and answers once it has halted where it stands, or
STALLED; one without a waybill is armed; harts halt and resume; and the tide is frozen and freed. -/
def Claim.HaltsAndResumes : Prop :=
  ∀ (s : State) (p b : Ix4) (r : MbReq) (box : Ix2) (seq : BitVec 16),
    let q := s.pol p
    let x := s.bth p b
    let h := q.clerks.harts.get b
    let box' (t : State) : Mailbox := (t.pol p).watch.box.at box
    (Mailed s p r 2 → r.unit.toNat = b.toNat →
      (x.halted = false → x.run.isSome = true → x.phase = .running →
        ∃ t, exec (.haltBerth p r) s = .next t ∧ t.bth p b = { x with haltReq := true } ∧
          ((t.pol p).watch.box.at r.box).busy = true ∧ ((t.pol p).watch.box.at r.box).after = some (r.seq, 5, b)) ∧
      (x.halted = false → x.run = none →
        ∃ t, exec (.haltBerth p r) s = .next t ∧ Answered t p r 5 0 0 [] ∧ t.bth p b = { x with armed := true }) ∧
      (x.halted = true → ∃ t, exec (.resumeBerth p r) s = .next t ∧ Answered t p r 6 0 0 [] ∧ t.bth p b = { x with halted := false }) ∧
      (x.halted = false → x.armed = false → x.haltReq = false →
        ∃ t, exec (.resumeBerth p r) s = .next t ∧ Answered t p r 6 4 0 [] ∧ Untouched s t p) ∧
      (h.started = true → h.halted = false → ∃ t, exec (.haltHart p r) s = .next t ∧ Answered t p r 5 0 0 [] ∧
        (t.pol p).clerks.harts.get b = { h with halted := true } ∧ (t.pol p).berths = q.berths) ∧
      (h.halted = true → ∃ t, exec (.resumeHart p r) s = .next t ∧ Answered t p r 6 0 0 [] ∧
        (t.pol p).clerks.harts.get b = { h with halted := false } ∧ (t.pol p).berths = q.berths)) ∧
    (Mailed s p r 2 → q.boot = .run → ∃ t, exec (.tideFreeze p r) s = .next t ∧ Answered t p r 5 0 0 [] ∧
      (t.pol p).wharf = { q.wharf with frozen := true } ∧ bitOf ((t.pol p).stored Off.whSticky) 0 = true ∧ Untouched s t p) ∧
    (Mailed s p r 2 → q.wharf.frozen = true → q.tideAt (s.dom p).basinNs ≤ q.wharf.tide →
      ∃ t, exec (.tideFreezeEnd p r) s = .next t ∧ Answered t p r 6 0 0 [] ∧ (t.pol p).wharf = { q.wharf with frozen := false } ∧
        Untouched s t p) ∧
    ((q.watch.box.at box).after = some (seq, 5, b) → (∀ k, k ≠ box → (q.watch.box.at k).after = none) →
      (q.clocks.stopped = false → q.millsRun = true → x.haltReq = true → x.run.isSome = true → x.impounded = false → x.phase = .running → x.flights = [] →
        (∀ c ∈ x.stack, c.lands ≤ x.mc) → x.shapePend = [] →
        ∃ t, exec (.berthHalted p ⟨b, 0⟩) s = .next t ∧ (t.bth p b).halted = true ∧ (t.bth p b).haltReq = false ∧
          (t.bth p b).pc = x.pc ∧ (t.bth p b).stack = x.stack ∧ (t.bth p b).phase = .running ∧ (box' t).done = true ∧
          (box' t).busy = false ∧ (box' t).status = 0 ∧ (box' t).lastSeq = seq ∧ (t.pol p).mem = q.mem) ∧
      ∃ t, exec (.haltStalled p b) s = .next t ∧ (t.bth p b).haltReq = x.haltReq ∧ (box' t).done = true ∧ (box' t).status = 0xA ∧
        (box' t).lastSeq = seq ∧ Untouched s t p)

/-- R85, R540, R541, R551 and R558, the monitor's own work: a feed runs on a halted berth and leaves its PC; a code that may not be fed is
refused; a step issues the instruction at the PC; and a master that is released issues again. -/
def Claim.FeedStepRelease : Prop :=
  ∀ (s : State) (p b : Ix4) (r : MbReq) (v : Byte) (code : List Byte),
    let q := s.pol p
    let x := s.bth p b
    let free (t : State) : Prop := Answered t p r 9 0 0 [] ∧ (t.pol p).mem = q.mem
    let bare : Prop := x.flights = [] ∧ q.copy = [] ∧ q.lock.xfer = [] ∧ q.gleaner.ops = [] ∧ q.ledger.ops = [] ∧
      q.stored (Off.berth b.toNat + 0x1C) % 2 = 0
    (Mailed s p r 2 → r.unit.toNat = b.toNat → x.halted = true → q.millsRun = true → x.impounded = false → x.run.isSome = true →
      x.flights = [] → (∀ c ∈ x.stack, c.lands ≤ x.mc) → x.shapePend = [] →
      (r.len = 2 → r.data = [0x50#8, v] → x.stack.length < 2080 →
        ∃ t, exec (.feed p r) s = .next t ∧ (t.bth p b).pc = x.pc ∧ (t.bth p b).halted = true ∧
          (t.bth p b).stack = Slot.mk (BitVec.ofInt 64 v.toInt) 0 :: x.stack ∧ (t.pol p).mem = q.mem ∧
          Answered t p r 7 0 (x.stack.length + 1)
            (natLe 8 (BitVec.ofInt 64 v.toInt).toNat ++ (x.stack.take 7).flatMap (fun c => natLe 8 c.val.toNat))) ∧
      (r.len = 1 → (∃ k ∈ [0x38, 0x3F, 0x60, 0x63, 0x68, 0x90, 0x92, 0xF0, 0xFF], r.data = [BitVec.ofNat 8 k]) →
        ∃ t, exec (.feed p r) s = .next t ∧ Answered t p r 7 9 0 [] ∧ Untouched s t p) ∧
      (r.sub = 0 → x.phase = .running → x.pc < x.codeLen → x.codeHere = 0#8 :: code →
        ∃ t, exec (.step p r) s = .next t ∧ Answered t p r 8 0 0 [] ∧ (t.bth p b).pc = (x.pc + 1) % 2 ^ 17 ∧
          (t.bth p b).halted = true ∧ (t.bth p b).stack = x.stack ∧ (t.pol p).mem = q.mem)) ∧
    (Mailed s p r 2 →
      (r.args.toNat % 256 = b.toNat →
        (x.impounded = true → bare → ∃ t, exec (.release p r) s = .next t ∧ free t ∧ (t.bth p b).impounded = false ∧
          (t.bth p b).run = none ∧ (t.bth p b).phase = .idle ∧ ∀ c, c ≠ b → t.bth p c = s.bth p c) ∧
        (x.impounded = false → ∃ t, exec (.release p r) s = .next t ∧ Answered t p r 9 8 0 [] ∧ Untouched s t p)) ∧
      (r.args.toNat % 256 = 4 + b.toNat → (q.clerks.harts.get b).impounded = true →
        ∃ t, exec (.release p r) s = .next t ∧ free t ∧ (t.pol p).clerks.harts.get b = { q.clerks.harts.get b with impounded := false }) ∧
      (r.args.toNat % 256 = 8 → q.imp.host = true → r.box = .o → ∃ t, exec (.release p r) s = .next t ∧ free t ∧ (t.pol p).imp.host = false))

/-- R545 to R547, the Logbook: TRACE configures it, with a SYNC record; a read gives its oldest record and frees it; a clear empties it; and a
write of MARK adds a record with its value and the time. -/
def Claim.LogbookCommands : Prop :=
  ∀ (s : State) (p : Ix4) (r : MbReq) (m : Master) (v : BitVec 64) (u : BitVec 256),
    let q := s.pol p
    let w := q.watch
    (Mailed s p r 1 →
      (w.kept + 2 ≤ 32768 → w.wr + 2 < 32768 → w.lost = 0 → bitOf (r.args.toNat % 2 ^ 32) 0 = true →
        ∃ t, exec (.traceConfig p r) s = .next t ∧ Answered t p r 0xA 0 0 [] ∧ Untouched s t p ∧ (t.pol p).watch.lbEn = true ∧
          (t.pol p).watch.stopMode = bitOf (r.args.toNat % 2 ^ 32) 1 ∧
          (t.pol p).watch.classMask = BitVec.ofNat 32 (r.args.toNat / 2 ^ 32) ∧ (t.pol p).watch.wr = w.wr + 2 ∧
          (t.pol p).watch.kept = w.kept + 2 ∧
          ∃ y, Store.find (t.pol p).watch.units w.wr = some y ∧ y.toNat / 2 ^ 64 % 256 = 1) ∧
      (32 ≤ r.len → r.len < 64 → 1 ≤ w.kept → w.rd < 32768 → Store.find w.units w.rd = some u → u.toNat / 2 ^ 80 % 256 = 1 →
        ∃ t, exec (.traceRead p r) s = .next t ∧ Answered t p r 0xA 0 0 (natLe 32 u.toNat) ∧ Untouched s t p ∧
          (t.pol p).watch.rd = (w.rd + 1) % 32768 ∧ (t.pol p).watch.kept = w.kept - 1) ∧
      ∃ t, exec (.traceClear p r) s = .next t ∧ Answered t p r 0xA 0 0 [] ∧ Untouched s t p ∧ (t.pol p).watch.wr = 0 ∧
        (t.pol p).watch.rd = 0 ∧ (t.pol p).watch.kept = 0) ∧
    (q.mayIssue m true = true → q.clocks.stopped = false → q.holders = [] → q.bootWrites = false →
      q.fenced (masterCode m) (winBase + Off.mark) 8 true = false →
      w.lbEn = true → w.classMask.getLsbD 0xB = true → w.kept + 1 ≤ 32768 → w.wr + 1 < 32768 → w.lost = 0 →
      ∃ t y, exec (.mark p m v) s = .next t ∧ Untouched s t p ∧ (t.pol p).watch.wr = w.wr + 1 ∧ (t.pol p).watch.kept = w.kept + 1 ∧
        Store.find (t.pol p).watch.units w.wr = some y ∧ y.toNat % 2 ^ 64 = s.warden.dieTime % 2 ^ 64 ∧
        y.toNat / 2 ^ 64 % 256 = 0xB ∧ y.toNat / 2 ^ 128 % 2 ^ 64 = v.toNat)

/-- R63 and R544, the rewrite service: it takes the flash, gathers the image, checks it, programs slot B, and with FINISH leaves the image in
both slots; an image that a check of R45 fails ends it with CHARTER_REFUSED and the cause. -/
def Claim.CharterRewrite : Prop :=
  ∀ (s : State) (p : Ix4) (r : MbReq) (rw : Rewrite),
    let q := s.pol p
    let t0 := q.target
    let density := if q.charter.sfdp.valid then q.charter.sfdp.density else q.free.1.toNat
    let hc := t0.headerCause density (rw.image.take 64)
    let cause := if hc ≠ 0 then hc else if leNat ((rw.image.drop 8).take 4) ≠ rw.len then 3 else t0.imageCause rw.image
    (Mailed s p r 2 →
    (r.args.toNat % 256 = 0 → q.watch.rewrite = none → q.boot ≠ .charter → q.boot ≠ .hbmtrain →
      ∃ t, exec (.charterWriteBegin p r) s = .next t ∧ Answered t p r 0xB 0 0 [] ∧ Untouched s t p ∧
        (t.pol p).watch.rewrite = some ⟨false, r.args.toNat / 256 % 2 ^ 32, .begun, [], []⟩) ∧
    (q.watch.rewrite = some rw → rw.warden = false →
      (r.len ≤ 57344 → r.data.length = r.len →
        (rw.step = .begun → r.addr = rw.image.length → r.addr + r.len ≤ rw.len →
          ∃ t, exec (.charterWriteVerify p r) s = .next t ∧ Answered t p r 0xB 0 0 [] ∧ Untouched s t p ∧
            (t.pol p).watch.rewrite = some { rw with
              image := rw.image ++ r.data, step := if r.addr + r.len = rw.len then .verified else .begun }) ∧
        (rw.step = .checked → r.addr = rw.written.length → r.addr + r.len ≤ rw.len →
          (r.addr + r.len = rw.len → rw.written ++ r.data = rw.image) →
          ∃ t, exec (.charterWriteProgram p r true) s = .next t ∧ Answered t p r 0xB 0 0 [] ∧ Untouched s t p ∧
            (t.pol p).charter = { q.charter with dpd := false, flashB := some (rw.written ++ r.data) } ∧
            (t.pol p).watch.rewrite = some { rw with
              written := rw.written ++ r.data, step := if r.addr + r.len = rw.len then .programmed else .checked })) ∧
      (rw.step = .verified →
        (cause = 0 → ∃ t, exec (.charterWriteCheck p r) s = .next t ∧ Answered t p r 0xB 0 0 [] ∧ Untouched s t p ∧
          (t.pol p).watch.rewrite = some { rw with step := .checked }) ∧
        (cause ≠ 0 → ∃ t, exec (.charterWriteCheck p r) s = .next t ∧ Answered t p r 0xB 0xC cause [] ∧ Untouched s t p ∧
          (t.pol p).watch.rewrite = none ∧ (t.pol p).charter = q.charter)) ∧
      (rw.step = .programmed →
        (∃ t, exec (.charterWriteFinish p r true (some true)) s = .next t ∧ Answered t p r 0xB 0 0 [] ∧
          Untouched s t p ∧ (t.pol p).watch.rewrite = none ∧
          (t.pol p).charter = { q.charter with dpd := true, flashA := some rw.image, flashB := some rw.image }) ∧
        ∃ t, exec (.charterWriteFinish p r true none) s = .next t ∧ Untouched s t p ∧ ((t.pol p).watch.box.at r.box).busy = true ∧
          (t.pol p).watch.rewrite = some { rw with step := .copying } ∧
          (t.pol p).charter = { q.charter with flashA := some [], flashB := some rw.image }))) ∧
    (q.watch.rewrite = some rw → rw.warden = false → rw.step = .copying → ∀ box seq u, r.box = box →
      (q.watch.box.at box).after = some (seq, 0xB, u) →
      ∃ t, exec (.charterWriteFinish p r true (some true)) s = .next t ∧ Untouched s t p ∧
        (t.pol p).charter = { q.charter with dpd := true, flashA := some rw.image, flashB := some rw.image } ∧
        (t.pol p).watch.rewrite = none ∧ ((t.pol p).watch.box.at box).done = true ∧ ((t.pol p).watch.box.at box).busy = false ∧
        ((t.pol p).watch.box.at box).status = 0 ∧ ((t.pol p).watch.box.at box).lastSeq = seq)

end Sys2Proof.Machine

/-! ## The statements -/

/-- The stack group. -/
def Obligations.StackManipulation : Prop := Sys2Proof.Machine.Claim.StackMoves ∧ Sys2Proof.Machine.Claim.StackCopies

/-- Arithmetic, comparison and bit fields. -/
def Obligations.ArithmeticResults : Prop :=
  Sys2Proof.Machine.Claim.ArithmeticResults ∧ Sys2Proof.Machine.Claim.Comparisons ∧ Sys2Proof.Machine.Claim.BitFields

/-- Logic, shifts and counts of bits. -/
def Obligations.BitOperations : Prop := Sys2Proof.Machine.Claim.LogicBits ∧ Sys2Proof.Machine.Claim.BitCounts

/-- Control flow and the return stack. -/
def Obligations.BranchesAndCalls : Prop := Sys2Proof.Machine.Claim.Branches ∧ Sys2Proof.Machine.Claim.CallsAndReturns

/-- Literals, idles and the interrupt state. -/
def Obligations.PushesAndIdles : Prop := Sys2Proof.Machine.Claim.PushesAndIdles ∧ Sys2Proof.Machine.Claim.InterruptState

/-- Loads, stores and the read-modify-write instructions. -/
def Obligations.LoadsAndStores : Prop :=
  Sys2Proof.Machine.Claim.LoadResults ∧ Sys2Proof.Machine.Claim.StoreResults ∧ Sys2Proof.Machine.Claim.StoreLands ∧ Sys2Proof.Machine.Claim.AtomicResults

/-- The tallies, waits on them and their arms. -/
def Obligations.TallyInstructions : Prop :=
  Sys2Proof.Machine.Claim.TallyResults ∧ Sys2Proof.Machine.Claim.TallyWriteWins ∧ Sys2Proof.Machine.Claim.WaitResults ∧ Sys2Proof.Machine.Claim.ArmResult

/-- The shape table. -/
def Obligations.ShapeInstructions : Prop := Sys2Proof.Machine.Claim.ShapeFields ∧ Sys2Proof.Machine.Claim.ShapeResults

/-- Signals and interrupts. -/
def Obligations.SignalsAndInterrupts : Prop :=
  Sys2Proof.Machine.Claim.SignalResults ∧ Sys2Proof.Machine.Claim.InterruptEntryEffect ∧ Sys2Proof.Machine.Claim.PokeEffect

/-- The ends of a waybill: traps and the record they leave, END and TIMEOUT. -/
def Obligations.TrapsAndRecords : Prop :=
  Sys2Proof.Machine.Claim.TrapsEndWaybill ∧ Sys2Proof.Machine.Claim.TrapRecord ∧ Sys2Proof.Machine.Claim.EndAndTimeout

/-- Full stacks, and misaligned short accesses. -/
def Obligations.StacksAndAlignment : Prop := Sys2Proof.Machine.Claim.StackViolation ∧ Sys2Proof.Machine.Claim.MisalignedShort

/-- The long operations. -/
def Obligations.LongOperations : Prop :=
  Sys2Proof.Machine.Claim.FillResult ∧ Sys2Proof.Machine.Claim.MoveResult ∧ Sys2Proof.Machine.Claim.ChecksumResult

/-- An unlisted opcode. -/
def Obligations.ReservedOpcodeFrame : Prop := Sys2Proof.Machine.Claim.ReservedOpcodeFrame

/-- A step runs the command at the front of the queue. -/
def Obligations.StepTakesFront : Prop := Sys2Proof.Machine.Claim.StepTakesFront

/-- No command changes the queue, and a step on an empty one passes time alone (log entry 1). -/
def Obligations.QueueKept : Prop := Sys2Proof.Machine.Claim.CommandsKeepQueue ∧ Sys2Proof.Machine.Claim.IdleStepPassesTime

/-- Every step keeps the pool sound. -/
def Obligations.PoolSoundStep : Prop := Sys2Proof.Machine.Claim.PoolSoundStep

/-- The pool is sound after power-on. -/
def Obligations.PoolSoundReset : Prop := Sys2Proof.Machine.Claim.PoolSoundReset

/-- A polder is apart from the others. -/
def Obligations.PolderIsolation : Prop := Sys2Proof.Machine.Claim.PolderIsolation

/-- Instructions of a berth with no waybill do nothing (log entry 4). -/
def Obligations.IdleBerthInstructions : Prop := Sys2Proof.Machine.Claim.IdleBerthInstructions

/-- Power-on, rails and pins. -/
def Obligations.PowerAndRails : Prop := Sys2Proof.Machine.Claim.PowerOnState ∧ Sys2Proof.Machine.Claim.PinsAndRails

/-- The resets of a polder and THERMTRIP#. -/
def Obligations.ResetsAndThermtrip : Prop := Sys2Proof.Machine.Claim.PolderResets ∧ Sys2Proof.Machine.Claim.ThermtripStops

/-- The release of a polder, and WH_RESET. -/
def Obligations.ReleaseAndWatchhouseReset : Prop := Sys2Proof.Machine.Claim.ReleaseFromPowered ∧ Sys2Proof.Machine.Claim.WatchhouseReset

/-- The Charter's zero fill. -/
def Obligations.CharterZeroFill : Prop := Sys2Proof.Machine.Claim.ZeroFill

/-- The Charter's SFDP. -/
def Obligations.CharterSfdp : Prop := Sys2Proof.Machine.Claim.SfdpRead

/-- The Charter's header. -/
def Obligations.CharterHeader : Prop := Sys2Proof.Machine.Claim.HeaderRead

/-- The Charter's body. -/
def Obligations.CharterBody : Prop := Sys2Proof.Machine.Claim.BodyRead

/-- Training and joining. -/
def Obligations.JoiningTheBasin : Prop := Sys2Proof.Machine.Claim.Joining

/-- The clocks. -/
def Obligations.ClockControl : Prop :=
  Sys2Proof.Machine.Claim.RelockSteps ∧ Sys2Proof.Machine.Claim.ClockTest ∧ Sys2Proof.Machine.Claim.ReferenceLoss

/-- The division of the pool. -/
def Obligations.EpochDivision : Prop := Sys2Proof.Machine.Claim.EpochDivision

/-- What the Warden is told. -/
def Obligations.WardenEvents : Prop :=
  Sys2Proof.Machine.Claim.WardenSignals ∧ Sys2Proof.Machine.Claim.WardenWrites ∧ Sys2Proof.Machine.Claim.WardenLoad

/-- Waybills are read and checked. -/
def Obligations.WaybillReads : Prop := Sys2Proof.Machine.Claim.WaybillReads

/-- Admission, preload and start. -/
def Obligations.WaybillStarts : Prop := Sys2Proof.Machine.Claim.WaybillStarts

/-- Tides. -/
def Obligations.TideEvents : Prop := Sys2Proof.Machine.Claim.TideEvents

/-- Loads of weights. -/
def Obligations.PlaneLoads : Prop := Sys2Proof.Machine.Claim.PlaneLoads

/-- MM and MMO. -/
def Obligations.MatrixResults : Prop := Sys2Proof.Machine.Claim.MatrixResults ∧ Sys2Proof.Machine.Claim.OuterResults

/-- POST and the reductions. -/
def Obligations.PostAndReduce : Prop := Sys2Proof.Machine.Claim.PostAndReduce

/-- MOV and TURN. -/
def Obligations.CopyResults : Prop := Sys2Proof.Machine.Claim.CopyResults

/-- Transfers to other polders. -/
def Obligations.TransferResults : Prop := Sys2Proof.Machine.Claim.TransferResults

/-- Reads of the Gleaner. -/
def Obligations.Lookups : Prop := Sys2Proof.Machine.Claim.Lookups

/-- Updates of the Gleaner. -/
def Obligations.RowUpdates : Prop := Sys2Proof.Machine.Claim.RowUpdates

/-- Rows asked for by another polder. -/
def Obligations.RemoteRows : Prop := Sys2Proof.Machine.Claim.RemoteRows

/-- Operations of the Ledger. -/
def Obligations.LedgerStarts : Prop := Sys2Proof.Machine.Claim.LedgerStarts

/-- Results of the Ledger. -/
def Obligations.LedgerReports : Prop := Sys2Proof.Machine.Claim.LedgerReports ∧ Sys2Proof.Machine.Claim.BackwardReport

/-- Swaps. -/
def Obligations.SwapPages : Prop := Sys2Proof.Machine.Claim.SwapPages

/-- Scrubs and the HBM stacks. -/
def Obligations.MemoryCare : Prop :=
  Sys2Proof.Machine.Claim.GranaryScrub ∧ Sys2Proof.Machine.Claim.PatrolScrub ∧ Sys2Proof.Machine.Claim.StackTroubles

/-- Frames on a line. -/
def Obligations.SluiceFrames : Prop := Sys2Proof.Machine.Claim.FramesHeard ∧ Sys2Proof.Machine.Claim.BeaconsAndRequests

/-- Contention and the master. -/
def Obligations.ContentionAndMaster : Prop := Sys2Proof.Machine.Claim.Contention ∧ Sys2Proof.Machine.Claim.MasterDuties

/-- The state of a sluice and its cells. -/
def Obligations.SluiceStatesAndCells : Prop := Sys2Proof.Machine.Claim.SluiceStates ∧ Sys2Proof.Machine.Claim.CellsSent

/-- What a sluice emits in a slot. -/
def Obligations.SlotLayout : Prop := Sys2Proof.Machine.Claim.SlotLayout

/-- Frames of the Lock. -/
def Obligations.LockFrames : Prop := Sys2Proof.Machine.Claim.FramesLanded ∧ Sys2Proof.Machine.Claim.Acknowledgements

/-- Accesses of a hart. -/
def Obligations.HartMemory : Prop := Sys2Proof.Machine.Claim.HartAccesses ∧ Sys2Proof.Machine.Claim.HartTraps

/-- Instructions and registers of the clerks. -/
def Obligations.ClerkCommands : Prop := Sys2Proof.Machine.Claim.HartInstructions ∧ Sys2Proof.Machine.Claim.ClerkRegisters

/-- The host port. -/
def Obligations.HostAndLink : Prop := Sys2Proof.Machine.Claim.HostAccesses ∧ Sys2Proof.Machine.Claim.LinkEvents

/-- Writes to registers. -/
def Obligations.RegisterWrites : Prop := Sys2Proof.Machine.Claim.RegisterWrites

/-- A write of a sticky bit against a set in the same cycle. -/
def Obligations.StickySetWins : Prop := Sys2Proof.Machine.Claim.StickySetWins

/-- AUTH. -/
def Obligations.Authentication : Prop := Sys2Proof.Machine.Claim.Authentication

/-- STATUS, READ and WRITE. -/
def Obligations.MailboxAccess : Prop := Sys2Proof.Machine.Claim.WatchAccess

/-- Halts. -/
def Obligations.HaltsAndResumes : Prop := Sys2Proof.Machine.Claim.HaltsAndResumes

/-- Feeds, steps and releases. -/
def Obligations.FeedStepRelease : Prop := Sys2Proof.Machine.Claim.FeedStepRelease

/-- The Logbook and the rewrite service. -/
def Obligations.LogbookAndRewrite : Prop := Sys2Proof.Machine.Claim.LogbookCommands ∧ Sys2Proof.Machine.Claim.CharterRewrite
end

