-- ==== Sys2Proof/Laws/State.lean ====
section
/-!
SUPPORT. Laws/State.lean: reading what an update of State has written, one lemma for a field and an update, true by unfolding once.
-/
namespace Sys2Proof

@[simp] theorem Quad.get_set_same {α : Type} (q : Quad α) (i : Ix4) (x : α) : (q.set i x).get i = x := by cases i <;> rfl

theorem Quad.get_set_other {α : Type} (q : Quad α) {i j : Ix4} (x : α) (h : j ≠ i) : (q.set i x).get j = q.get j := by
  cases i <;> cases j <;> first | rfl | exact absurd rfl h

@[simp] theorem Quad.set_get_self {α : Type} (q : Quad α) (i : Ix4) : q.set i (q.get i) = q := by cases i <;> rfl

@[simp] theorem Quad.set_set {α : Type} (q : Quad α) (i : Ix4) (x y : α) : (q.set i x).set i y = q.set i y := by cases i <;> rfl

@[simp] theorem Duo.get_set_same {α : Type} (d : Duo α) (i : Side) (x : α) : (d.set i x).get i = x := by cases i <;> rfl

theorem Duo.get_set_other {α : Type} (d : Duo α) {i j : Side} (x : α) (h : j ≠ i) : (d.set i x).get j = d.get j := by
  cases i <;> cases j <;> first | rfl | exact absurd rfl h

@[simp] theorem Duo.set_set {α : Type} (d : Duo α) (i : Side) (x y : α) : (d.set i x).set i y = d.set i y := by cases i <;> rfl

@[simp] theorem Duo.set_get_self {α : Type} (d : Duo α) (i : Side) : d.set i (d.get i) = d := by cases i <;> rfl

@[simp] theorem Duo.at_put_same {α : Type} (d : Duo α) (i : Ix2) (x : α) : (d.put i x).at i = x := by cases i <;> rfl

theorem Duo.at_put_other {α : Type} (d : Duo α) {i j : Ix2} (x : α) (h : j ≠ i) : (d.put i x).at j = d.at j := by
  cases i <;> cases j <;> first | rfl | exact absurd rfl h

end Sys2Proof

namespace Sys2Proof.Machine

/-! ## A polder of the die -/

@[simp] theorem State.pol_setPol (s : State) (p : Ix4) (q : Polder) : (s.setPol p q).pol p = q := by simp [State.pol, State.setPol]

theorem State.pol_setPol_other (s : State) {p r : Ix4} (q : Polder) (h : r ≠ p) : (s.setPol p q).pol r = s.pol r := by
  simp [State.pol, State.setPol, Quad.get_set_other _ _ h]

@[simp] theorem State.setPol_warden (s : State) (p : Ix4) (q : Polder) : (s.setPol p q).warden = s.warden := rfl
@[simp] theorem State.setPol_pf4 (s : State) (p : Ix4) (q : Polder) : (s.setPol p q).pf4 = s.pf4 := rfl
@[simp] theorem State.setPol_hostMem (s : State) (p : Ix4) (q : Polder) : (s.setPol p q).hostMem = s.hostMem := rfl
@[simp] theorem State.setPol_pending (s : State) (p : Ix4) (q : Polder) : (s.setPol p q).pending = s.pending := rfl

@[simp] theorem State.pol_onPol (s : State) (p : Ix4) (f : Polder → Polder) : (s.onPol p f).pol p = f (s.pol p) := by
  simp [State.onPol]

theorem State.pol_onPol_other (s : State) {p r : Ix4} (f : Polder → Polder) (h : r ≠ p) : (s.onPol p f).pol r = s.pol r :=
  s.pol_setPol_other _ h

@[simp] theorem State.onPol_warden (s : State) (p : Ix4) (f : Polder → Polder) : (s.onPol p f).warden = s.warden := rfl
@[simp] theorem State.onPol_pending (s : State) (p : Ix4) (f : Polder → Polder) : (s.onPol p f).pending = s.pending := rfl
@[simp] theorem State.onPol_hostMem (s : State) (p : Ix4) (f : Polder → Polder) : (s.onPol p f).hostMem = s.hostMem := rfl

@[simp] theorem State.onWarden_warden (s : State) (f : Warden → Warden) : (s.onWarden f).warden = f s.warden := rfl
@[simp] theorem State.onWarden_pol (s : State) (f : Warden → Warden) (p : Ix4) : (s.onWarden f).pol p = s.pol p := rfl
@[simp] theorem State.onWarden_polders (s : State) (f : Warden → Warden) : (s.onWarden f).polders = s.polders := rfl
@[simp] theorem State.onWarden_pending (s : State) (f : Warden → Warden) : (s.onWarden f).pending = s.pending := rfl

/-! ## A polder that acts (R19) -/

@[simp] theorem State.undom_pol (s : State) (p : Ix4) (d : Dom) : (s.undom p d).pol p = d.q := by simp [State.undom, State.pol]

theorem State.undom_pol_other (s : State) {p r : Ix4} (d : Dom) (h : r ≠ p) : (s.undom p d).pol r = s.pol r := by
  simp [State.undom, State.pol, Quad.get_set_other _ _ h]

@[simp] theorem State.undom_warden (s : State) (p : Ix4) (d : Dom) : (s.undom p d).warden = s.warden := rfl
@[simp] theorem State.undom_pf4 (s : State) (p : Ix4) (d : Dom) : (s.undom p d).pf4 = s.pf4 := rfl
@[simp] theorem State.undom_pending (s : State) (p : Ix4) (d : Dom) : (s.undom p d).pending = s.pending := rfl
@[simp] theorem State.undom_hostMem (s : State) (p : Ix4) (d : Dom) : (s.undom p d).hostMem = d.host := rfl

/-- An action that waits for nothing takes place. -/
theorem State.act_served (s : State) (p : Ix4) (f : Dom → Dom) (h : (f (s.dom p)).waits = false) :
    s.act p f = s.undom p (f (s.dom p)) := by
  simp [State.act, h]

/-- One that has to wait for HBM leaves the die as it is (log entry 103). -/
theorem State.act_waits (s : State) (p : Ix4) (f : Dom → Dom) (h : (f (s.dom p)).waits = true) : s.act p f = s := by
  simp [State.act, h]

theorem State.act_pol (s : State) (p : Ix4) (f : Dom → Dom) (h : (f (s.dom p)).waits = false) :
    (s.act p f).pol p = (f (s.dom p)).q := by
  simp [s.act_served p f h]

theorem State.act_pol_other (s : State) {p r : Ix4} (f : Dom → Dom) (h : r ≠ p) : (s.act p f).pol r = s.pol r := by
  unfold State.act
  simp only []
  split
  · rfl
  · exact s.undom_pol_other _ h

@[simp] theorem State.act_warden (s : State) (p : Ix4) (f : Dom → Dom) : (s.act p f).warden = s.warden := by
  unfold State.act
  simp only []
  split <;> rfl

@[simp] theorem State.act_pf4 (s : State) (p : Ix4) (f : Dom → Dom) : (s.act p f).pf4 = s.pf4 := by
  unfold State.act
  simp only []
  split <;> rfl

@[simp] theorem State.act_pending (s : State) (p : Ix4) (f : Dom → Dom) : (s.act p f).pending = s.pending := by
  unfold State.act
  simp only []
  split <;> rfl

/-- A row of the stopped clocks is not due (R141, R159). -/
theorem State.actOn_stopped (s : State) (p : Ix4) (f : Dom → Dom) (h : (s.pol p).clocks.stopped = true) : s.actOn p f = s := by
  simp [State.actOn, h]

theorem State.actOn_runs (s : State) (p : Ix4) (f : Dom → Dom) (h : (s.pol p).clocks.stopped = false) : s.actOn p f = s.act p f := by
  simp [State.actOn, h]

@[simp] theorem State.dom_q (s : State) (p : Ix4) : (s.dom p).q = s.pol p := rfl
@[simp] theorem State.dom_host (s : State) (p : Ix4) : (s.dom p).host = s.hostMem := rfl
@[simp] theorem State.dom_now (s : State) (p : Ix4) : (s.dom p).now = s.warden.dieTime := rfl
@[simp] theorem State.dom_waits (s : State) (p : Ix4) : (s.dom p).waits = false := rfl

/-- An action that changes the polder alone is an update of it. -/
theorem State.act_on (s : State) (p : Ix4) (f : Dom → Dom) (h : (f (s.dom p)).host = s.hostMem)
    (hw : (f (s.dom p)).waits = false) : s.act p f = s.onPol p (fun _ => (f (s.dom p)).q) := by
  simp only [s.act_served p f hw, State.undom, State.onPol, State.setPol, h]

@[simp] theorem Dom.on_q (d : Dom) (f : Polder → Polder) : (d.on f).q = f d.q := rfl
@[simp] theorem Dom.on_host (d : Dom) (f : Polder → Polder) : (d.on f).host = d.host := rfl
@[simp] theorem Dom.on_now (d : Dom) (f : Polder → Polder) : (d.on f).now = d.now := rfl
@[simp] theorem Dom.on_waits (d : Dom) (f : Polder → Polder) : (d.on f).waits = d.waits := rfl

/-! ## A berth of a polder -/

@[simp] theorem Polder.onBerth_get (q : Polder) (b : Ix4) (f : Berth → Berth) :
    (q.onBerth b f).berths.get b = f (q.berths.get b) := by simp [Polder.onBerth]

theorem Polder.onBerth_get_other (q : Polder) {b c : Ix4} (f : Berth → Berth) (h : c ≠ b) :
    (q.onBerth b f).berths.get c = q.berths.get c := by simp [Polder.onBerth, Quad.get_set_other _ _ h]

@[simp] theorem Polder.onBerth_regs (q : Polder) (b : Ix4) (f : Berth → Berth) : (q.onBerth b f).regs = q.regs := rfl
@[simp] theorem Polder.onBerth_mem (q : Polder) (b : Ix4) (f : Berth → Berth) : (q.onBerth b f).mem = q.mem := rfl
@[simp] theorem Polder.onBerth_watch (q : Polder) (b : Ix4) (f : Berth → Berth) : (q.onBerth b f).watch = q.watch := rfl
@[simp] theorem Polder.onBerth_stored (q : Polder) (b : Ix4) (f : Berth → Berth) (o : Nat) :
    (q.onBerth b f).stored o = q.stored o := rfl

@[simp] theorem Dom.berth_onBerth (d : Dom) (b : Ix4) (f : Berth → Berth) : (d.onBerth b f).berth b = f (d.berth b) := by
  simp [Dom.berth, Dom.onBerth]

@[simp] theorem Dom.onBerth_q (d : Dom) (b : Ix4) (f : Berth → Berth) : (d.onBerth b f).q = d.q.onBerth b f := rfl
@[simp] theorem Dom.onBerth_host (d : Dom) (b : Ix4) (f : Berth → Berth) : (d.onBerth b f).host = d.host := rfl
@[simp] theorem Dom.onBerth_waits (d : Dom) (b : Ix4) (f : Berth → Berth) : (d.onBerth b f).waits = d.waits := rfl
@[simp] theorem Dom.tick_host (d : Dom) (b : Ix4) (n : Nat) (fed : Bool) : (d.tick b n fed).host = d.host := rfl
@[simp] theorem Dom.tick_waits (d : Dom) (b : Ix4) (n : Nat) (fed : Bool) : (d.tick b n fed).waits = d.waits := rfl
@[simp] theorem Dom.bump_host (d : Dom) (o n : Nat) : (d.bump o n).host = d.host := rfl
@[simp] theorem Dom.bump_waits (d : Dom) (o n : Nat) : (d.bump o n).waits = d.waits := rfl
@[simp] theorem Polder.tick_get (q : Polder) (b : Ix4) (n : Nat) (fed : Bool) :
    (q.tick b n fed).berths.get b = (((q.landUpTo b ((q.berths.get b).mc + n)).berths.get b).tick n fed).settleShapes := by
  simp [Polder.tick]

@[simp] theorem Dom.onBerth_onBerth (d : Dom) (b : Ix4) (f g : Berth → Berth) :
    (d.onBerth b f).onBerth b g = d.onBerth b (g ∘ f) := by
  simp [Dom.onBerth, Dom.on, Polder.onBerth]

end Sys2Proof.Machine
end

