-- ==== Sys2Proof/Laws/Store.lean ====
section
/-!
SUPPORT. Laws/Store.lean: sparse stores and the byte memory: a read after a write, a write elsewhere, and the canonical form.
-/
namespace Sys2Proof.Machine

namespace Store

theorem find_insert_same {α : Type} (m : Store α) (a : Nat) (v : α) : find (insert m a v) a = some v := by
  induction m with
  | nil => simp [insert, find]
  | cons h t ih =>
    obtain ⟨k, w⟩ := h
    simp only [insert]
    split
    · simp [find]
    · split
      · simp [find]
      · rename_i h1 h2
        simp only [find]
        rw [if_neg (by omega)]
        exact ih

theorem find_insert_other {α : Type} (m : Store α) {a b : Nat} (v : α) (h : b ≠ a) : find (insert m a v) b = find m b := by
  induction m with
  | nil => simp [insert, find, Ne.symm h]
  | cons x t ih =>
    obtain ⟨k, w⟩ := x
    simp only [insert]
    split
    · simp [find, Ne.symm h]
    · split
      · rename_i h1 h2
        subst h2
        simp [find, Ne.symm h]
      · simp only [find]
        split
        · rfl
        · exact ih

theorem find_erase_other {α : Type} (m : Store α) {a b : Nat} (h : b ≠ a) : find (erase m a) b = find m b := by
  induction m with
  | nil => rfl
  | cons x t ih =>
    obtain ⟨k, w⟩ := x
    simp only [erase]
    split
    · rename_i hk
      subst hk
      simpa [find, Ne.symm h] using ih
    · simp only [find]
      split
      · rfl
      · exact ih

theorem find_put_other {α : Type} [DecidableEq α] (m : Store α) {a b : Nat} (v d : α) (h : b ≠ a) :
    find (put m a v d) b = find m b := by
  unfold put
  split
  · exact find_erase_other m h
  · exact find_insert_other m v h

theorem getD_put_other {α : Type} [DecidableEq α] (m : Store α) {a b : Nat} (v d e : α) (h : b ≠ a) :
    getD (put m a v d) b e = getD m b e := by
  simp [getD, find_put_other m v d h]

/-- Every key of a store is above `lo`. -/
def above {α : Type} (lo : Nat) (m : Store α) : Bool := m.all (fun x => decide (lo < x.1))

theorem sorted_cons {α : Type} (x : Nat × α) (m : Store α) : sorted (x :: m) = (above x.1 m && sorted m) := by
  obtain ⟨a, v⟩ := x
  induction m generalizing a v with
  | nil => simp [sorted, above]
  | cons y t ih =>
    obtain ⟨b, w⟩ := y
    rw [sorted, ih b w]
    simp only [above, List.all_cons]
    by_cases h : a < b
    · simp only [h, decide_true, Bool.true_and]
      by_cases h2 : t.all (fun x => decide (b < x.1)) = true
      · have h3 : t.all (fun x => decide (a < x.1)) = true := by
          simp only [List.all_eq_true, decide_eq_true_eq] at h2 ⊢
          intro x hx
          have := h2 x hx
          omega
        simp [h2, h3]
      · simp [h2]
    · simp [h]

theorem above_insert {α : Type} (m : Store α) {lo a : Nat} (v : α) (h : lo < a) (hm : above lo m = true) :
    above lo (insert m a v) = true := by
  induction m with
  | nil => simp [insert, above, h]
  | cons x t ih =>
    obtain ⟨k, w⟩ := x
    simp only [above, List.all_cons, Bool.and_eq_true, decide_eq_true_eq] at hm
    simp only [insert]
    split
    · simp [above, h, hm.1]
      simpa [above] using hm.2
    · split
      · simp [above, h]
        simpa [above] using hm.2
      · have := ih hm.2
        simp only [above, List.all_cons, Bool.and_eq_true, decide_eq_true_eq]
        exact ⟨hm.1, this⟩

theorem above_erase {α : Type} (m : Store α) {lo : Nat} (a : Nat) (hm : above lo m = true) : above lo (erase m a) = true := by
  induction m with
  | nil => exact hm
  | cons x t ih =>
    obtain ⟨k, w⟩ := x
    simp only [above, List.all_cons, Bool.and_eq_true] at hm
    simp only [erase]
    split
    · exact ih hm.2
    · simp only [above, List.all_cons, Bool.and_eq_true]
      exact ⟨hm.1, ih hm.2⟩

theorem sorted_insert {α : Type} (m : Store α) (a : Nat) (v : α) (h : sorted m = true) : sorted (insert m a v) = true := by
  induction m with
  | nil => rfl
  | cons x t ih =>
    obtain ⟨k, w⟩ := x
    rw [sorted_cons, Bool.and_eq_true] at h
    simp only [insert]
    split
    · rename_i hk
      rw [sorted_cons, sorted_cons]
      simp only [Bool.and_eq_true]
      refine ⟨?_, h⟩
      simp only [above, List.all_cons, Bool.and_eq_true, decide_eq_true_eq, List.all_eq_true] at h ⊢
      exact ⟨hk, fun y hy => by have := h.1 y hy; omega⟩
    · split
      · rename_i hk
        subst hk
        rw [sorted_cons]
        simp [h.1, h.2]
      · rw [sorted_cons]
        simp only [Bool.and_eq_true]
        exact ⟨above_insert t v (by omega) h.1, ih h.2⟩

theorem sorted_erase {α : Type} (m : Store α) (a : Nat) (h : sorted m = true) : sorted (erase m a) = true := by
  induction m with
  | nil => rfl
  | cons x t ih =>
    obtain ⟨k, w⟩ := x
    rw [sorted_cons, Bool.and_eq_true] at h
    simp only [erase]
    split
    · exact ih h.2
    · rw [sorted_cons]
      simp only [Bool.and_eq_true]
      exact ⟨above_erase t a h.1, ih h.2⟩

theorem sorted_filter {α : Type} (m : Store α) (p : Nat × α → Bool) (h : sorted m = true) : sorted (m.filter p) = true := by
  induction m with
  | nil => rfl
  | cons x t ih =>
    rw [sorted_cons, Bool.and_eq_true] at h
    simp only [List.filter_cons]
    split
    · rw [sorted_cons]
      simp only [Bool.and_eq_true]
      refine ⟨?_, ih h.2⟩
      have := h.1
      simp only [above, List.all_eq_true, decide_eq_true_eq, List.mem_filter] at this ⊢
      exact fun y hy => this y hy.1
    · exact ih h.2

theorem find_erase_same {α : Type} (m : Store α) (a : Nat) : find (erase m a) a = none := by
  induction m with
  | nil => rfl
  | cons x t ih =>
    obtain ⟨k, w⟩ := x
    simp only [erase]
    split
    · exact ih
    · rename_i hk
      simpa [find, hk] using ih

/-- What is put under a number is what is found there. -/
theorem getD_put_same {α : Type} [DecidableEq α] (m : Store α) (a : Nat) (v d : α) : getD (put m a v d) a d = v := by
  unfold put
  split
  · rename_i h
    simp [getD, find_erase_same, h]
  · simp [getD, find_insert_same]

theorem getD_put {α : Type} [DecidableEq α] (m : Store α) (a b : Nat) (v d : α) :
    getD (put m a v d) b d = if b = a then v else getD m b d := by
  split
  · rename_i h
    rw [h, getD_put_same]
  · rename_i h
    exact getD_put_other m v d d h

end Store

namespace Mem

/-- A write leaves every other byte as it was. -/
theorem read_write_other (m : Mem) {a b : Nat} (v : Byte) (h : b ≠ a) : (m.write a v).read b = m.read b := by
  unfold write
  split
  · simp [read, base, Store.find_erase_other m.cells h]
  · simp [read, base, Store.find_insert_other m.cells v h]

/-- A byte written is the byte read. -/
theorem read_write_same (m : Mem) (a : Nat) (v : Byte) : (m.write a v).read a = v := by
  unfold write
  split
  · rename_i hz
    have hk := hz.2
    simp only [read, Store.find_erase_same m.cells a, base]
    unfold baseKnown at hk
    split
    · rename_i hf
      simp [hf] at hk
    · exact hz.1.symm
  · simp [read, Store.find_insert_same]

theorem wf_write (m : Mem) (a : Nat) (v : Byte) (h : m.wf = true) : (m.write a v).wf = true := by
  simp only [wf, Bool.and_eq_true, List.all_eq_true] at h ⊢
  unfold write
  split
  · refine ⟨Store.sorted_erase _ _ h.1, fun c hc => ?_⟩
    have hm : c ∈ m.cells := by
      have : ∀ (l : Store Byte), c ∈ Store.erase l a → c ∈ l := by
        intro l
        induction l with
        | nil => intro h; exact h
        | cons x t ih =>
          obtain ⟨k, w⟩ := x
          simp only [Store.erase]
          split
          · exact fun h => List.mem_cons_of_mem _ (ih h)
          · intro h
            rcases List.mem_cons.mp h with h | h
            · simp [h]
            · exact List.mem_cons_of_mem _ (ih h)
      exact this _ hc
    exact h.2 c hm
  · rename_i hz
    refine ⟨Store.sorted_insert _ _ _ h.1, fun c hc => ?_⟩
    have hm : c = (a, v) ∨ c ∈ m.cells := by
      have : ∀ (l : Store Byte), c ∈ Store.insert l a v → c = (a, v) ∨ c ∈ l := by
        intro l
        induction l with
        | nil => intro h; simpa [Store.insert] using h
        | cons x t ih =>
          obtain ⟨k, w⟩ := x
          simp only [Store.insert]
          split
          · intro h; simpa using h
          · split
            · intro h
              rcases List.mem_cons.mp h with h | h
              · exact .inl h
              · exact .inr (List.mem_cons_of_mem _ h)
            · intro h
              rcases List.mem_cons.mp h with h | h
              · exact .inr (by simp [h])
              · rcases ih h with h | h
                · exact .inl h
                · exact .inr (List.mem_cons_of_mem _ h)
      exact this _ hc
    rcases hm with rfl | hm
    · by_cases hv : v = 0
      · have hf : m.baseKnown a = false := by
          cases hb : m.baseKnown a with
          | false => rfl
          | true => exact absurd ⟨hv, hb⟩ hz
        show (!(v == 0 && m.baseKnown a)) = true
        rw [hf, Bool.and_false]; rfl
      · show (!(v == 0 && m.baseKnown a)) = true
        rw [beq_false_of_ne hv]; rfl
    · exact h.2 c hm

theorem wf_writeBytes (m : Mem) (a : Nat) (bs : List Byte) (h : m.wf = true) : (m.writeBytes a bs).wf = true := by
  induction bs generalizing m a with
  | nil => exact h
  | cons b bs ih => exact ih _ _ (wf_write m a b h)

/-- Bytes written leave every byte outside their range as it was. -/
theorem read_writeBytes_other (m : Mem) (a b : Nat) (bs : List Byte) (h : b < a ∨ a + bs.length ≤ b) :
    (m.writeBytes a bs).read b = m.read b := by
  induction bs generalizing m a with
  | nil => rfl
  | cons x xs ih =>
    simp only [List.length_cons] at h
    rw [writeBytes, ih _ _ (by omega), read_write_other _ _ (by omega)]

/-- Bytes written are the bytes read, in a memory in its canonical form. -/
theorem readBytes_writeBytes_same (m : Mem) (a : Nat) (bs : List Byte) :
    (m.writeBytes a bs).readBytes a bs.length = bs := by
  induction bs generalizing m a with
  | nil => rfl
  | cons x xs ih =>
    simp only [List.length_cons, readBytes, writeBytes]
    rw [ih, read_writeBytes_other _ _ _ _ (by omega), read_write_same]

theorem fillAt_filter_kept (fs : List Fill) (lo len a : Nat) (h : a < lo ∨ lo + len ≤ a) :
    fillAt (fs.filter (fun f => !(lo ≤ f.lo && f.lo + f.len ≤ lo + len))) a = fillAt fs a := by
  induction fs with
  | nil => rfl
  | cons f t ih =>
    simp only [List.filter_cons]
    split
    · simp only [fillAt]
      split
      · rfl
      · exact ih
    · rename_i hc
      simp only [fillAt]
      rw [ih]
      have : (decide (f.lo ≤ a) && decide (a < f.lo + f.len)) = false := by
        simp only [Bool.not_eq_true, Bool.not_eq_false', Bool.and_eq_true, decide_eq_true_eq] at hc
        simp only [Bool.and_eq_false_iff, decide_eq_false_iff_not]
        omega
      simp [this]

theorem fillAt_none_of_apart (fs : List Fill) (lo len a : Nat) (h : fs.any (overlaps lo len) = false)
    (ha : lo ≤ a ∧ a < lo + len) : fillAt fs a = none := by
  induction fs with
  | nil => rfl
  | cons f t ih =>
    simp only [List.any_cons, Bool.or_eq_false_iff] at h
    simp only [fillAt]
    rw [if_neg, ih h.2]
    have := h.1
    simp only [overlaps, Bool.and_eq_false_iff, decide_eq_false_iff_not] at this
    simp only [Bool.and_eq_true, decide_eq_true_eq]
    omega

/-- What the fills say of an address after a new one: the new stamp inside it, what was said before outside it. -/
theorem fillAt_fill (m : Mem) (lo len a : Nat) (st : Option Nat) (h : len ≠ 0) :
    (if lo ≤ a ∧ a < lo + len then
      (fillAt (m.fill lo len st).fills a = some ⟨lo, len, st⟩ ∨ (st = none ∧ fillAt (m.fill lo len st).fills a = none))
    else fillAt (m.fill lo len st).fills a = fillAt m.fills a) := by
  unfold fill
  rw [if_neg h]
  dsimp only
  split
  · rename_i ha
    split
    · rename_i hs
      exact .inr ⟨hs.1, fillAt_none_of_apart _ lo len a hs.2 ha⟩
    · left
      simp [fillAt, ha.1, ha.2]
  · rename_i ha
    have hk := fillAt_filter_kept m.fills lo len a (by omega)
    split
    · exact hk
    · simp only [fillAt]
      rw [if_neg, hk]
      simpa using fun h1 h2 => ha ⟨h1, h2⟩

theorem wf_fill (m : Mem) (lo len : Nat) (st : Option Nat) (h : m.wf = true) : (m.fill lo len st).wf = true := by
  by_cases hl : len = 0
  · simpa [fill, hl] using h
  · simp only [wf, Bool.and_eq_true, List.all_eq_true] at h ⊢
    have hcells : (m.fill lo len st).cells = m.cells.filter (fun c => !(lo ≤ c.1 && c.1 < lo + len)) := by
      simp [fill, hl]
    rw [hcells]
    refine ⟨Store.sorted_filter _ _ h.1, fun c hc => ?_⟩
    simp only [List.mem_filter, Bool.not_eq_true', Bool.and_eq_false_iff, decide_eq_false_iff_not] at hc
    have h2 := h.2 c hc.1
    have hf := fillAt_fill m lo len c.1 st hl
    rw [if_neg (by omega)] at hf
    simpa [baseKnown, hf] using h2

end Mem

end Sys2Proof.Machine
end

