-- ==== Sys2Proof/Laws/Registers.lean ====
section
/-!
SUPPORT. Laws/Registers.lean: what storing a register, counting in a pair and counting an event change (R67, R73, R74, R549).
-/
namespace Sys2Proof.Machine

theorem Polder.stored_store (q : Polder) (o o' v : Nat) :
    (q.store o v).stored o' = if o' = o then v % 2 ^ 32 else q.stored o' := by
  unfold Polder.stored Polder.store
  by_cases h : o' = o
  · subst h
    simp [Store.getD_put_same, word]
  · simp [Store.getD_put_other _ _ _ _ h, h]

@[simp] theorem Polder.stored_store_same (q : Polder) (o v : Nat) : (q.store o v).stored o = v % 2 ^ 32 := by
  simp [Polder.stored_store]

theorem Polder.stored_store_other (q : Polder) {o o' : Nat} (v : Nat) (h : o' ≠ o) : (q.store o v).stored o' = q.stored o' := by
  simp [Polder.stored_store, h]

/-- Storing changes the written values alone. -/
theorem Polder.store_eq (q : Polder) (o v : Nat) : q.store o v = { q with regs := (q.store o v).regs } := rfl

theorem Polder.bump_eq (q : Polder) (o n : Nat) : q.bump o n = { q with regs := (q.bump o n).regs } := rfl

theorem Polder.stored_lt (q : Polder) (o : Nat) : q.stored o < 2 ^ 32 := (Store.getD q.regs o (word (regReset o))).isLt

/-- A register other than the two halves of the counter stays. -/
theorem Polder.stored_bump_other (q : Polder) {o o' : Nat} (n : Nat) (h : o' ≠ o) (h4 : o' ≠ o + 4) :
    (q.bump o n).stored o' = q.stored o' := by
  simp [Polder.bump, Polder.stored_store, h, h4]

/-- VALUE of a counter wraps modulo 2^48 (R74). -/
theorem Polder.counter_bump (q : Polder) (o n : Nat) : (q.bump o n).counter o = (q.counter o + n) % 2 ^ 48 := by
  have h1 : (q.bump o n).stored o = (q.counter o + n) % 2 ^ 32 := by
    simp [Polder.bump, Polder.stored_store]
  have h2 : (q.bump o n).stored (o + 4) % 2 ^ 16 = (q.counter o + n) / 2 ^ 32 % 2 ^ 16 := by
    have hf : ∀ x : Nat, (x / 2 ^ 32 % 2 ^ 16 + 2 ^ 16 * (if x < 2 ^ 48 then q.stored (o + 4) / 2 ^ 16 % 4
        else q.stored (o + 4) / 2 ^ 16 % 4 ||| 1)) % 2 ^ 32 % 2 ^ 16 = x / 2 ^ 32 % 2 ^ 16 := by
      intro x
      omega
    rw [← hf (q.counter o + n)]
    unfold Polder.bump
    rw [Polder.stored_store, if_pos rfl]
  unfold Polder.counter at h1 h2 ⊢
  rw [h1, h2]
  omega

theorem Polder.counter_bump_other (q : Polder) {o o' : Nat} (n : Nat) (h1 : o' ≠ o) (h2 : o' ≠ o + 4) (h3 : o' + 4 ≠ o) :
    (q.bump o n).counter o' = q.counter o' := by
  have : o' + 4 ≠ o + 4 := fun h => h1 (by omega)
  simp [Polder.counter, Polder.stored_bump_other q n h1 h2, Polder.stored_bump_other q n h3 this]

/-! ## Events -/

@[simp] theorem Polder.withRegs_regs (q : Polder) (r : Store Word) : (q.withRegs r).regs = r := rfl
@[simp] theorem Polder.withRegs_watch (q : Polder) (r : Store Word) : (q.withRegs r).watch = q.watch := rfl
@[simp] theorem Polder.withRegs_berths (q : Polder) (r : Store Word) : (q.withRegs r).berths = q.berths := rfl
@[simp] theorem Polder.withRegs_withRegs (q : Polder) (r r' : Store Word) : (q.withRegs r).withRegs r' = q.withRegs r' := rfl
@[simp] theorem Polder.withBerth_regs (q : Polder) (b : Ix4) (y : Berth) : (q.withBerth b y).regs = q.regs := rfl
@[simp] theorem Polder.withBerth_watch (q : Polder) (b : Ix4) (y : Berth) : (q.withBerth b y).watch = q.watch := rfl
@[simp] theorem Polder.withBerth_stored (q : Polder) (b : Ix4) (y : Berth) (o : Nat) : (q.withBerth b y).stored o = q.stored o := rfl
@[simp] theorem Polder.withBerth_counter (q : Polder) (b : Ix4) (y : Berth) (o : Nat) :
    (q.withBerth b y).counter o = q.counter o := rfl
@[simp] theorem Polder.withBerth_issueReg (q : Polder) (b c : Ix4) (y : Berth) (o : Nat) :
    (q.withBerth b y).issueReg c o = q.issueReg c o := rfl
@[simp] theorem Polder.withBerth_withBerth (q : Polder) (b : Ix4) (y z : Berth) :
    (q.withBerth b y).withBerth b z = q.withBerth b z := by simp [Polder.withBerth]
@[simp] theorem Polder.withBerth_get (q : Polder) (b : Ix4) (y : Berth) : (q.withBerth b y).berths.get b = y := by
  simp [Polder.withBerth]
theorem Polder.bump_withRegs (q : Polder) (o n : Nat) (r : Store Word) : (q.bump o n).withRegs r = q.withRegs r := rfl
theorem Dom.bump_withRegs (d : Dom) (o n : Nat) (r : Store Word) : (d.bump o n).on (·.withRegs r) = d.on (·.withRegs r) := rfl
@[simp] theorem Polder.withRegs_get (q : Polder) (r : Store Word) (b : Ix4) : (q.withRegs r).berths.get b = q.berths.get b := rfl
theorem Polder.onBerth_eq (q : Polder) (b : Ix4) (f : Berth → Berth) : q.onBerth b f = q.withBerth b (f (q.berths.get b)) := rfl

theorem Dom.each_regs {α : Type} (d : Dom) (l : List α) (f : α → Dom → Dom)
    (h : ∀ x ∈ l, ∀ d : Dom, ∃ r, f x d = d.on (·.withRegs r)) :
    ∃ r, d.each l f = d.on (·.withRegs r) := by
  induction l generalizing d with
  | nil => exact ⟨d.q.regs, rfl⟩
  | cons x xs ih =>
    obtain ⟨r, hr⟩ := h x (List.mem_cons_self ..) d
    obtain ⟨r', hr'⟩ := ih (f x d) (fun y hy => h y (List.mem_cons_of_mem _ hy))
    refine ⟨r', ?_⟩
    have : d.each (x :: xs) f = (f x d).each xs f := rfl
    rw [this, hr', hr]
    rfl

/-- Counting an event writes event counters alone. -/
theorem Dom.event_regs (d : Dom) (e n : Nat) (b : Option Ix4) : ∃ r, d.event e n b = d.on (·.withRegs r) := by
  unfold Dom.event
  split
  · exact ⟨d.q.regs, rfl⟩
  · exact Dom.each_regs d _ _ (fun x _ d => ⟨_, rfl⟩)

theorem Dom.event_stored (d : Dom) (e n : Nat) (b : Option Ix4) {o : Nat} (h : ¬ d.q.countsAt e b o) :
    (d.event e n b).q.stored o = d.q.stored o := by
  unfold Dom.event
  split
  · rfl
  · have key : ∀ (l : List (Nat × Word)) (d : Dom), (∀ x ∈ l, o ≠ Off.evcnt x.1 ∧ o ≠ Off.evcnt x.1 + 4) →
        (d.each l (fun x d => d.bump (Off.evcnt x.1) n)).q.stored o = d.q.stored o := by
      intro l
      induction l with
      | nil => intro d _; rfl
      | cons x xs ih =>
        intro d hx
        have h1 := hx x (List.mem_cons_self ..)
        have : d.each (x :: xs) (fun x d => d.bump (Off.evcnt x.1) n)
            = (d.bump (Off.evcnt x.1) n).each xs (fun x d => d.bump (Off.evcnt x.1) n) := rfl
        rw [this, ih _ (fun y hy => hx y (List.mem_cons_of_mem _ hy))]
        exact Polder.stored_bump_other d.q n h1.1 h1.2
    refine key _ d (fun x hx => ?_)
    rw [List.mem_filter] at hx
    exact ⟨fun ho => h ⟨x, hx.1, hx.2, .inl ho⟩, fun ho => h ⟨x, hx.1, hx.2, .inr ho⟩⟩

@[simp] theorem Dom.event_host (d : Dom) (e n : Nat) (b : Option Ix4) : (d.event e n b).host = d.host := by
  obtain ⟨r, hr⟩ := d.event_regs e n b
  rw [hr]
  rfl

@[simp] theorem Dom.event_waits (d : Dom) (e n : Nat) (b : Option Ix4) : (d.event e n b).waits = d.waits := by
  obtain ⟨r, hr⟩ := d.event_regs e n b
  rw [hr]
  rfl

/-- Event counters lie above the berth registers. -/
theorem Polder.not_countsAt_low (q : Polder) (e : Nat) (b : Option Ix4) {o : Nat} (h : o < 0x200020) : ¬ q.countsAt e b o := by
  rintro ⟨x, -, -, ho⟩
  simp only [Off.evcnt] at ho
  omega

end Sys2Proof.Machine
end

