-- ==== Sys2Proof/Laws/Landing.lean ====
section
/-!
SUPPORT. Laws/Landing.lean: what the landing of a berth's writes leaves as it is (R227, R267, R272).
-/
namespace Sys2Proof.Machine

/-- A fold keeps what each of its steps keeps. -/
theorem foldl_keeps {α β γ : Type} (g : α → γ) (f : α → β → α) (h : ∀ q x, g (f q x) = g q) (l : List β) (q : α) :
    g (l.foldl f q) = g q := by
  induction l generalizing q with
  | nil => rfl
  | cons x xs ih => rw [List.foldl_cons, ih, h]

/-! ## The Watchhouse has no part in it -/

theorem Polder.junkPlane_watch (q : Polder) (k : Nat) : (q.junkPlane k).watch = q.watch := by
  simp only [Polder.junkPlane]

theorem Polder.store_watch (q : Polder) (o v : Nat) : (q.store o v).watch = q.watch := rfl

theorem Polder.bump_watch (q : Polder) (o n : Nat) : (q.bump o n).watch = q.watch := rfl

theorem Polder.freeFlags_watch (q : Polder) : q.freeFlags.watch = q.watch := by
  unfold Polder.freeFlags
  simp only [Polder.bump_watch, Polder.store_watch, Polder.free]

theorem Polder.unspecified_watch (q : Polder) (a n : Nat) : (q.unspecified a n).watch = q.watch := by
  unfold Polder.unspecified
  rfl

theorem Polder.spoil_watch (q : Polder) (b : Ix4) (ids : List Nat) (landed : Bool) : (q.spoil b ids landed).watch = q.watch := by
  unfold Polder.spoil
  simp only []
  have h1 : ∀ (l : List Flight) (q : Polder), (l.foldl (fun q f => match f.plane with
      | .feeds k => q.junkPlane k
      | _ => q) q).watch = q.watch := fun l q => foldl_keeps Polder.watch _ (fun q f => by
    split
    · exact q.junkPlane_watch _
    · rfl) l q
  have h2 : ∀ (l : List Flight) (q : Polder), (l.foldl (fun q f => q.unspecified f.addr f.len) q).watch = q.watch :=
    fun l q => foldl_keeps Polder.watch _ (fun q f => q.unspecified_watch _ _) l q
  split <;> (try rw [Polder.freeFlags_watch]) <;> split <;> (try rw [h2]) <;> exact h1 _ _

theorem Polder.disturb_watch (q : Polder) (own : Option Ix4) (a n : Nat) : (q.disturb own a n).watch = q.watch := by
  unfold Polder.disturb
  apply foldl_keeps Polder.watch
  intro q b
  simp only []
  split
  · rfl
  · exact q.spoil_watch _ _ _

theorem Polder.noteTails_watch (q : Polder) (c : Nat → Bool) : (q.noteTails c).watch = q.watch := by
  unfold Polder.noteTails
  exact foldl_keeps Polder.watch (fun q n => q.onRing n (fun r => { r with moved := true })) (fun _ _ => rfl) _ q

theorem Polder.putBytes_watch (q : Polder) (own : Option Ix4) (a : Nat) (bs : List Byte) : (q.putBytes own a bs).watch = q.watch := by
  unfold Polder.putBytes
  simp only []
  rw [Polder.noteTails_watch]
  show (Polder.disturb _ _ _ _).watch = _
  rw [Polder.disturb_watch]
  rfl

theorem Polder.blurTables_watch (q : Polder) (a n : Nat) : (q.blurTables a n).watch = q.watch := by
  unfold Polder.blurTables
  split
  · rfl
  · apply foldl_keeps Polder.watch
    intro q t
    split
    · exact q.unspecified_watch _ _
    · rfl

theorem Polder.putMem_watch (q : Polder) (own : Option Ix4) (a : Nat) (bs : List Byte) : (q.putMem own a bs).watch = q.watch := by
  unfold Polder.putMem
  rw [Polder.blurTables_watch, Polder.putBytes_watch]

theorem Polder.landWrite_watch (q : Polder) (b : Ix4) (a : Nat) (bs : List Byte) : (q.landWrite b a bs).watch = q.watch := by
  unfold Polder.landWrite
  simp only []
  split
  · rfl
  · rw [Polder.putMem_watch]
    rfl

theorem Polder.landUpTo_watch (q : Polder) (b : Ix4) (t : Nat) : (q.landUpTo b t).watch = q.watch := by
  unfold Polder.landUpTo
  simp only []
  split
  · rfl
  · rw [foldl_keeps Polder.watch _ (fun q (f : Flight) => q.landWrite_watch b f.addr f.data)]
    rfl

theorem Polder.tick_watch (q : Polder) (b : Ix4) (n : Nat) (fed : Bool) : (q.tick b n fed).watch = q.watch := q.landUpTo_watch b _

/-! ## Nothing lands -/

theorem Berth.due_calm {x : Berth} {t : Nat} (h : ∀ f ∈ x.flights, f.data = [] ∨ t < f.at_) : x.due t = [] := by
  unfold Berth.due
  rw [List.filter_eq_nil_iff.mpr]
  · rfl
  · intro f hf
    rcases h f hf with h | h
    · simp [h]
    · simp only [Bool.and_eq_true, decide_eq_true_eq, not_and]
      omega

theorem Polder.landUpTo_calm {q : Polder} {b : Ix4} {t : Nat} (h : ∀ f ∈ (q.berths.get b).flights, f.data = [] ∨ t < f.at_) :
    q.landUpTo b t = q := by
  simp [Polder.landUpTo, Berth.due_calm h]

/-- Cycles in which no write of the berth lands change the berth alone. -/
theorem Polder.tick_calm {q : Polder} {b : Ix4} {n : Nat} {fed : Bool} (h : (q.berths.get b).Calm n) :
    q.tick b n fed = q.onBerth b (fun x => (x.tick n fed).settleShapes) := by
  unfold Polder.tick
  rw [Polder.landUpTo_calm h]

end Sys2Proof.Machine
end

