-- ==== Sys2Proof/Laws/Berths.lean ====
section
/-!
SUPPORT. Laws/Berths.lean: how an instruction of a berth reads its cells and retires (R222, R225, R226, R256).
-/
namespace Sys2Proof.Machine

@[simp] theorem State.bth_dom (s : State) (p b : Ix4) : (s.dom p).berth b = s.bth p b := rfl

theorem State.act_congr {s : State} {p : Ix4} {f g : Dom → Dom} (h : f (s.dom p) = g (s.dom p)) : s.act p f = s.act p g := by
  simp only [State.act, h]

/-- A ready berth runs the instruction's effect. -/
theorem State.short_ready {s : State} {p b : Ix4} {i : Short} (h : Ready s p b i.len) :
    s.short p b i = s.act p (·.shortEffect b false i) := by
  have hc : ¬ (s.bth p b).codeLen < (s.bth p b).pc + i.len := by have := h.2; omega
  unfold State.short
  rw [if_pos h.1]
  apply State.act_congr
  simp only [Dom.short]
  rw [State.bth_dom, if_neg hc]

/-- A berth that issues nothing now leaves everything as it is. -/
theorem State.short_idle {s : State} {p b : Ix4} {i : Short} (h : (s.pol p).issues b = false) : s.short p b i = s := by
  simp [State.short, h]

@[simp] theorem Berth.settleShapes_none (x : Berth) (h : x.shapePend = []) : x.settleShapes = x := by
  cases x
  simp_all [Berth.settleShapes]

/-- Landed cells are read as they stand, and reading changes nothing. -/
theorem Dom.readSlots_landed (d : Dom) (b : Ix4) (l : List Slot) (h : ∀ c ∈ l, c.lands ≤ (d.berth b).mc) :
    d.readSlots b l = (d, l.map Slot.val) := by
  induction l with
  | nil => rfl
  | cons x xs ih =>
    have hx := h x (List.mem_cons_self ..)
    have := ih (fun c hc => h c (List.mem_cons_of_mem _ hc))
    simp [Dom.readSlots, Dom.readSlot, hx, this]

theorem Dom.readSlot_landed (d : Dom) (b : Ix4) (c : Slot) (h : c.lands ≤ (d.berth b).mc) : d.readSlot b c = (d, c.val) := by
  simp [Dom.readSlot, h]

/-- The popped cells and the rest reach the instruction where there are enough and the pushed ones fit. -/
theorem Dom.cells_split (d : Dom) (b : Ix4) (n m : Nat) (k : List Slot → List Slot → Dom) (top rest : List Slot)
    (h : (d.berth b).stack = top ++ rest) (hn : top.length = n) (hm : rest.length + m ≤ stackCap) :
    d.cells b n m k = k top rest := by
  unfold Dom.cells
  subst hn
  simp only [h, List.length_append]
  rw [if_neg (by omega), if_neg (by omega)]
  simp

theorem Dom.values_split (d : Dom) (b : Ix4) (n m : Nat) (k : Dom → List Cell → List Slot → Dom) (vs : List Cell)
    (rest : List Slot) (h : Holds (d.berth b) vs rest) (hn : vs.length = n) (hm : rest.length + m ≤ stackCap) :
    d.values b n m k = k d vs rest := by
  obtain ⟨top, hs, hv, hl⟩ := h
  have ht : top.length = n := by
    have := congrArg List.length hv
    simpa [hn] using this
  unfold Dom.values
  rw [d.cells_split b n m _ top rest hs ht hm, d.readSlots_landed b _ (by simpa using hl)]
  simp [hv]

@[simp] theorem Dom.issued_host (d : Dom) (b : Ix4) (cost : Nat) (fed : Bool) : (d.issued b cost fed).host = d.host := by
  simp [Dom.issued]

@[simp] theorem Dom.issued_waits (d : Dom) (b : Ix4) (cost : Nat) (fed : Bool) : (d.issued b cost fed).waits = d.waits := by
  simp [Dom.issued]

/-- What issuing leaves: the cycles delivered, and the counts of issued instructions. -/
theorem Dom.issued_spec (d : Dom) (b : Ix4) (cost : Nat) :
    ∃ r, d.issued b cost false = (d.tick b cost false).on (·.withRegs r) ∧
      (∀ o, ¬ d.q.issueReg b o → (d.issued b cost false).q.stored o = (d.tick b cost false).q.stored o) ∧
      (d.issued b cost false).q.counter (Off.berth b.toNat + 0x28)
        = ((d.tick b cost false).q.counter (Off.berth b.toNat + 0x28) + 1) % 2 ^ 48 := by
  let d1 := d.tick b cost false
  let d2 := d1.bump (Off.berth b.toNat + 0x28) 1
  have hw : d2.q.watch = d.q.watch := d.q.tick_watch b cost false
  obtain ⟨r, hr⟩ := d2.event_regs 3 1 (some b)
  have hlow : ∀ o, o < 0x200020 → (d.issued b cost false).q.stored o = d2.q.stored o := fun o ho =>
    d2.event_stored 3 1 (some b) (d2.q.not_countsAt_low 3 (some b) ho)
  refine ⟨r, ?_, fun o ho => ?_, ?_⟩
  · exact hr.trans (d1.bump_withRegs _ 1 r)
  · have h1 : o ≠ Off.berth b.toNat + 0x28 := fun h => ho (.inl h)
    have h2 : o ≠ Off.berth b.toNat + 0x28 + 4 := fun h => ho (.inr (.inl h))
    have h3 : ¬ d2.q.countsAt 3 (some b) o := by
      unfold Polder.countsAt
      rw [hw]
      exact fun h => ho (.inr (.inr h))
    show (d2.event 3 1 (some b)).q.stored o = _
    rw [d2.event_stored 3 1 (some b) h3]
    exact Polder.stored_bump_other d1.q 1 h1 h2
  · have hb : Off.berth b.toNat + 0x28 + 4 < 0x200020 := by cases b <;> decide
    have : (d.issued b cost false).q.counter (Off.berth b.toNat + 0x28) = d2.q.counter (Off.berth b.toNat + 0x28) := by
      simp only [Polder.counter, hlow _ hb, hlow _ (show Off.berth b.toNat + 0x28 < 0x200020 by omega)]
    rw [this]
    exact Polder.counter_bump d1.q _ 1

/-- An instruction that leaves its berth as `y`, and nothing else changed, retires. -/
theorem Retires.of_issued (s : State) (p b : Ix4) (cost : Nat) (y : Berth) :
    Retires s (s.act p (fun d => (d.on (·.withBerth b y)).issued b cost false)) p b cost y := by
  obtain ⟨r, hr, ho, hc⟩ := ((s.dom p).on (·.withBerth b y)).issued_spec b cost
  have hact : s.act p (fun d => (d.on (·.withBerth b y)).issued b cost false)
      = s.undom p (((s.dom p).on (·.withBerth b y)).issued b cost false) := s.act_served p _ (by simp)
  rw [hact]
  refine ⟨?_, fun o h => ?_, ?_, fun hy => ?_⟩
  · rw [State.undom_pol, hr]
    rfl
  · rw [State.undom_pol]
    exact ho o h
  · rw [State.undom_pol]
    exact hc
  · have hl := ((s.pol p).withBerth b y).tick_calm (b := b) (n := cost) (fed := false) (by simpa using hy)
    have ht : (((s.dom p).on (·.withBerth b y)).issued b cost false).q.mem = (s.pol p).mem ∧
        ∀ c, (((s.dom p).on (·.withBerth b y)).issued b cost false).q.berths.get c
          = (((s.pol p).withBerth b y).onBerth b (fun x => (x.tick cost false).settleShapes)).berths.get c := by
      rw [hr]
      constructor
      · show (((s.pol p).withBerth b y).tick b cost false).mem = _
        rw [hl]
        rfl
      · intro c
        show (((s.pol p).withBerth b y).tick b cost false).berths.get c = _
        rw [hl]
    refine ⟨by rw [State.undom_pol]; exact ht.1, ?_, fun c hcb => ?_, fun o h => ?_⟩
    · show ((s.undom p _).pol p).berths.get b = _
      rw [State.undom_pol, ht.2 b]
      simp [Berth.later]
    · show ((s.undom p _).pol p).berths.get c = _
      rw [State.undom_pol, ht.2 c, Polder.onBerth_get_other _ _ hcb]
      exact Quad.get_set_other _ _ hcb
    · rw [State.undom_pol, ho o h]
      show (((s.pol p).withBerth b y).tick b cost false).stored o = _
      rw [hl]
      rfl

theorem Dom.onBerth_with (d : Dom) (b : Ix4) (f : Berth → Berth) : d.onBerth b f = d.on (·.withBerth b (f (d.berth b))) := rfl

theorem Retires.done (s : State) (p b : Ix4) (len cost : Nat) (f : Berth → Berth) :
    Retires s (s.act p (fun d => d.done b len cost false f)) p b cost (f ((s.bth p b).past len)) := by
  have h : (s.dom p).done b len cost false f
      = ((s.dom p).on (·.withBerth b (f ((s.bth p b).past len)))).issued b cost false := by
    unfold Dom.done
    rw [Dom.onBerth_with]
    rfl
  rw [State.act_congr (g := fun d => (d.on (·.withBerth b (f ((s.bth p b).past len)))).issued b cost false) h]
  exact Retires.of_issued s p b cost _

theorem Retires.jump (s : State) (p b : Ix4) (dest cost : Nat) (f : Berth → Berth) :
    Retires s (s.act p (fun d => d.jump b dest cost f)) p b cost (f { s.bth p b with pc := dest % 2 ^ 17 }) := by
  have h : (s.dom p).jump b dest cost f
      = ((s.dom p).on (·.withBerth b (f { s.bth p b with pc := dest % 2 ^ 17 }))).issued b cost false := by
    unfold Dom.jump
    rw [Dom.onBerth_with]
    rfl
  rw [State.act_congr (g := fun d => (d.on (·.withBerth b (f { s.bth p b with pc := dest % 2 ^ 17 }))).issued b cost false) h]
  exact Retires.of_issued s p b cost _

end Sys2Proof.Machine
end

