-- ==== Sys2Proof/Laws/Short.lean ====
section
/-!
SUPPORT. Laws/Short.lean: what the shared operations of the short instructions do where nothing stops them (R226, R227).
-/
namespace Sys2Proof.Machine

/-- A range that no wrong unit touches reads and writes without an ECC event, outside HBM. -/
theorem Polder.badUnits_clean (q : Polder) (r : Region) (a n : Nat) (hr : r ≠ .hbm)
    (h : ∀ e ∈ q.memctl.errs, e.1 + 8 ≤ a ∨ a + n ≤ e.1) : q.badUnits r a n = [] := by
  unfold Polder.badUnits
  rw [List.filter_eq_nil_iff]
  intro e he
  have := h e he
  have hu : eccUnit r = 8 := by cases r <;> first | rfl | exact absurd rfl hr
  simp only [hu, Bool.and_eq_true, decide_eq_true_eq]
  omega

theorem Dom.eccRead_clean (d : Dom) (r : Region) (a n : Nat) (hr : r ≠ .hbm)
    (h : ∀ e ∈ d.q.memctl.errs, e.1 + 8 ≤ a ∨ a + n ≤ e.1) : d.eccRead r a n = (d, false) := by
  have hs : d.q.stackDown r a n = false := by simp [Polder.stackDown, hr]
  have hw : d.q.hbmWaits r a n = false := by simp [Polder.hbmWaits, hr]
  simp [Dom.eccRead, hs, hw, d.q.badUnits_clean r a n hr h]

theorem Dom.eccMerge_clean (d : Dom) (r : Region) (a n : Nat) (hr : r ≠ .hbm)
    (h : ∀ e ∈ d.q.memctl.errs, e.1 + 8 ≤ a ∨ a + n ≤ e.1) : d.eccMerge r a n = (d, false) := by
  have hs : d.q.stackDown r a n = false := by simp [Polder.stackDown, hr]
  have hw : d.q.hbmWaits r a n = false := by simp [Polder.hbmWaits, hr]
  simp [Dom.eccMerge, hs, hw, d.q.badUnits_clean r a n hr h]

/-- An access of at most 8 bytes is checked as one. -/
theorem Polder.shortCause_one (q : Polder) (b : Ix4) (a n : Nat) (w : Bool) (h : 1 ≤ n ∧ n ≤ 8) :
    q.shortCause b a n w = (q.berthCause b true a n w).map (fun c => (c, a)) := by
  have h1 : ceilDiv n 8 = 1 := by unfold ceilDiv; omega
  have h2 : min 8 n = n := by omega
  simp [Polder.shortCause, h1, List.range_succ, h2]

/-- The first 8 bytes of an access that passes pass. -/
theorem Polder.berthCause_first {q : Polder} {b : Ix4} {a n : Nat} {w : Bool} (h : q.shortCause b a n w = none) (hn : 1 ≤ n) :
    q.berthCause b true a (min 8 n) w = none := by
  have h1 : 0 ∈ List.range (ceilDiv n 8) := by rw [List.mem_range]; unfold ceilDiv; omega
  have := List.findSome?_eq_none_iff.mp h 0 h1
  simpa using this

/-- A short access that passes the checks lies in the Granary or the Counter. -/
theorem Polder.region_of_short {q : Polder} {b : Ix4} {a n : Nat} {w : Bool} (h : q.berthCause b true a n w = none) :
    q.region a = some .granary ∨ q.region a = some .counter := by
  unfold Polder.berthCause at h
  cases hp : q.populated a n w with
  | none => rw [hp] at h; cases h
  | some r =>
    rw [hp] at h
    have hr : q.region a = some r := by
      unfold Polder.populated at hp
      cases hq : q.region a with
      | none => rw [hq] at hp; cases hp
      | some r' =>
        rw [hq] at hp
        cases r' <;> simp only [] at hp <;> (split at hp <;> first | (cases hp; rfl) | cases hp)
    cases r <;> simp at h <;> first | exact .inl hr | exact .inr hr

theorem Polder.region_not_hbm {q : Polder} {b : Ix4} {a n : Nat} {w : Bool} (h : q.berthCause b true a n w = none) :
    (q.region a).getD .counter ≠ .hbm := by
  rcases Polder.region_of_short h with h | h <;> rw [h] <;> exact fun h => Region.noConfusion h

/-- The path latency of a short access that passes the checks (R226). -/
theorem Polder.shortLat_eq {q : Polder} {b : Ix4} {a n : Nat} {w : Bool} (h : q.berthCause b true a n w = none) :
    q.shortLat a = q.pathL a := by
  unfold Polder.shortLat Polder.pathL
  have hg : ∀ r, q.region a = some r → (r = .granary → ¬ 0x10000000 ≤ a) ∧ (r = .counter → 0x10000000 ≤ a) := by
    intro r hr
    unfold Polder.region counterBase counterSize at hr
    constructor <;> intro h <;> subst h
    · split at hr
      · omega
      · repeat (split at hr <;> try cases hr)
    · split at hr
      · cases hr
      · split at hr
        · omega
        · repeat (split at hr <;> try cases hr)
  rcases Polder.region_of_short h with h | h
  · have := (hg _ h).1 rfl
    rw [h, if_neg this]
    rfl
  · have := (hg _ h).2 rfl
    rw [h, if_pos this]

theorem Dom.shortRead_passes (d : Dom) (b : Ix4) (a n : Nat) (k : Dom → Nat → Dom) (hn : 1 ≤ n)
    (hc : d.q.shortCause b a n false = none) (he : ∀ e ∈ d.q.memctl.errs, e.1 + 8 ≤ a ∨ a + n ≤ e.1)
    (hp : (d.berth b).storePending a n = false) : d.shortRead b a n k = k d (d.q.mem.readNat a n) := by
  unfold Dom.shortRead
  rw [hc]
  simp only []
  rw [d.eccRead_clean _ a n (Polder.region_not_hbm (Polder.berthCause_first hc hn)) he]
  simp only [hp]
  rfl

theorem Dom.shortWrite_passes (d : Dom) (b : Ix4) (a : Nat) (bs : List Byte) (lat : Nat) (k : Dom → Dom) (hb : 1 ≤ bs.length)
    (hc : d.q.shortCause b a bs.length true = none)
    (he : ∀ e ∈ d.q.memctl.errs, e.1 + 8 ≤ a ∨ a + bs.length ≤ e.1) (hf : NoFlight (d.berth b) a bs.length) :
    d.shortWrite b a bs lat k = k (d.onBerth b (fun x => x.fly ((d.berth b).storing a bs lat))) := by
  unfold Dom.shortWrite
  rw [hc]
  simp only []
  rw [d.eccMerge_clean _ a _ (Polder.region_not_hbm (Polder.berthCause_first hc hb)) he]
  have hcl : (d.berth b).clashes a bs.length ((d.berth b).mc + lat) = [] := by
    unfold Berth.clashes
    rw [List.map_eq_nil_iff, List.filter_eq_nil_iff]
    intro f hm
    have := hf f hm
    simp only [Flight.meets, Bool.and_eq_true, decide_eq_true_eq, not_and]
    intro h1 h2
    omega
  simp only [Dom.sound, hcl]
  simp [Dom.onBerth, Dom.on, Polder.onBerth, Berth.storing, Dom.berth]

/-- A berth for which no half is held makes its access at once. -/
theorem Dom.precede_free (d : Dom) (m : Master) (eng : Nat) (f : Dom → Dom)
    (h : d.q.holders.find? (fun h => decide (h.master = m)) = none) : d.precede m eng f = f d := by
  have hf : d.flushHolder m eng = d := by
    unfold Dom.flushHolder Dom.flushCause
    rw [h]
  unfold Dom.precede
  simp only [hf]
  rw [if_neg]
  simp [Dom.cutOff]

theorem State.shortMem_ready {s : State} {p b : Ix4} {i : Short} (h : MemReady s p b i.len) :
    s.shortMem p b i = s.act p (·.shortEffect b false i) := by
  have hc : ¬ (s.bth p b).codeLen < (s.bth p b).pc + i.len := by have := h.1.2; omega
  unfold State.shortMem
  rw [if_pos h.1.1]
  apply State.act_congr
  have hs : (s.dom p).short b i = (s.dom p).shortEffect b false i := by
    simp only [Dom.short]
    rw [State.bth_dom, if_neg hc]
  simp only [Dom.shortAfter]
  split
  · rw [Dom.precede_free _ _ _ _ h.2, hs]
  · exact hs

end Sys2Proof.Machine
end

