-- ==== Sys2Proof/WellFormed.lean ====
section
/-!
DEFINITION. WellFormed.lean: which commands the outside can send: the bounds that the spec gives the values a command carries and that
their types do not say already.
-/
namespace Sys2Proof

/-- The LANES codes of an SFDP are those of R38. -/
def Sfdp.wf (f : Sfdp) : Bool := f.lanes.all (fun n => decide (n ≤ 3))

/-- A frame's LEN has 12 bits (R426). -/
def Frame.wf (f : Frame) : Bool := decide (f.payload.length < 4096)

/-- A request of R510: up to 1024 double words within BAR2, with its payload where it writes. -/
def HostReq.wf (q : HostReq) : Bool :=
  decide (1 ≤ q.dw) && decide (q.dw ≤ 1024) && decide (q.addr + 4 * q.dw ≤ 0x1000000000) &&
    decide (q.data.length = if q.write then 4 * q.dw else 0)

/-- A value of an access fits its width, 1, 2, 4 or 8 bytes (R66). -/
def accessWf (size : Nat) (v : BitVec 64) : Bool :=
  [1, 2, 4, 8].contains size && decide (v.toNat < 2 ^ (8 * size))

/-- A register access lies in the window of R71, or, from 0x400000, in BAR4. -/
def RegAccess.wf (a : RegAccess) : Bool := decide (a.offset + a.size ≤ 0x410000) && accessWf a.size a.data

/-- A mailbox request: LEN has 32 bits, ADDR 64, and the data area 57,344 bytes (R535). -/
def MbReq.wf (r : MbReq) : Bool := decide (r.len < 2 ^ 32) && decide (r.addr < 2 ^ 64) && decide (r.data.length ≤ 57344)

/-- The widths of R496: a fetch of 2 or 4 bytes, LR, SC and AMOs of 4 or 8, others of 1, 2, 4 or 8. -/
def HartOp.wf (o : HartOp) : Bool :=
  (match o.kind with
    | .fetch => [2, 4]
    | .amo _ _ | .lr _ | .sc _ => [4, 8]
    | .load _ _ _ | .store => [1, 2, 4, 8]).contains o.size && decide (o.value.toNat < 2 ^ (8 * o.size))

/-- The opcodes that the tables of R229 and of the escapes do not list. -/
def reservedCode (op : Byte) : Bool :=
  let n := op.toNat
  [(0x5B, 0x5F), (0x69, 0x6F), (0x79, 0x7F), (0x88, 0x8F), (0x9D, 0x9F), (0xA3, 0xEF), (0xF8, 0xFF)].any
    (fun r => decide (r.1 ≤ n) && decide (n ≤ r.2))

/-- Whether a command is one that the outside can send. -/
def Instr.wf : Instr → Bool
  | .powerOn | .perstAssert | .perstDeassert | .polderRelease | .railfault _ | .rawWindowEnd | .thermtrip | .flr _ | .pf4Flr |
    .whReset _ _ _ | .charterZeroFillDone _ | .charterHeaderRead _ _ | .charterBodyRead _ _ | .hbmTrainingDone _ | .hbmTrainingTimeout _ |
    .hbmZeroFillDone _ | .joinDelayExpiry _ _ | .joinSlow _ | .relockRequest _ | .lockDeclared _ | .dividerRelease _ | .lockRetry _ |
    .refLost _ | .coastLong _ | .refReacquired _ _ | .millDivWrite _ _ _ | .dividerStep _ | .clkTestWrite _ _ _ | .hbmPllUnlock _ _ |
    .sluicePllUnlock _ _ | .overbudget | .vrHot | .vrHotRelease | .vrAlert | .statusWord _ _ | .readIout _ | .readTemperature1 _ |
    .calLost | .doze _ | .wake _ | .tideBoundary _ _ | .slack _ _ | .doorbell _ _ _ | .waybillRead _ | .admission _ | .preload _ |
    .codeLoadDone _ _ | .timeout _ _ | .nop _ _ | .dup _ _ | .drop _ _ | .swap _ _ | .over _ _ | .rot _ _ | .nip _ _ | .tuck _ _ |
    .pick _ _ | .roll _ _ | .twoDup _ _ | .twoDrop _ _ | .twoSwap _ _ | .depth _ _ | .dropn _ _ | .clear _ _ | .add _ _ | .sub _ _ |
    .mul _ _ | .mulhu _ _ | .mulhs _ _ | .divu _ _ | .divs _ _ | .remu _ _ | .rems _ _ | .neg _ _ | .abs _ _ | .mins _ _ | .maxs _ _ |
    .minu _ _ | .maxu _ _ | .addi8 _ _ _ | .andOp _ _ | .orOp _ _ | .xorOp _ _ | .notOp _ _ | .shl _ _ | .shru _ _ | .shrs _ _ | .rotl _ _ |
    .clz _ _ | .ctz _ _ | .popc _ _ | .sext _ _ | .zext _ _ | .bext _ _ | .bins _ _ | .alignup _ _ | .eq _ _ | .ne _ _ | .lts _ _ |
    .ltu _ _ | .les _ _ | .leu _ _ | .eqz _ _ | .select _ _ | .br _ _ _ | .bz _ _ _ | .bnz _ _ _ | .br8 _ _ _ | .bz8 _ _ _ | .bnz8 _ _ _ |
    .djnz _ _ _ | .jmp _ _ | .ld64 _ _ | .ld32u _ _ | .ld32s _ _ | .ld16u _ _ | .ld16s _ _ | .ld8u _ _ | .ld8s _ _ | .st64 _ _ | .st32 _ _ |
    .st16 _ _ | .st8 _ _ | .ldp64 _ _ | .stp64 _ _ | .fencest _ _ | .cadd _ _ | .cswap _ _ | .lit8 _ _ _ | .lit16 _ _ _ | .lit32 _ _ _ |
    .lit64 _ _ _ | .lit8u _ _ _ | .lit16u _ _ _ | .lit32u _ _ _ | .zero _ _ | .one _ _ | .minus1 _ _ | .litpc _ _ | .call _ _ _ |
    .calll _ _ _ | .calli _ _ | .ret _ _ | .toR _ _ | .rFrom _ _ | .rFetch _ _ | .rdepth _ _ | .jmpl _ _ _ | .tread _ _ | .twrite _ _ _ |
    .tadd _ _ | .waitt _ _ | .waitt8 _ _ _ | .idle8 _ _ _ | .idle16 _ _ _ | .idle _ _ | .tarm _ _ | .shld _ _ | .shst _ _ | .shget _ _ |
    .shset _ _ | .shbase _ _ | .shaddb _ _ | .shclr _ _ | .shcopy _ _ | .endOp _ _ _ | .yieldOp _ _ | .ei _ _ | .di _ _ | .setiv _ _ |
    .reti _ _ | .imask _ _ | .ipend _ _ | .trap _ _ _ | .tide _ _ | .berth _ _ | .mc _ _ | .signal _ _ | .bmove _ _ _ | .bfill _ _ _ |
    .crc32c _ _ _ | .interruptEntry _ _ | .berthPoke _ _ _ _ | .berthSignalRead _ _ _ _ | .mm _ _ _ | .mmo _ _ _ | .ldw _ _ _ |
    .ldwt _ _ _ | .post _ _ _ | .redSum _ _ _ | .redMax _ _ _ | .redMin _ _ _ | .mov _ _ _ | .turn _ _ _ | .copyReport _ _ _ _ |
    .put _ _ _ | .mput _ _ _ | .rput _ _ _ | .xferStart _ _ | .xferReport _ _ _ _ | .gleanSum _ _ _ | .gleanMean _ _ _ | .gleanMax _ _ _ |
    .wsum _ _ _ | .gather _ _ _ | .warm _ _ _ | .assign _ _ _ | .gleanAdd _ _ _ | .axpy _ _ _ | .gleanReport _ _ _ _ | .committingDone _ |
    .append _ _ _ | .attend _ _ _ | .backward _ _ _ | .ledgOpen _ _ _ | .ledgClose _ _ _ | .ledgFetch _ _ _ | .ledgReport _ _ _ _ |
    .pagewait _ | .patrolRead _ _ _ | .scrubForced _ _ _ | .hbmTelemetryRead _ _ | .hbmParity _ _ _ | .beacon _ _ | .slewEnd _ |
    .request _ _ | .echo _ _ _ | .backoffExpiry _ _ | .beaconSend _ _ _ | .candidate _ _ | .candidateBeacon _ _ _ | .masterEchoFail _ _ |
    .portRemove _ _ _ | .silent _ _ | .cellSend _ _ _ | .calDue _ _ _ _ | .calForced _ _ _ _ | .slDemandWrite _ _ _ _ | .data _ _ |
    .urgent _ _ | .ack _ _ | .retransmit _ _ _ | .reduceDrop _ _ | .glreq _ _ | .glrow _ _ | .glupd _ _ | .harbDoorbell _ _ _ |
    .harbRetx _ _ | .cboClean _ _ _ | .cboFlush _ _ _ | .cboInval _ _ _ | .fence _ _ _ _ | .tideCsr _ _ _ | .basinns _ _ _ |
    .clerkStart _ _ _ | .mtimecmp _ _ _ | .msip _ _ _ _ | .linkDown | .nonceExpiry _ _ | .lockoutEnd _ _ | .berthHalted _ _ |
    .haltStalled _ _ | .mark _ _ _ | .railInRange _ | .pcieRefclkReturn | .sluicePllRelock _ _ | .hbmRetrainDone _ _ _ | .linkUp _ _ _ |
    .configWrite _ _ => true
  | .wardenCharterLoad f => f.sfdp.wf
  | .charterSfdpRead _ f => f.wf
  | .wardenEpoch x => decide (x.temps.length = 8)
  | .wardenWrite _ size v _ => accessWf size v
  | .reservedOpcode _ _ op => reservedCode op
  | .swapoutPage _ q _ | .swapinPage _ q _ => decide (q < 4096)
  | .maintenanceAccess _ bin _ _ _ | .granScrubTakeover _ bin _ => decide (bin < 64)
  | .frameReceive _ _ h => h.frame.wf
  | .plicClaim _ _ ctx | .plicComplete _ _ ctx _ => decide (ctx < 8)
  | .bar2Access _ q => q.wf
  | .msixPendingSend _ v => decide (v < 64)
  | .registerWrite _ a _ => a.wf
  | .authChallenge _ r nonce => r.wf && decide (nonce.length = 32)
  | .authResponse _ r | .status _ r | .read _ r | .write _ r | .haltBerth _ r | .haltHart _ r | .tideFreeze _ r | .resumeBerth _ r |
    .resumeHart _ r | .tideFreezeEnd _ r | .feed _ r | .step _ r | .release _ r | .traceConfig _ r | .traceRead _ r | .traceClear _ r |
    .charterWriteBegin _ r | .charterWriteVerify _ r | .charterWriteCheck _ r | .charterWriteProgram _ r _ | .charterWriteFinish _ r _ _ => r.wf
  | .hartLoadStoreAmo _ _ op => op.wf

end Sys2Proof
end

