-- ==== Sys2Proof/Tests/Slice0.lean ====
section
/-!
SUPPORT. Tests/Slice0.lean: small states that meet the hypotheses of the statements, clause by clause, each with the effect of one step
where it is cheap to look at; and an ill-formed command for each check of WellFormed. Expected results are worked from the rules named.
-/
namespace Sys2Proof.Tests
open Sys2Proof.Machine
set_option Elab.async false

/-! ## Small states -/

/-- A waybill of 1024 bytes of code, 16 mills, no context, class 3. -/
def bill : Waybill :=
  ⟨0x1122334455667788, 3, 0, false, 5, 0, 1, 0, true, 0, 0x1000, 1024, 0, 0, 0, 0, [], 1, 0, 7, 0, 0, false, false⟩

/-- A landed cell. -/
def c (v : Nat) : Slot := ⟨BitVec.ofNat 64 v, 0⟩

/-- A berth that runs it on mills 32 to 47, with the stack `st`. -/
def busy (st : List Slot) : Berth :=
  { Berth.reset with
    phase := .running, run := some ⟨bill, 32, 16, 0, true, 0, 0⟩, codeLen := 1024, mc := 100, used := 50, stack := st, mask := 15
    ivbase := 32, rstack := [c 0x30] }

/-- A polder in RUN that has its clocks, its charter and its link; ring 0 has 16 entries. -/
def up (q : Polder) : Polder :=
  { q with
    boot := .run, charter := { q.charter with lock := true }, regs := Store.insert q.regs (Off.ring 0 + 0x10) 4
    clocks := { q.clocks with boot := false, locked := true, safe := false, refPresent := true, refStop := false, tripped := false }
    host := { q.host with linkUp := true, mse := true, bme := true }, wharf := { q.wharf with admitting := true, tide := 9, grant := 200 } }

/-- The die after power-on with polder 0 up and changed by `f`. -/
def die (f : Polder → Polder) : State := State.reset.onPol .i0 (fun q => f (up q))

/-- Berth 0 of polder 0 runs with the stack `st`. -/
def rig (st : List Slot) : State := die (fun q => { q with berths := ⟨busy st, Berth.reset, Berth.reset, Berth.reset⟩ })

/-- What holds after a next state. -/
def after (o : Host.Outcome State Fault Refusal) (f : State → Bool) : Bool :=
  match o with
  | .next t => f t
  | _ => false

/-- Whether a command retires as `Retires` says, from `s`. -/
def retires (i : Instr) (s s' : State) (cost : Nat) (y : Berth) : Bool :=
  after (exec i s) (fun t => decide (t = s'.onPol .i0 (fun q => (q.after .i0 cost y).withRegs (t.pol .i0).regs)))

/-- The short form of it, where memory stays and the berth's stack is then `st`, past `n` bytes. -/
def leaves (i : Instr) (st : List Slot) (n cost : Nat) (st' : List Slot) : Bool :=
  retires i (rig st) (rig st) cost { (busy st).past n with stack := st' }

/-- Polder 0 up, PERST# deasserted. -/
def out : State := { rig [c 1] with perst := false }
/-! ## Short instructions -/

theorem test_ready : Ready (rig [c 1]) .i0 .i0 9 := by decide +kernel

theorem test_stack_moves :
    leaves (.drop .i0 .i0) [c 1, c 2] 1 1 [c 2] = true ∧ leaves (.rot .i0 .i0) [c 3, c 2, ⟨1, 200⟩] 1 1 [⟨1, 200⟩, c 3, c 2] = true ∧
    leaves (.swap .i0 .i0) [⟨1, 200⟩, c 2] 1 1 [c 2, ⟨1, 200⟩] = true ∧ leaves (.nip .i0 .i0) [c 1, c 2] 1 1 [c 1] = true ∧
    leaves (.twoDrop .i0 .i0) [c 1, c 2, c 3] 1 1 [c 3] = true ∧
    leaves (.twoSwap .i0 .i0) [c 4, c 3, c 2, c 1] 1 1 [c 2, c 1, c 4, c 3] = true ∧
    leaves (.depth .i0 .i0) [c 4, c 3] 1 1 [c 2, c 4, c 3] = true ∧ leaves (.clear .i0 .i0) [c 4, c 3] 1 1 [] = true := by decide +kernel

theorem test_stack_copies :
    leaves (.dup .i0 .i0) [c 1] 1 1 [c 1, c 1] = true ∧ leaves (.over .i0 .i0) [c 1, c 2] 1 1 [c 2, c 1, c 2] = true ∧
    leaves (.tuck .i0 .i0) [c 1, c 2] 1 1 [c 1, c 2, c 1] = true ∧ leaves (.twoDup .i0 .i0) [c 1, c 2] 1 1 [c 1, c 2, c 1, c 2] = true ∧
    leaves (.pick .i0 .i0) [c 1, c 5, c 6] 1 1 [c 6, c 5, c 6] = true ∧ leaves (.roll .i0 .i0) [c 1, c 5, ⟨6, 200⟩] 1 1 [⟨6, 200⟩, c 5] = true ∧
    leaves (.dropn .i0 .i0) [c 2, c 5, c 6] 1 1 [] = true := by decide +kernel

/-- R229 and R230: the quotient and remainder of −7 by 2, division by zero, and the most negative number by −1. -/
theorem test_arithmetic :
    leaves (.add .i0 .i0) [c 1, c (2 ^ 64 - 1)] 1 1 [c 0] = true ∧ leaves (.sub .i0 .i0) [c 1, c 0] 1 1 [c (2 ^ 64 - 1)] = true ∧
    leaves (.mul .i0 .i0) [c 3, c 5] 1 3 [c 15] = true ∧ leaves (.mulhu .i0 .i0) [c (2 ^ 63), c 6] 1 3 [c 3] = true ∧
    leaves (.mulhs .i0 .i0) [c (2 ^ 64 - 1), c 1] 1 3 [c (2 ^ 64 - 1)] = true ∧
    leaves (.divs .i0 .i0) [c 2, c (2 ^ 64 - 7)] 1 24 [c (2 ^ 64 - 3)] = true ∧
    leaves (.rems .i0 .i0) [c 2, c (2 ^ 64 - 7)] 1 24 [c (2 ^ 64 - 1)] = true ∧
    leaves (.divs .i0 .i0) [c (2 ^ 64 - 1), c (2 ^ 63)] 1 24 [c (2 ^ 63)] = true ∧
    leaves (.divu .i0 .i0) [c 0, c 7] 1 24 [c (2 ^ 64 - 1)] = true ∧ leaves (.remu .i0 .i0) [c 0, c 7] 1 24 [c 7] = true := by
  decide +kernel

theorem test_arithmetic_2 :
    leaves (.neg .i0 .i0) [c 1] 1 1 [c (2 ^ 64 - 1)] = true ∧ leaves (.abs .i0 .i0) [c (2 ^ 63)] 1 1 [c (2 ^ 63)] = true ∧
    leaves (.mins .i0 .i0) [c 1, c (2 ^ 64 - 1)] 1 1 [c (2 ^ 64 - 1)] = true ∧ leaves (.maxs .i0 .i0) [c 1, c (2 ^ 64 - 1)] 1 1 [c 1] = true ∧
    leaves (.minu .i0 .i0) [c 1, c (2 ^ 64 - 1)] 1 1 [c 1] = true ∧ leaves (.maxu .i0 .i0) [c 1, c 2] 1 1 [c 2] = true ∧
    leaves (.addi8 .i0 .i0 0xFF) [c 1] 2 1 [c 0] = true := by decide +kernel

theorem test_holds : Holds (busy [c 1, c 2, c 3]) [2, 1] [c 3] := ⟨[c 1, c 2], by decide +kernel, by decide +kernel, by decide +kernel⟩

theorem test_logic :
    leaves (.andOp .i0 .i0) [c 6, c 3] 1 1 [c 2] = true ∧ leaves (.orOp .i0 .i0) [c 6, c 3] 1 1 [c 7] = true ∧
    leaves (.xorOp .i0 .i0) [c 6, c 3] 1 1 [c 5] = true ∧ leaves (.notOp .i0 .i0) [c 0] 1 1 [c (2 ^ 64 - 1)] = true ∧
    leaves (.shl .i0 .i0) [c 65, c 3] 1 1 [c 6] = true ∧ leaves (.shru .i0 .i0) [c 63, c (2 ^ 63)] 1 1 [c 1] = true ∧
    leaves (.shrs .i0 .i0) [c 63, c (2 ^ 63)] 1 1 [c (2 ^ 64 - 1)] = true ∧ leaves (.rotl .i0 .i0) [c 1, c (2 ^ 63)] 1 1 [c 1] = true ∧
    leaves (.zext .i0 .i0) [c 8, c 0x1FF] 1 1 [c 0xFF] = true ∧ leaves (.sext .i0 .i0) [c 8, c 0x180] 1 1 [c (2 ^ 64 - 128)] = true ∧
    leaves (.sext .i0 .i0) [c 0, c (2 ^ 63)] 1 1 [c (2 ^ 63)] = true := by decide +kernel

theorem test_bit_fields :
    leaves (.bext .i0 .i0) [c 8, c 60, c (0xAB * 2 ^ 56)] 1 1 [c 0xA] = true ∧
    leaves (.bins .i0 .i0) [c 8, c 60, c 0xFF, c 0] 1 1 [c (0xF * 2 ^ 60)] = true := by decide +kernel

theorem test_bit_counts :
    leaves (.clz .i0 .i0) [c 1] 1 1 [c 63] = true ∧ leaves (.ctz .i0 .i0) [c 0] 1 1 [c 64] = true ∧
    leaves (.popc .i0 .i0) [c 0xFF] 1 1 [c 8] = true ∧ leaves (.alignup .i0 .i0) [c 3, c 9] 1 1 [c 16] = true ∧
    leaves (.alignup .i0 .i0) [c 63, c (2 ^ 63 + 1)] 1 1 [c 0] = true := by decide +kernel

theorem test_comparisons :
    leaves (.eq .i0 .i0) [c 1, c 1] 1 1 [c 1] = true ∧ leaves (.ne .i0 .i0) [c 1, c 1] 1 1 [c 0] = true ∧
    leaves (.lts .i0 .i0) [c 1, c (2 ^ 64 - 1)] 1 1 [c 1] = true ∧ leaves (.ltu .i0 .i0) [c 1, c (2 ^ 64 - 1)] 1 1 [c 0] = true ∧
    leaves (.les .i0 .i0) [c 1, c 1] 1 1 [c 1] = true ∧ leaves (.leu .i0 .i0) [c 1, c 2] 1 1 [c 0] = true ∧
    leaves (.eqz .i0 .i0) [c 0] 1 1 [c 1] = true ∧ leaves (.select .i0 .i0) [c 1, c 5, c 6] 1 1 [c 6] = true ∧
    leaves (.select .i0 .i0) [c 0, c 5, c 6] 1 1 [c 5] = true := by decide +kernel

/-- R223: the target of a branch counts from the next instruction. -/
theorem test_branches :
    let st := [c 0, c 9]
    retires (.br .i0 .i0 0xFFFF) (rig st) (rig st) 2 { busy st with pc := 2 } = true ∧
    retires (.br8 .i0 .i0 4) (rig st) (rig st) 2 { busy st with pc := 6 } = true ∧
    retires (.jmpl .i0 .i0 8) (rig st) (rig st) 2 { busy st with pc := 12 } = true ∧
    retires (.bz .i0 .i0 4) (rig st) (rig st) 2 { busy st with pc := 7, stack := [c 9] } = true ∧
    retires (.bnz .i0 .i0 4) (rig st) (rig st) 1 { busy st with pc := 3, stack := [c 9] } = true ∧
    retires (.bz8 .i0 .i0 4) (rig st) (rig st) 2 { busy st with pc := 6, stack := [c 9] } = true ∧
    retires (.bnz8 .i0 .i0 4) (rig st) (rig st) 1 { busy st with pc := 2, stack := [c 9] } = true ∧
    retires (.jmp .i0 .i0) (rig st) (rig st) 2 { busy st with pc := 0, stack := [c 9] } = true ∧
    retires (.djnz .i0 .i0 4) (rig st) (rig st) 2 { busy st with pc := 7, stack := [c (2 ^ 64 - 1), c 9] } = true ∧
    retires (.djnz .i0 .i0 4) (rig [c 1]) (rig [c 1]) 1 { busy [c 1] with pc := 3, stack := [] } = true := by decide +kernel

/-- R232: bit 62 of a return cell is IE, bit 63 marks one of an interrupt. -/
theorem test_calls :
    let st := [c 0x40, c 9]
    retires (.call .i0 .i0 4) (rig st) (rig st) 2 { busy st with pc := 7, rstack := [c 3, c 0x30] } = true ∧
    retires (.calll .i0 .i0 4) (rig st) (rig st) 2 { busy st with pc := 8, rstack := [c 4, c 0x30] } = true ∧
    retires (.calli .i0 .i0) (rig st) (rig st) 2 { busy st with pc := 0x40, stack := [c 9], rstack := [c 1, c 0x30] } = true ∧
    retires (.toR .i0 .i0) (rig st) (rig st) 1 { busy st with pc := 1, stack := [c 9], rstack := [c 0x40, c 0x30] } = true ∧
    retires (.ret .i0 .i0) (rig st) (rig st) 2 { busy st with pc := 0x30, rstack := [] } = true ∧
    retires (.rFrom .i0 .i0) (rig st) (rig st) 1 { busy st with pc := 1, stack := c 0x30 :: st, rstack := [] } = true ∧
    retires (.rFetch .i0 .i0) (rig st) (rig st) 1 { busy st with pc := 1, stack := c 0x30 :: st } = true := by decide +kernel

theorem test_reti :
    let s := (rig []).onPol .i0 (fun q => q.withBerth .i0 { busy [] with rstack := [c (3 * 2 ^ 62 + 0x20)] })
    Ready s .i0 .i0 1 ∧ retires (.reti .i0 .i0) s s 2 { busy [] with pc := 0x20, rstack := [], ie := true } = true := by decide +kernel

theorem test_pushes :
    leaves (.lit8 .i0 .i0 0x80) [] 2 1 [c (2 ^ 64 - 128)] = true ∧ leaves (.lit16 .i0 .i0 0x8000) [] 3 1 [c (2 ^ 64 - 32768)] = true ∧
    leaves (.lit32 .i0 .i0 5) [] 5 1 [c 5] = true ∧ leaves (.lit64 .i0 .i0 0x1234567890) [] 9 1 [c 0x1234567890] = true ∧
    leaves (.lit8u .i0 .i0 0x80) [] 2 1 [c 128] = true ∧ leaves (.lit16u .i0 .i0 0x8000) [] 3 1 [c 32768] = true ∧
    leaves (.lit32u .i0 .i0 0x80000000) [] 5 1 [c 0x80000000] = true ∧ leaves (.zero .i0 .i0) [] 1 1 [c 0] = true ∧
    leaves (.one .i0 .i0) [] 1 1 [c 1] = true ∧ leaves (.minus1 .i0 .i0) [] 1 1 [c (2 ^ 64 - 1)] = true ∧
    leaves (.litpc .i0 .i0) [] 1 1 [c 1] = true ∧ leaves (.rdepth .i0 .i0) [] 1 1 [c 1] = true ∧
    leaves (.ipend .i0 .i0) [] 1 1 [c 0] = true ∧ leaves (.tide .i0 .i0) [] 1 1 [c 9] = true ∧
    leaves (.mc .i0 .i0) [] 1 1 [c 100] = true ∧ leaves (.berth .i0 .i0) [] 1 1 [c 0x12000] = true := by decide +kernel

theorem test_idles :
    leaves (.nop .i0 .i0) [c 4] 1 1 [c 4] = true ∧ leaves (.idle8 .i0 .i0 9) [c 4] 2 10 [c 4] = true ∧
    leaves (.idle16 .i0 .i0 9) [c 4] 3 10 [c 4] = true ∧ leaves (.idle .i0 .i0) [c 0] 1 1 [] = true ∧
    leaves (.idle .i0 .i0) [c 30] 1 30 [] = true ∧ leaves (.fencest .i0 .i0) [c 4] 1 1 [c 4] = true := by decide +kernel

/-- R227: FENCEST waits until the short stores of the berth have landed; the bytes of this one are then in memory. -/
theorem test_fencest :
    let x := { busy [] with flights := [⟨0x100, 8, true, true, 104, natLe 8 0x55, 98, .none⟩] }
    let s := (rig []).onPol .i0 (fun q => q.withBerth .i0 x)
    Ready s .i0 .i0 1 ∧ (s.pol .i0).memctl.errs = [] ∧ retires (.fencest .i0 .i0) s s 5 (x.past 1) = true ∧
    after (exec (.fencest .i0 .i0) s) (fun t => decide ((t.pol .i0).mem.readNat 0x100 8 = 0x55 ∧ (t.bth .i0 .i0).flights = [])) = true := by
  decide +kernel

theorem test_interrupt_state :
    let st := [c 0x123, c 9]
    retires (.ei .i0 .i0) (rig st) (rig st) 1 { (busy st).past 1 with ie := true } = true ∧
    retires (.di .i0 .i0) (rig st) (rig st) 1 { (busy st).past 1 with ie := false } = true ∧
    retires (.yieldOp .i0 .i0) (rig st) (rig st) 1 { (busy st).past 1 with phase := .yielded } = true ∧
    retires (.setiv .i0 .i0) (rig st) (rig st) 1 { (busy st).past 1 with stack := [c 9], ivbase := 0x120 } = true ∧
    retires (.imask .i0 .i0) (rig st) (rig st) 1 { (busy st).past 1 with stack := [c 9], mask := 3 } = true := by decide +kernel

/-! ## Memory, tallies, shapes, interrupts -/

/-- Bytes 0xF0 to 0xF7 at 0x4000100, and 0xFFFF_FFF8 in the Counter's cell at 0x10000040. -/
def filled (st : List Slot) : State :=
  (rig st).onPol .i0 (fun q => (q.writeMem 0x4000100 (natLe 8 0xF7F6F5F4F3F2F1F0)).writeMem 0x10000040 (natLe 8 0xFFFFFFF8))

def loads (i : Instr) (a v : Nat) : Bool :=
  retires i (filled [c a]) (filled [c a]) 1 ({ (busy []).past 1 with stack := [⟨BitVec.ofNat 64 v, lands⟩] }.landing lands)
where lands : Nat := if a < 0x10000000 then 106 else 104

theorem test_short_passes :
    let s := filled [c 0x4000100]
    MemReady s .i0 .i0 1 ∧ ShortPasses s .i0 .i0 0x4000100 8 false ∧ (s.bth .i0 .i0).storePending 0x4000100 8 = false ∧
    ShortPasses s .i0 .i0 0x4000100 8 true ∧ NoFlight (s.bth .i0 .i0) 0x4000100 8 ∧ ShortPasses s .i0 .i0 0x10000040 8 true := by
  decide +kernel

theorem test_loads :
    loads (.ld64 .i0 .i0) 0x4000100 0xF7F6F5F4F3F2F1F0 = true ∧ loads (.ld32u .i0 .i0) 0x4000104 0xF7F6F5F4 = true ∧
    loads (.ld32s .i0 .i0) 0x4000104 0xFFFFFFFFF7F6F5F4 = true ∧ loads (.ld16u .i0 .i0) 0x4000106 0xF7F6 = true ∧
    loads (.ld16s .i0 .i0) 0x4000106 0xFFFFFFFFFFFFF7F6 = true ∧ loads (.ld8u .i0 .i0) 0x4000107 0xF7 = true ∧
    loads (.ld8s .i0 .i0) 0x4000107 0xFFFFFFFFFFFFFFF7 = true ∧ loads (.ld32u .i0 .i0) 0x10000040 0xFFFFFFF8 = true ∧
    retires (.ldp64 .i0 .i0) (filled [c 0x4000100]) (filled [c 0x4000100]) 1
      ({ (busy []).past 1 with stack := [c 0x4000108, ⟨0xF7F6F5F4F3F2F1F0, 106⟩] }.landing 106) = true := by decide +kernel

def stores (i : Instr) (n : Nat) (st : List Slot) : Bool :=
  let s := rig [c 0x4000200, c 0x1122334455667788]
  retires i s s 1 (((busy st).fly ((busy st).storing 0x4000200 (natLe n 0x1122334455667788) 6)).past 1)

theorem test_stores :
    stores (.st64 .i0 .i0) 8 [] = true ∧ stores (.st32 .i0 .i0) 4 [] = true ∧ stores (.st16 .i0 .i0) 2 [] = true ∧
    stores (.st8 .i0 .i0) 1 [] = true ∧ stores (.stp64 .i0 .i0) 8 [c 0x4000208] = true := by decide +kernel

theorem test_atomics :
    let s := filled [c 0x10000040, c 9]
    let y := ((busy [⟨0xFFFFFFF8, 104⟩]).past 1).landing 104
    MemReady s .i0 .i0 1 ∧ ShortPasses s .i0 .i0 0x10000040 8 true ∧ ShortPasses s .i0 .i0 0x10000040 8 false ∧
    retires (.cadd .i0 .i0) s (s.onPol .i0 (·.writeMem 0x10000040 (natLe 8 0x100000001))) 1 y = true ∧
    (let s := filled [c 0x10000040, c 0xFFFFFFF8, c 5];
      retires (.cswap .i0 .i0) s (s.onPol .i0 (·.writeMem 0x10000040 (natLe 8 5))) 1 y = true) ∧
    (let s := filled [c 0x10000040, c 7, c 5];
      retires (.cswap .i0 .i0) s s 1 y = true) := by decide +kernel

/-- R227: the bytes of the store above are in memory when FENCEST has waited for it. -/
theorem test_store_lands :
    let s := rig [c 0x4000200, c 0x1122334455667788]
    after (exec (.st64 .i0 .i0) s) (fun t => decide ((t.pol .i0).mem = (s.pol .i0).mem) && after (exec (.fencest .i0 .i0) t)
      (fun u => decide ((u.pol .i0).mem.readNat 0x4000200 8 = 0x1122334455667788 ∧ (u.bth .i0 .i0).mc = 107))) = true := by
  decide +kernel

/-- R228. -/
theorem test_misaligned :
    let logs (t : State) : Bool := bitOf ((t.pol .i0).stored (Off.berth 0 + 0x18)) 1 && decide ((t.pol .i0).imp.logCause = 2 ∧
      (t.pol .i0).imp.logMaster = 0 ∧ (t.pol .i0).imp.logAddr = 0x4000101 ∧ (t.pol .i0).imp.valid = false ∧
      (t.pol .i0).counter Off.accLogCount = 1 ∧ (t.bth .i0 .i0).impounded = false)
    let ones := c (2 ^ 64 - 1)
    after (exec (.ld64 .i0 .i0) (filled [c 0x4000101])) (fun t => decide ((t.bth .i0 .i0).stack = [ones]) && logs t) = true ∧
    after (exec (.ldp64 .i0 .i0) (filled [c 0x4000101])) (fun t => decide ((t.bth .i0 .i0).stack = [c 0x4000109, ones]) && logs t) = true ∧
    after (exec (.st16 .i0 .i0) (filled [c 0x4000101, c 5])) (fun t => decide ((t.bth .i0 .i0).stack = [] ∧
      (t.pol .i0).mem = ((filled []).pol .i0).mem) && logs t) = true ∧
    after (exec (.stp64 .i0 .i0) (filled [c 0x4000101, c 5])) (fun t => decide ((t.bth .i0 .i0).stack = [c 0x4000109]) && logs t) = true := by
  decide +kernel

/-- A berth whose tally 3 holds 7 and is armed at 9. -/
def tallied (st : List Slot) : Berth := { busy st with tallies := (List.replicate 16 0).set 3 7, tarm := [(3, 9)] }

def trig (st : List Slot) : State := (rig st).onPol .i0 (fun q => q.withBerth .i0 (tallied st))

theorem test_tallies :
    (tallied []).tallies.length = 16 ∧
    retires (.tread .i0 .i0) (trig [c 3]) (trig [c 3]) 1 ((tallied [c 7]).past 1) = true ∧
    retires (.twrite .i0 .i0 false) (trig [c 3, c 9]) (trig [c 3, c 9]) 1
      { (tallied []).past 1 with tallies := (List.replicate 16 0).set 3 9, pend := 4, tarm := [] } = true ∧
    retires (.tadd .i0 .i0) (trig [c 0x13, c 1]) (trig [c 0x13, c 1]) 1
      { (tallied []).past 1 with tallies := (List.replicate 16 0).set 3 8 } = true := by decide +kernel

/-- R237: the mirror of tally 3, with TMIRROR.EN set and its base at 0x40 of the Counter. -/
theorem test_mirror :
    let s := (trig [c 3, c 9]).onPol .i0 (·.store (Off.berth 0 + 0x1C) 0x41)
    after (exec (.twrite .i0 .i0 false) s) (fun t => decide ((t.pol .i0).mem.readNat 0x1000004C 4 = 9)) = true := by decide +kernel

/-- A copy of berth 0 that is to raise tally 3. -/
def copying (st : List Slot) : State :=
  (trig st).onPol .i0 (fun q => { q with copy := [⟨.i0, false, [(0x4000100, 8)], [(0x4000200, 8)], zeros 8, natLe 8 5, 3, 1⟩] })

theorem test_tally_lost :
    let s := copying [c 3, c 2]
    Ready s .i0 .i0 1 ∧ (s.bth .i0 .i0).tallies.length = 16 ∧
    after (exec (.twrite .i0 .i0 true) s) (fun t => decide ((t.bth .i0 .i0).tallies = (List.replicate 16 0).set 3 2 ∧
      bitOf ((t.pol .i0).stored (Off.berth 0 + 0x18)) 0 = true ∧ (t.pol .i0).copy.map (·.inc) = [0])) = true := by decide +kernel

theorem test_waits :
    retires (.waitt .i0 .i0) (trig [c 3, c 7]) (trig [c 3, c 7]) 1 ((tallied []).past 1) = true ∧
    retires (.waitt .i0 .i0) (trig [c 3, c 8]) (trig [c 3, c 8]) 1 { tallied [c 3, c 8] with phase := .waitt 3 8 2 1 } = true ∧
    retires (.waitt8 .i0 .i0 0x37) (trig []) (trig []) 1 ((tallied []).past 2) = true ∧
    retires (.waitt8 .i0 .i0 0x38) (trig []) (trig []) 1 { tallied [] with phase := .waitt 3 8 0 2 } = true ∧
    retires (.tarm .i0 .i0) (trig [c 3, c 7]) (trig [c 3, c 7]) 1 { (tallied []).past 1 with pend := 4, tarm := [] } = true ∧
    retires (.tarm .i0 .i0) (trig [c 2, c 1]) (trig [c 2, c 1]) 1 { (tallied []).past 1 with tarm := [(2, 1), (3, 9)] } = true := by
  decide +kernel

/-- Entry 4 with base 0x1000, extent 0 = 64 and stride 1 = −32. -/
def shape4 : BitVec 256 := BitVec.ofNat 256 (0x1000 + 64 * 2 ^ 64 + (2 ^ 32 - 32) * 2 ^ 160)

def shaped (st : List Slot) : Berth := (busy st).setShape 4 shape4

def srig (st : List Slot) : State := (rig st).onPol .i0 (fun q => q.withBerth .i0 (shaped st))

theorem test_shapes :
    retires (.shget .i0 .i0) (srig [c 7, c 4]) (srig [c 7, c 4]) 1 ((shaped [c (2 ^ 64 - 32)]).past 1) = true ∧
    retires (.shset .i0 .i0) (srig [c 2, c 36, c 5]) (srig [c 2, c 36, c 5]) 1
      (((shaped []).past 1).setShape 4 (BitVec.ofNat 256 (0x1000 + 5 * 2 ^ 64 + (2 ^ 32 - 32) * 2 ^ 160))) = true ∧
    retires (.shbase .i0 .i0) (srig [c 4, c 0x2000]) (srig [c 4, c 0x2000]) 1
      (((shaped []).past 1).setShape 4 (shape4 + 0x1000)) = true ∧
    retires (.shaddb .i0 .i0) (srig [c 4, c (2 ^ 64 - 0x1000)]) (srig [c 4, c (2 ^ 64 - 0x1000)]) 1
      (((shaped []).past 1).setShape 4 (shape4 - 0x1000)) = true ∧
    retires (.shcopy .i0 .i0) (srig [c 5, c 4]) (srig [c 5, c 4]) 1 (((shaped []).past 1).setShape 5 shape4) = true ∧
    retires (.shclr .i0 .i0) (srig [c 4]) (srig [c 4]) 1 (((shaped []).past 1).setShape 4 0) = true := by decide +kernel

theorem test_shape_memory :
    let s := srig [c 4, c 0x4000100]
    ShortPasses s .i0 .i0 0x4000100 32 false ∧ ShortPasses s .i0 .i0 0x4000100 32 true ∧ NoFlight (s.bth .i0 .i0) 0x4000100 32 ∧
    retires (.shld .i0 .i0) s s 1 ({ (shaped []).past 1 with shapePend := [(4, 0, 110)] }.landing 110) = true ∧
    retires (.shst .i0 .i0) s s 1 (((shaped []).fly ((shaped []).storing 0x4000100 (natLe 32 shape4.toNat) 10)).past 1) = true := by decide +kernel

theorem test_signals :
    after (exec (.signal .i0 .i0) (rig [c 0x142])) (fun t => decide ((t.bth .i0 .i0).sigVal = 0x42 ∧ (t.bth .i0 .i0).sigValid = true ∧
      (t.pol .i0).clerks.plic.edge.getLsbD 20 = true)) = true ∧
    (let q := (rig []).pol .i0;
      q.mayIssue .host false = true ∧ q.clocks.stopped = false ∧ q.holders.find? (fun h => decide (h.master = .host)) = none ∧
      q.readFenced .host (Off.berth 0 + 0x14) 4 = false) ∧
    after (exec (.berthSignalRead .i0 .i0 .host (some 7)) (rig [])) (fun t => decide ((t.bth .i0 .i0).sigVal = 7 ∧
      (t.bth .i0 .i0).sigValid = true)) = true ∧
    WritePasses (rig []) .i0 .host (Off.berth 0 + 0x10) ∧ ((rig []).bth .i0 .i0).running.isSome = true ∧
    after (exec (.berthPoke .i0 .i0 .host 1) (rig [])) (fun t => decide (t.bth .i0 .i0 = { busy [] with pend := 2 })) = true := by
  decide +kernel

/-- R242: source 2 of 2 and 3, both pending and enabled. -/
theorem test_interrupt_entry :
    let s := (rig []).onPol .i0 (fun q => q.withBerth .i0 { busy [] with ie := true, pend := 12, pc := 5 })
    ((s.bth .i0 .i0).pend &&& (s.bth .i0 .i0).mask).getLsbD (Ix4.i2).toNat = true ∧
    (s.pol .i0).millsRun = true ∧
    after (exec (.interruptEntry .i0 ⟨.i0, 0⟩) s) (fun t => decide ((t.bth .i0 .i0).pc = 64 ∧ (t.bth .i0 .i0).ie = false ∧
      (t.bth .i0 .i0).pend = 8 ∧ (t.bth .i0 .i0).mc = 103 ∧ (t.pol .i0).regs = (s.pol .i0).regs ∧
      (t.bth .i0 .i0).rstack = [c (3 * 2 ^ 62 + 5), c 0x30])) = true := by decide +kernel

/-! ## Traps, ends and long operations -/

/-- What `Ended` says of polder 0 and its berth 0, and that no other berth changed. -/
def ended (i : Instr) (s : State) : Bool :=
  after (exec i s) (fun t => let x := t.bth .i0 .i0
    decide (x.run = none ∧ x.phase = .idle ∧ x.stack = [] ∧ x.rstack = [] ∧ x.tallies = List.replicate 16 0 ∧ x.pre = none ∧
      (t.pol .i0).copy.map (·.berth) = [] ∧ t.bth .i0 .i1 = s.bth .i0 .i1 ∧ t.bth .i0 .i2 = s.bth .i0 .i2 ∧ t.bth .i0 .i3 = s.bth .i0 .i3))

theorem test_traps :
    ended (.dup .i0 .i0) (rig []) = true ∧ ended (.rot .i0 .i0) (rig [c 1, c 2]) = true ∧ ended (.bins .i0 .i0) (rig [c 1, c 2, c 3]) = true ∧
    ended (.crc32c .i0 .i0 .whole) (rig [c 1, c 2]) = true ∧ ended (.reti .i0 .i0) (rig []) = true ∧
    ended (.pick .i0 .i0) (rig [c 31, c 1]) = true ∧ ended (.roll .i0 .i0) (rig [c 31, c 1]) = true ∧
    ended (.trap .i0 .i0 9) (copying [c 1]) = true := by decide +kernel

theorem test_traps_2 :
    let e := (rig []).onPol .i0 (fun q => q.withBerth .i0 { busy [] with rstack := [] })
    let l := (rig []).onPol .i0 (fun q => q.withBerth .i0 { busy [] with pc := 1023 })
    let r := (rig []).onPol .i0 (fun q => q.withBerth .i0 { busy [] with rstack := [c (2 ^ 63)] })
    Ready e .i0 .i0 1 ∧ Ready l .i0 .i0 1 ∧ ended (.ret .i0 .i0) e = true ∧ ended (.rFetch .i0 .i0) e = true ∧ ended (.rFrom .i0 .i0) e = true ∧
    ended (.ret .i0 .i0) r = true ∧ ended (.lit8 .i0 .i0 1) l = true ∧ ended (.br .i0 .i0 1) l = true ∧ ended (.idle8 .i0 .i0 1) l = true ∧
    ended (.call .i0 .i0 1) l = true := by decide +kernel

/-- A berth whose return stack holds `n` cells, with POKE pending and enabled, and IE as given. -/
def returns (ie : Bool) (n : Nat) : State :=
  (rig []).onPol .i0 (fun q => q.withBerth .i0 { busy [] with rstack := List.replicate n (c 0), ie := ie, pend := 2, mask := 3 })

/-- R248: full stacks, and stacks with room for one cell. -/
theorem test_stack_violation :
    let held (i : Instr) (s : State) : Bool := after (exec i s) (fun t => decide ((t.bth .i0 .i0).impounded = true ∧
      (t.bth .i0 .i0).pc = (s.bth .i0 .i0).pc ∧ (t.bth .i0 .i0).stack.length = (s.bth .i0 .i0).stack.length ∧
      (t.bth .i0 .i0).rstack.length = (s.bth .i0 .i0).rstack.length ∧ (t.pol .i0).imp.cause = 6 ∧ (t.pol .i0).imp.valid = true))
    let legal (i : Instr) (s : State) (n r : Nat) : Bool := after (exec i s) (fun t => decide ((t.bth .i0 .i0).impounded = false ∧
      (t.bth .i0 .i0).stack.length = n ∧ (t.bth .i0 .i0).rstack.length = r ∧ (t.pol .i0).imp.valid = false))
    let s := rig (List.replicate 2080 (c 0))
    held (.zero .i0 .i0) s = true ∧ held (.dup .i0 .i0) s = true ∧ held (.ldp64 .i0 .i0) s = true ∧ held (.lit8 .i0 .i0 4) s = true ∧
    held (.call .i0 .i0 4) (returns false 544) = true ∧ held (.interruptEntry .i0 ⟨.i0, 0⟩) (returns true 544) = true ∧
    legal (.dup .i0 .i0) (rig (List.replicate 2079 (c 0))) 2080 1 = true ∧
    legal (.call .i0 .i0 4) (returns false 543) 0 544 = true ∧ legal (.interruptEntry .i0 ⟨.i0, 0⟩) (returns true 543) 0 544 = true := by
  decide +kernel

/-- R200 and R245: DETAIL of a TRAP with an immediate below 0x10 is 0x0F. -/
theorem test_trap_record :
    let s := rig []
    let q := s.pol .i0
    let a := q.cringBase 0 + 32 * q.ptr 0 2
    Ready s .i0 .i0 2 ∧ (s.bth .i0 .i0).flights = [] ∧ (s.bth .i0 .i0).longRest = [] ∧ q.ledger.ops = [] ∧ q.stored (Off.berth 0 + 0x1C) % 2 = 0 ∧ (q.wharf.ring 0).held = [] ∧ a + 32 ≤ 0x8000000 ∧
    q.memctl.errs = [] ∧ q.ringPtr 0 2 + 4 ≤ 0x200000 ∧ bitOf (q.ringCfg 0) 9 = false ∧
    after (exec (.trap .i0 .i0 5) s) (fun t => decide ((t.pol .i0).mem.readNat a 8 = 0x1122334455667788 ∧
      (t.pol .i0).mem.readNat (a + 8) 1 = 4 ∧ (t.pol .i0).mem.readNat (a + 11) 1 = 0x0F ∧
      (t.pol .i0).ctr32 (q.ringPtr 0 2) = (q.ptr 0 2 + 1) % q.ringSize 0)) = true := by decide +kernel

theorem serves_of {q : Polder} (h : q.clocks.safe = false ∧ q.memctl.held = Duo.const false) : q.Serves :=
  ⟨h.1, fun k => by rw [h.2]; cases k <;> rfl⟩

theorem test_serves : ((rig []).pol .i0).Serves := serves_of (by decide +kernel)

theorem test_end_and_timeout :
    Ready (rig []) .i0 .i0 1 ∧ ((rig []).pol .i0).outstanding .i0 = false ∧ ended (.endOp .i0 .i0 0) (rig [c 1]) = true ∧
    ((copying []).pol .i0).outstanding .i0 = true ∧
    after (exec (.endOp .i0 .i0 0) (copying [])) (fun t => decide ((t.bth .i0 .i0).phase = .draining)) = true ∧
    (let s := (rig []).onPol .i0 (fun q => q.withBerth .i0 { busy [] with used := q.watchLimit });
      (s.pol .i0).watchLimit ≤ (s.bth .i0 .i0).used ∧ (s.bth .i0 .i0).run = some ⟨bill, 32, 16, 0, true, 0, 0⟩ ∧
      (s.pol .i0).millsRun = true ∧ s.basinTime .i0 0 / (s.pol .i0).tideNs ≤ (s.pol .i0).wharf.tide ∧ ended (.timeout .i0 .i0) s = true) := by decide +kernel

/-- R240: 128 bytes in two chunks; stopped after the first. -/
theorem test_fill :
    let s := rig [c 128, c 0x4000200, c 0xAB]
    MemReady s .i0 .i0 1 ∧ (∀ i < 16, ShortPasses s .i0 .i0 (0x4000200 + 8 * i) (min 8 (128 - 8 * i)) true) ∧
    after (exec (.bfill .i0 .i0 .whole) s) (fun t => decide ((t.bth .i0 .i0).stack = [] ∧ (t.bth .i0 .i0).pc = 1 ∧
      (t.pol .i0).mem.readBytes 0x4000200 128 = (List.replicate 16 (natLe 8 0xAB)).flatten ∧ (t.pol .i0).mem.read 0x4000280 = 0 ∧
      (t.bth .i0 .i0).longOp = false)) = true ∧
    after (exec (.bfill .i0 .i0 (.interrupted 0)) s) (fun t => decide ((t.bth .i0 .i0).stack = [c 64, c 0x4000240, c 0xAB] ∧ (t.bth .i0 .i0).pc = 0 ∧
      (t.pol .i0).mem.readBytes 0x4000200 64 = (List.replicate 8 (natLe 8 0xAB)).flatten ∧ (t.pol .i0).mem.read 0x4000240 = 0 ∧
      (t.bth .i0 .i0).longOp = true)) = true := by decide +kernel

theorem test_move :
    let s := (rig [c 16, c 0x4000200, c 0x40000F8]).onPol .i0 (·.writeMem 0x4000100 (natLe 8 0x55))
    Ready s .i0 .i0 1 ∧ ShortPasses s .i0 .i0 0x40000F8 16 false ∧ ShortPasses s .i0 .i0 0x4000200 16 true ∧
    after (exec (.bmove .i0 .i0 .whole) s) (fun t => decide ((t.bth .i0 .i0).stack = [] ∧ (t.bth .i0 .i0).pc = 1 ∧
      (t.pol .i0).mem.readNat 0x4000208 8 = 0x55 ∧ (t.bth .i0 .i0).mc = 100 + 2 + 2 + 6 + 6)) = true ∧
    after (exec (.bmove .i0 .i0 .whole) (rig [c 0, c 0x4000200, c 0x40000F8])) (fun t => decide ((t.bth .i0 .i0).mc = 102)) = true := by decide +kernel

/-- R238: the CRC-32C of the nine bytes 31 to 39 is 0xE3069283, here without its final inversion. -/
theorem test_crc :
    let s := (rig [c 9, c 0x4000200, c 0xFFFFFFFF]).onPol .i0 (·.writeMem 0x4000200 [0x31, 0x32, 0x33, 0x34, 0x35, 0x36, 0x37, 0x38, 0x39])
    Ready s .i0 .i0 1 ∧ ShortPasses s .i0 .i0 0x4000200 9 false ∧
    after (exec (.crc32c .i0 .i0 .whole) s) (fun t => decide ((t.bth .i0 .i0).stack = [c 0x1CF96D7C] ∧ (t.bth .i0 .i0).pc = 1 ∧
      (t.bth .i0 .i0).mc = 100 + 2 + 2 + 6)) = true := by decide +kernel

/-- R12: a reserved opcode writes nothing outside the berth's own reach. -/
theorem test_reserved_opcode :
    let s := rig [c 1]
    Ready s .i0 .i0 1 ∧ (Instr.reservedOpcode .i0 .i0 0x5B).wf = true ∧
    after (exec (.reservedOpcode .i0 .i0 0x5B) s) (fun t => decide ((t.bth .i0 .i0).run = (s.bth .i0 .i0).run ∧
      (t.pol .i0).counter (Off.berth 0 + 0x28) = 1 ∧ t.warden = s.warden ∧ t.bth .i0 .i1 = s.bth .i0 .i1)) = true := by decide +kernel

/-! ## The queue, the whole die, power -/

theorem test_step_takes_front :
    let s := { State.reset with pending := [.perstDeassert, .thermtrip] }
    after (step s) (fun t => decide (t.pending = [.thermtrip] ∧ t.perst = false)) = true := by decide +kernel

theorem test_idle_step : after (step State.reset) (fun t => decide (t.warden.dieTime = 4 ∧ t.polders.a1.regs = [])) = true := by
  decide +kernel

theorem test_pool_sound : State.reset.warden.Sound :=
  ⟨by decide +kernel, by decide +kernel, by decide +kernel, fun _ => by decide +kernel, fun n => by cases n <;> decide +kernel⟩

theorem test_isolated : (Instr.flr .i1).actsOn = none ∧ (Instr.add .i1 .i2).actsOn = some .i1 := by decide +kernel

theorem test_idle_berth : (Instr.add .i0 .i1).issuedBy = some (.i0, .i1) ∧ ((rig []).pol .i0).issues .i1 = false ∧
    after (exec (.add .i0 .i1) (rig [])) (fun t => decide (t = rig [])) = true := by decide +kernel

theorem test_power_on : after (exec .powerOn (rig [c 1])) (fun t => decide (t.rails = [.aon] ∧ (t.pol .i0).boot = .powered ∧
    (t.pol .i0).berths = Quad.const Berth.reset ∧ (t.pol .i0).mem = Mem.reset)) = true := by decide +kernel

theorem test_resets :
    out.perst = false ∧ out.warden.thermtrip = false ∧ (out.pol .i0).boot ≠ .absent ∧
    after (exec .perstAssert out) (fun t => decide (t.perst = true ∧ (t.pol .i0).boot = .powered ∧ (t.pol .i0).cause = .perst ∧
      (t.pol .i0).imp = Impound.reset ∧ (t.pol .i0).wharf = Wharf.reset ∧ (t.pol .i0).clerks = Clerks.reset)) = true ∧
    after (exec (.railfault .core) (out.onWarden (fun w => { w with lock := true }))) (fun t => decide (t.rails = [.aon] ∧ (t.pol .i0).boot = .powered ∧
      (t.pol .i0).cause = .railfault ∧ (t.pol .i3).cause = .railfault ∧ t.pf4.linkUp = false)) = true ∧
    after (exec (.flr .i0) out) (fun t => decide ((t.pol .i0).cause = .flr ∧ (t.pol .i0).berths = Quad.const Berth.reset ∧
      (t.pol .i0).fuses = (out.pol .i0).fuses ∧ t.pol .i1 = out.pol .i1)) = true := by decide +kernel

theorem test_pins :
    (¬ Rail.core ∈ State.reset.rails) ∧ after (exec (.railInRange .core) State.reset) (fun t => decide (t.rails = [.aon, .core])) = true ∧
    after (exec .pf4Flr out) (fun t => decide (t.polders = out.polders ∧ t.warden.imp = none)) = true ∧
    after (exec .rawWindowEnd out) (fun t => !t.warden.rawWindow) = true := by decide +kernel

/-- Every rail in range and the Warden's charter loaded; polder 3 fused off. -/
def railed : State :=
  let s := State.reset.onWarden (fun w => { w with lock := true })
  { s with perst := false, rails := [.aon, .io, .core, .hbm, .opt] }.onPol .i3 (fun q => { q with
    fuses := { q.fuses with sku := .jt4x144 } })

theorem test_release :
    (∀ r, r ∈ railed.rails) ∧ railed.perst = false ∧ railed.warden.lock = true ∧ railed.warden.thermtrip = false ∧
    (railed.pol .i0).boot = .powered ∧ 64 ≤ ((List.range 66).filter (fun i => (railed.pol .i0).fuses.sites.getLsbD i)).length ∧
    after (exec .polderRelease railed) (fun t => decide ((t.pol .i0).boot = .charter ∧ railed.chRst .i0 = some false ∧
      t.chRst .i0 = some true ∧ (t.pol .i0).charter.phase = .zeroFill ∧
      (t.pol .i0).bootCount = 1 ∧ (t.pol .i3).boot = .absent)) = true :=
  ⟨fun r => by cases r <;> decide, by decide +kernel⟩

theorem test_thermtrip :
    after (exec .thermtrip out) (fun t => decide (t.warden.thermtrip = true ∧ (t.pol .i0).clocks.stopped = true ∧
      (t.pol .i0).wharf.grant = 0 ∧ (t.pol .i0).berths = (out.pol .i0).berths)) = true := by decide +kernel

theorem test_wh_reset :
    let s := out.onPol .i0 (fun q => (q.withBerth .i0 { busy [] with halted := true }))
    (s.pol .i0).canIssue .host = true ∧
    after (exec (.whReset .i0 .z 0x5752) s) (fun t => decide ((t.bth .i0 .i0).halted = false ∧ (t.bth .i0 .i0).run = (s.bth .i0 .i0).run ∧
      (t.pol .i0).watch.box = Duo.const Mailbox.reset)) = true := by decide +kernel

/-! ## The Charter port and the clocks -/

def port (ph : CharterPhase) (slotB : Bool) : State :=
  out.onPol .i0 (fun q => { q with
    boot := .charter, charter := { q.charter with lock := false, phase := ph, slotB := slotB }, mem := q.mem.write 0x10000000 5 })

theorem test_charter_slots :
    after (exec (.charterZeroFillDone .i0) (port .zeroFill false)) (fun t => decide ((t.pol .i0).charter.phase = .sfdp ∧
      (t.pol .i0).mem.read 0x10000000 = 0)) = true ∧
    after (exec (.charterSfdpRead .i0 ⟨true, 2 ^ 24, [0], false, true, false⟩) (port .sfdp false)) (fun t =>
      decide ((t.pol .i0).charter.phase = .header)) = true ∧
    after (exec (.charterSfdpRead .i0 Sfdp.reset) (port .sfdp false)) (fun t => decide ((t.pol .i0).charter.phase = .sfdp ∧
      (t.pol .i0).charter.slotB = true ∧ (t.pol .i0).charter.causeA = 1 ∧ (t.pol .i0).boot = .charter)) = true ∧
    after (exec (.charterSfdpRead .i0 Sfdp.reset) (port .sfdp true)) (fun t => decide ((t.pol .i0).boot = .stranded ∧
      (t.pol .i0).charter.causeB = 1 ∧ (t.pol .i0).charter.lock = true)) = true ∧
    after (exec (.charterBodyRead .i0 ⟨false, []⟩) (port .body true)) (fun t => decide ((t.pol .i0).boot = .stranded ∧
      (t.pol .i0).charter.causeB = 8)) = true ∧
    after (exec (.charterBodyRead .i0 ⟨false, []⟩) (port .body false)) (fun t => decide ((t.pol .i0).boot = .charter ∧
      (t.pol .i0).charter.causeA = 8 ∧ (t.pol .i0).charter.slotB = true)) = true := by decide +kernel

def clocked (f : Clocks → Clocks) : State := out.onPol .i0 (fun q => { q with clocks := f q.clocks })

def clocksAre (i : Instr) (s : State) (f : Clocks → Clocks) : Bool := after (exec i s) (fun t => decide ((t.pol .i0).clocks = f (s.pol .i0).clocks))

theorem test_relock :
    clocksAre (.relockRequest .i0) (clocked (fun c => { c with relock := .requested })) (fun c => { c with
      relock := .tuning, safe := true, locked := false }) = true ∧
    clocksAre (.lockDeclared .i0) (clocked (fun c => { c with relock := .tuning })) (fun c => { c with relock := .counting }) = true ∧
    clocksAre (.dividerRelease .i0) (clocked (fun c => { c with relock := .counting, safe := true, locked := false, divCur := 2 })) (fun c =>
      { c with relock := .none, boot := false, locked := true, safe := false, want := none, divCur := 0, testActive := false }) = true ∧
    clocksAre (.lockRetry .i0) (clocked (fun c => { c with relock := .counting, boot := true })) (fun c => { c with relock := .tuning }) = true ∧
    clocksAre (.dividerStep .i0) (clocked (fun c => { c with want := some 2 })) (fun c => { c with divCur := 2, want := none }) = true ∧
    WritePasses (clocked id) .i0 .host Off.millDiv ∧
    clocksAre (.millDivWrite .i0 .host 6) (clocked id) (fun c => { c with want := some 2 }) = true := by decide +kernel

/-- R135. Hart 1 runs, and the host's session is at L2. -/
def harted : State := out.onPol .i0 (fun q => { q with
  watch := { q.watch with box := q.watch.box.put .z { Mailbox.reset with level := 2 } }
  clerks := { q.clerks with harts := q.clerks.harts.set .i1 { Hart.reset with started := true, pc := 0x4000 } } })

theorem test_clock_test :
    WritePasses harted .i0 .watchhouse Off.clkTest ∧
    clocksAre (.clkTestWrite .i0 .watchhouse 1) harted (fun c => { c with relock := .requested, want := none }) = true ∧
    after (exec (.clkTestWrite .i0 .watchhouse 1) out) (fun t => decide (t.pol .i0 = out.pol .i0)) = true ∧
    (harted.pol .i0).canIssue (.hart .i1) = true ∧ (harted.pol .i0).fenced (masterCode (.hart .i1)) (winBase + Off.clkTest) 4 true = false ∧
    after (exec (.clkTestWrite .i0 (.hart .i1) 1) harted) (fun t => decide (((t.pol .i0).clerks.harts.get .i1).impounded = true ∧
      (t.pol .i0).clocks = (harted.pol .i0).clocks ∧ (t.pol .i0).imp.cause = 5 ∧ (t.pol .i0).imp.addr = winBase + Off.clkTest)) = true := by
  decide +kernel

theorem test_reference_loss :
    clocksAre (.refLost .i0) (clocked (fun c => { c with want := some 1 })) (fun c => { c with
      refPresent := false, coasting := true, divCur := 1, want := none }) = true ∧
    clocksAre (.refLost .i0) (clocked (fun c => { c with relock := .counting })) (fun c => { c with
      refPresent := false, coasting := true, refStop := true, relock := .requested }) = true ∧
    clocksAre (.coastLong .i0) (clocked (fun c => { c with refPresent := false, coasting := true })) (fun c => { c with
      coastLong := true }) = true ∧
    clocksAre (.refReacquired .i0 true) (clocked (fun c => { c with refPresent := false, coasting := true })) (fun c => { c with
      refPresent := true, coasting := false }) = true ∧
    clocksAre (.refReacquired .i0 false) (clocked (fun c => { c with refPresent := false, coasting := true })) (fun c => { c with
      refPresent := true, coasting := false, relock := .requested }) = true ∧
    clocksAre (.refReacquired .i0 false) (clocked (fun c => { c with refPresent := false, coasting := true, refStop := true })) (fun c =>
      { c with refPresent := true, coasting := false, refStop := false, safe := true, locked := false }) = true := by decide +kernel

/-! ## The Warden -/

/-- The Warden with its charter, polder 0 in RUN asking for `r`. -/
def ward (r : Nat) : State :=
  out.onWarden (fun w => { w with
    lock := true, req := ⟨r, 0, 0, 0⟩, floors := ⟨20, 10, 10, 10⟩, rawWindow := true })

def warm : Sample := ⟨⟨some 30, none, none, none⟩, [some 400, none, none, none, none, none, none, none]⟩

/-- R157: the excess of one polder is granted whole where the pool holds it, and the pool ends it where not. -/
theorem test_epoch :
    (ward 90).warden.thermtrip = false ∧ (ward 90).warden.lock = true ∧ warm.temps.any (·.isSome) = true ∧
    after (exec (.wardenEpoch warm) (ward 90)) (fun t => decide (t.warden.epoch = (ward 90).warden.epoch + 1 ∧ t.warden.dieTime = 1000 ∧
      t.warden.nextGrant = ⟨20 + min (min t.warden.req.a0 (t.warden.pool + 20) - 20) t.warden.pEff, 0, 0, 0⟩ ∧
      t.warden.grant = ⟨0, 0, 0, 0⟩ ∧ (t.pol .i0).wharf.grant = 0)) = true := by decide +kernel

theorem test_warden_signals :
    let s := out.onWarden (fun w => { w with overRun := 8, vrAlertPin := true, pmbusAddr := ⟨0x20, 0, 0, 0⟩, misses := ⟨2, 0, 0, 0⟩ })
    after (exec .vrHot s) (fun t => decide (t.warden.skip = Quad.const 48 ∧ t.warden.vrForce = true ∧ t.warden.count 0x90 = 1 ∧
      bitOf (t.warden.wreg 0xC) 0 = true)) = true ∧
    after (exec .vrAlert s) (fun t => decide (t.warden.vrAlertPin = true ∧ bitOf (t.warden.wreg 0xC) 1 = true)) = true ∧
    after (exec .calLost s) (fun t => decide (t.peRefclk = false ∧ t.warden.clkCal = false ∧ bitOf (t.warden.wreg 0xC) 7 = true)) = true ∧
    after (exec .overbudget s) (fun t => decide (t.warden.overB = true ∧ t.warden.count 0xA0 = 1 ∧ bitOf (t.warden.wreg 0xC) 6 = true)) = true ∧
    after (exec (.statusWord .i0 (some 0x4000)) s) (fun t => decide (t.warden.vrHalved.a0 = true ∧ t.warden.misses.a0 = 0)) = true ∧
    after (exec (.statusWord .i0 none) s) (fun t => decide (t.warden.misses.a0 = 0 ∧ t.warden.count 0xA8 = 1 ∧
      bitOf (t.warden.wreg 0xC) 4 = true)) = true ∧
    after (exec (.readIout ⟨some 0x100, none, none, none⟩) s) (fun t => decide (t.warden.iout = 4096)) = true ∧
    after (exec (.readTemperature1 ⟨some 0x40, none, none, none⟩) s) (fun t => decide (t.warden.vrTemp = 1024)) = true ∧
    after (exec .vrHotRelease s) (fun t => decide (t.warden.vrForce = false)) = true ∧
    after (exec .pcieRefclkReturn s) (fun t => decide (t.peRefclk = true ∧ t.warden.clkCal = true)) = true := by decide +kernel

/-- The host has PF4. -/
def pf4 : State :=
  let s := (out.onWarden (fun w => { w with lock := true })).onPf4 (fun h => { h with linkUp := true, mse := true })
  match exec .vrAlert s with
  | .next t => t
  | _ => s

theorem test_warden_writes :
    pf4.pf4.linkUp = true ∧ pf4.pf4.mse = true ∧ pf4.warden.lock = true ∧ pf4.warden.imp = none ∧ pf4.warden.wholder = none ∧
    ([0x10, 0x14, 0x18, 0x1C, 0x20, 0x28, 0x2C, 0x30, 0x34].all (fun o =>
      after (exec (.wardenWrite o 4 5 Coincide.none) pf4) (fun t => decide (t.warden = { pf4.warden with imp := some o })))) = true ∧
    bitOf (pf4.warden.wreg 0xC) 1 = true ∧
    after (exec (.wardenWrite 0xC 4 2 Coincide.none) pf4) (fun t => decide (bitOf (t.warden.wreg 0xC) 1 = false)) = true ∧
    after (exec (.wardenWrite 0xC 4 1 Coincide.none) pf4) (fun t => decide (bitOf (t.warden.wreg 0xC) 1 = true)) = true := by
  decide +kernel

/-! ## The Wharf -/

/-- A waybill's 128 bytes: id 7, class 2, size 0, PCLASS 0, no deadline, ENERGY 1, 8 bytes of code at 0x100, entry 0, format 1. -/
def billBytes : List Byte :=
  natLe 8 7 ++ [2, 5, 0, 0x10] ++ natLe 4 1 ++ natLe 8 0x100 ++ natLe 4 8 ++ natLe 4 0 ++ natLe 8 0 ++ natLe 4 0 ++ [0, 1] ++ zeros 82

/-- Ring 2 holds it: base 0x40000, 16 entries, MTAIL 1, MHEAD 0; its pointers lie in the Counter. -/
def ringed (bs : List Byte) : State :=
  out.onPol .i0 (fun q =>
    let q1 := { q with
      regs := Store.insert (Store.insert q.regs (Off.ring 2) 0x40000) (Off.ring 2 + 0x10) 0x104#32
      wharf := { q.wharf with rings := [(2, { Ring.init with mtail := 1 })] } }
    q1.writeMem (q1.ringBase 2) bs)

theorem test_waybill_read :
    let s := ringed billBytes
    let q := s.pol .i0
    q.nextRing = some 2 ∧ q.memctl.errs = [] ∧ q.region (q.ringBase 2) = some .granary ∧
    q.pclassCurrent 0 ≤ s.warden.floors.get .i0 + s.warden.pool ∧
    after (exec (.waybillRead .i0) s) (fun t => decide ((t.pol .i0).ptr 2 1 = 1 ∧ (t.pol .i0).wharf.pool.map (·.id) = [7] ∧
      (t.pol .i0).wharf.pool.map (·.deadline) = [none] ∧ (t.pol .i0).wharf.pool.map (·.codeLen) = [8] ∧
      (t.pol .i0).wharf.pool.map (·.ring) = [2] ∧ ((t.pol .i0).wharf.ring 2).reserved = 1)) = true := by decide +kernel

theorem test_well_formed_bill : WellFormedBill billBytes := by unfold WellFormedBill; decide +kernel

theorem test_malformed :
    after (exec (.waybillRead .i0) (ringed (billBytes.set 0xC 0))) (fun t => decide ((t.pol .i0).wharf.pool = [] ∧
      bitOf ((t.pol .i0).stored Off.wharfSticky) 1 = true ∧ (t.pol .i0).ptr 2 1 = 1)) = true := by decide +kernel

theorem test_doorbell :
    let s := (ringed billBytes).onPol .i0 (fun q => { (q.writeMem (0x10000000 + q.ringPtr 2 0) (natLe 4 3)) with wharf := Wharf.reset })
    WritePasses s .i0 .host Off.doorbell ∧ (s.pol .i0).ptr 2 0 ≠ (s.pol .i0).ptr 2 1 ∧ (s.pol .i0).ringEn 2 = true ∧
    after (exec (.doorbell .i0 .host 2) s) (fun t => decide (((t.pol .i0).wharf.ring 2).mtail = 3)) = true := by decide +kernel

/-- The waybill of `billBytes`, in the pool. -/
def pooled (f : Polder → Polder) : State := out.onPol .i0 (fun q => f { q with
  wharf := { q.wharf with pool := [small] }, mem := q.mem.writeBytes 0x100 (natLe 8 0xAA) })
where small : Waybill := { bill with codeAddr := 0x100, codeLen := 8, size := 0, seedCount := 1, seeds := [5] }

theorem test_admission :
    let s := pooled (fun q => { q with berths := Quad.const Berth.reset })
    (s.pol .i0).wharf.admitting = true ∧ (s.pol .i0).dozing = none ∧ (s.pol .i0).wbCurrent pooled.small ≤ (s.pol .i0).wharf.grant ∧
    after (exec (.admission .i0) s) (fun t => decide ((t.pol .i0).wharf.pool = [] ∧ (t.bth .i0 .i0).phase = .loading ∧
      (t.bth .i0 .i0).run.map (fun x => (x.base, x.mills)) = some (56, 8) ∧ (t.pol .i0).counter Off.admitCount = 1)) = true := by
  decide +kernel

theorem test_preload :
    let s := pooled (fun q => { q with wharf := { q.wharf with grant := 0 } })
    (s.pol .i0).wharf.grant < (s.pol .i0).runCurrent + (s.pol .i0).wbCurrent pooled.small ∧ (s.bth .i0 .i0).run.isSome = true ∧
    after (exec (.preload .i0) s) (fun t => decide ((t.bth .i0 .i0).pre = some pooled.small ∧
      (t.bth .i0 .i0).spare = natLe 8 0xAA ∧ (t.bth .i0 .i0).half = false)) = true := by decide +kernel

theorem test_code_load :
    let s := pooled (fun q => q.withBerth .i0 { Berth.reset with phase := .loading, run := some ⟨pooled.small, 56, 8, 9, false, 0, 0⟩ })
    after (exec (.codeLoadDone .i0 .i0) s) (fun t => decide ((t.bth .i0 .i0).phase = .running ∧ (t.bth .i0 .i0).pc = 0 ∧
      (t.bth .i0 .i0).codeLen = 8 ∧ (t.bth .i0 .i0).half = true ∧ (t.bth .i0 .i0).code1 = natLe 8 0xAA ∧
      (t.bth .i0 .i0).stack.map Slot.val = [5])) = true := by decide +kernel

/-- Polder 0 alone, its tide 1000 µs. -/
def alone (boot : BootState) (f : Polder → Polder) : State := pooled (fun q => f { q with
  boot := boot, alone := true, regs := Store.insert (Store.insert q.regs Off.tidePeriod 1000) Off.slack 100
  wharf := { q.wharf with tide := 0 } })

theorem test_tide_boundary :
    let late := { bill with noDeadline := false, rel := 0, readTide := 0 }
    let s := alone .opened (fun q => (q.withBerth .i0 { busy [c 1] with run := some ⟨late, 32, 16, 0, true, 0, 0⟩ }))
    late.deadline = some 0 ∧ (s.pol .i0).wharf.frozen = false ∧
    after (exec (.tideBoundary .i0 1000000) s) (fun t => decide ((t.pol .i0).boot = .run ∧ (t.pol .i0).wharf.tide = 1 ∧
      (t.pol .i0).runTime = 1000000 ∧ (t.bth .i0 .i0).run = none ∧ (t.pol .i0).wharf.pool.length = 1)) = true := by decide +kernel

theorem test_slack :
    let s := alone .run id
    (s.pol .i0).wharf.slackFired = false ∧ (s.pol .i0).stored Off.slack % 2 ^ 17 ≠ 0 ∧
    1 * ((s.pol .i0).stored Off.tidePeriod % 2 ^ 17 * 1000) ≤ s.basinTime .i0 900000 + (s.pol .i0).stored Off.slack % 2 ^ 17 * 1000 ∧
    after (exec (.slack .i0 900000) s) (fun t => decide ((t.pol .i0).wharf.slackFired = true ∧ (t.bth .i0 .i0).pend = 1)) = true := by
  decide +kernel

theorem test_doze :
    let s := alone .run (fun q => { q with wharf := { q.wharf with grant := 0 } })
    let z := alone .run (fun q => { q with dozing := some true })
    after (exec (.doze .i0) s) (fun t => decide ((t.pol .i0).dozing = some true ∧ (t.pol .i0).wharf.admitting = false)) = true ∧
    (z.pol .i0).wharf.grant ≠ 0 ∧
    after (exec (.wake .i0) z) (fun t => decide ((t.pol .i0).dozing = none ∧ (t.pol .i0).wharf.admitting = true)) = true := by
  decide +kernel

/-! ## Wide instructions -/

/-- A DIRECT descriptor: space `sp`, shape entry `i`, offset or address `f`. -/
def direct (sp i f : Nat) : BitVec 72 := BitVec.ofNat 72 (sp * 2 ^ 65 + i * 2 ^ 60 + f)

def none72 : BitVec 72 := 0xF00000000000000000

/-- A shape entry with an element format and two extents (R233). -/
def entry2 (elem e0 e1 : Nat) : BitVec 256 := BitVec.ofNat 256 (elem * 2 ^ 48 + e0 * 2 ^ 64 + e1 * 2 ^ 80)

/-- Berth 0 stands at an escape on mills 32 to 39. Entries: 1 one vector of int8, 2 one row of int32, 3 32 vectors of int8, 4 one vector
of bf16, 5 32 rows of int32, 6 8 bytes of int8, 7 32 bytes, 8 32 × 32 bytes, 9 one word, 10 8 floats, 11 two words, 12
16 floats, 13 16 of bf16. -/
def wide0 : Berth :=
  { busy [] with
    pc := 7, run := some ⟨bill, 32, 8, 0, true, 0, 0⟩
    shapes := [(1, entry2 4 64 1), (2, entry2 6 32 1), (3, entry2 4 64 32), (4, entry2 0 32 1), (5, entry2 5 32 32), (6, entry2 4 8 1),
      (7, entry2 4 32 1), (8, entry2 4 32 32), (9, entry2 6 1 1), (10, entry2 5 8 1), (11, entry2 6 2 1),
      (12, entry2 5 16 1), (13, entry2 0 16 1)] }

/-- The planes of mills 32 to 39 hold int8 ones; the vector at 0x4000 of each bin starts with 2, 0xFF. -/
def wrig (f : Polder → Polder) : State :=
  die (fun q => f { q with
    berths := ⟨wide0, Berth.reset, Berth.reset, Berth.reset⟩
    planes := (List.range 8).map (fun k => (64 + 2 * k, ⟨.int8, List.replicate 64 (List.replicate 32 1)⟩))
    mem := q.mem.writeBytes (32 * 0x200000 + 0x4000) [2, 0xFF] })

def ops (d a b : Option Operand) : WideOps := ⟨d, a, b, []⟩

/-- The operand of a DIRECT descriptor of entry `i`. -/
def opnd (sp : Space) (i f : Nat) : Operand :=
  ⟨.direct, sp, f, (ShapeVal.of (wide0.shape i)).getD ⟨0, .int8, 1, 1, 1, 1, 0, 0, 0, 0⟩, 0, 0, []⟩

def mmBody : WideBody := ⟨0, 0, 0, direct 0 2 0x8000, direct 0 1 0x4000, none72, 0⟩

def mmOps : WideOps := ops (some (opnd .bin 2 0x8000)) (some (opnd .bin 1 0x4000)) none

theorem test_mm_operands : Operands (wrig id) .i0 .i0 mmBody mmOps :=
  ⟨fun _ => rfl, fun x h => by rcases h with h | h | h <;> cases h <;> rfl⟩

theorem test_mm :
    let s := wrig id
    let q := s.pol .i0
    let x := s.bth .i0 .i0
    let d := opnd .bin 2 0x8000
    let a := opnd .bin 1 0x4000
    let g := x.millGroup 0
    WideReady s .i0 .i0 ∧ q.wideCheck .i0 (distanceChecks mmOps g g) (wantShape (q.mmShapeOk .i0 mmBody mmOps)) = none ∧
    (mmPlan q .i0 mmBody g d a).breaks x = false ∧ x.flights = [] ∧ q.memctl.errs = [] ∧ q.mmAcc g (wPlane mmBody) a.elem = some .int32 ∧
    x.ready = [] := by decide +kernel

/-- D at 0x8000 and A at 0x4000 of the same bins do not meet. -/
theorem apart_of (d a : Operand) (hd : ∀ k < 8, ∀ y ∈ d.resultRow ⟨32, 8⟩ k 0, 0x8000 ≤ y % 0x200000 ∧ y % 0x200000 ≤ 0x9000)
    (ha : ∀ k < 8, ∀ v ∈ a.stream ⟨32, 8⟩ k, ∀ x ∈ v, 0x4000 ≤ x % 0x200000 ∧ x % 0x200000 < 0x5000) (hs : a.size ≤ 4) (ht : d.size ≤ 4) :
    d.apart ⟨32, 8⟩ 1 a ⟨32, 8⟩ := by
  intro k hk j hj y hy i hi v hv x hx
  obtain rfl : j = 0 := by omega
  have := hd k hk y hy
  have := ha i hi v hv x hx
  omega

theorem test_mm_apart : (opnd .bin 2 0x8000).apart ⟨32, 8⟩ 1 (opnd .bin 1 0x4000) ⟨32, 8⟩ :=
  apart_of _ _ (by decide +kernel) (by decide +kernel) (by decide) (by decide)

def ldwBody : WideBody := ⟨0, 2, 0, none72, direct 0 3 0x4000, none72, 0⟩

theorem test_ldw_operands : Operands (wrig id) .i0 .i0 ldwBody (ops none (some (opnd .bin 3 0x4000)) none) :=
  ⟨fun _ => rfl, fun x h => by rcases h with h | h | h <;> cases h <;> rfl⟩

theorem test_ldw :
    let s := wrig id
    let q := s.pol .i0
    let x := s.bth .i0 .i0
    let o := ops none (some (opnd .bin 3 0x4000)) none
    let g := x.millGroup 0
    WideReady s .i0 .i0 ∧ q.wideCheck .i0 (distanceChecks o g g) (wantShape (q.ldwShapeOk .i0 ldwBody o)) = none ∧
    (ldwPlan q .i0 ldwBody g (opnd .bin 3 0x4000) true).breaks x = false ∧ x.lastUse = [] := by decide +kernel

def mmoBody : WideBody := ⟨0, 0, 0, direct 0 5 0x8000, direct 0 4 0x4000, direct 0 4 0x4000, 0⟩

theorem test_mmo :
    let s := wrig id
    let q := s.pol .i0
    let x := s.bth .i0 .i0
    let v := opnd .bin 4 0x4000
    let o := ops (some (opnd .bin 5 0x8000)) (some v) (some v)
    let g := x.millGroup 0
    WideReady s .i0 .i0 ∧ accOf v.elem v.elem = some .fp32 ∧
    q.wideCheck .i0 (distanceChecks o g g) (wantShape (q.mmoShapeOk .i0 mmoBody o)) = none ∧
    (mmoPlan q .i0 mmoBody g (opnd .bin 5 0x8000) v v).breaks x = false := by
  decide +kernel

theorem test_mmo_operands : Operands (wrig id) .i0 .i0 mmoBody
    (ops (some (opnd .bin 5 0x8000)) (some (opnd .bin 4 0x4000)) (some (opnd .bin 4 0x4000))) :=
  ⟨fun _ => rfl, fun x h => by rcases h with h | h | h <;> cases h <;> rfl⟩

def postBody : WideBody := ⟨0, 0, 0, direct 0 2 0x8000, direct 0 2 0x4000, none72, 0⟩

def postOps : WideOps := ops (some (opnd .bin 2 0x8000)) (some (opnd .bin 2 0x4000)) none

theorem test_post_operands : Operands (wrig id) .i0 .i0 postBody postOps :=
  ⟨fun _ => rfl, fun x h => by rcases h with h | h | h <;> cases h <;> rfl⟩

theorem test_post_and_reduce :
    let s := wrig id
    let q := s.pol .i0
    let x := s.bth .i0 .i0
    let d := opnd .bin 2 0x8000
    let a := opnd .bin 2 0x4000
    let g := x.millGroup 0
    q.wideCheck .i0 (distanceChecks postOps g g) (wantShape (q.postShapeOk .i0 postBody postOps)) = none ∧
    (postPlan q .i0 postBody g d a none).breaks x = false ∧
    q.wideCheck .i0 (distanceChecks postOps g.first g) (wantShape (q.redShapeOk .i0 postBody postOps)) = none ∧
    (redPlan q .i0 postBody g d a).breaks x = false := by
  decide +kernel

theorem test_post_apart : (opnd .bin 2 0x8000).apart ⟨32, 8⟩ 1 (opnd .bin 2 0x4000) ⟨32, 8⟩ :=
  apart_of _ _ (by decide +kernel) (by decide +kernel) (by decide) (by decide)

/-- A copy of 8 bytes from 0x4004000 to 0x4008000, counted 2 at tally 3. -/
def movBody : WideBody := ⟨0, 0, 0, direct 1 6 0x4008000, direct 1 6 0x4004000, none72, 0x32⟩

def turnBody : WideBody := { movBody with d := direct 1 8 0x4008000, a := direct 1 8 0x4004000 }

def turnOps : WideOps := ops (some (opnd .gran 8 0x4008000)) (some (opnd .gran 8 0x4004000)) none

def movOps : WideOps := ops (some (opnd .gran 6 0x4008000)) (some (opnd .gran 6 0x4004000)) none

theorem test_mov_operands : Operands (wrig id) .i0 .i0 movBody movOps ∧ Operands (wrig id) .i0 .i0 turnBody turnOps :=
  ⟨⟨fun _ => rfl, fun x h => by rcases h with h | h | h <;> cases h <;> rfl⟩,
    ⟨fun _ => rfl, fun x h => by rcases h with h | h | h <;> cases h <;> rfl⟩⟩

theorem test_mov :
    let s := wrig id
    let q := s.pol .i0
    let g := (s.bth .i0 .i0).ownGroup
    q.queued .i0 .copy < 16 ∧ q.wideCheck .i0 (copyChecks g movOps) (wantShape (movOk movOps)) = none ∧
    q.wideCheck .i0 (copyChecks g turnOps) (wantShape (turnOk q g turnOps)) = none ∧ (s.bth .i0 .i0).flights = [] ∧
    ((opnd .gran 6 0x4004000).runs q g).all (fun r => decide (q.region r.1 = some .granary)) = true ∧
    after (exec (.mov .i0 .i0 movBody) s) (fun t => decide ((t.bth .i0 .i0).pc = 40 ∧
      (t.pol .i0).copy.map (fun o => (o.berth, o.tally, o.inc, o.out)) = [(.i0, 3, 2, [2, 0xFF, 0, 0, 0, 0, 0, 0])])) = true := by
  decide +kernel

theorem test_copy_report :
    let op : CopyOp := ⟨.i0, false, [(0x4004000, 2)], [(0x4008000, 2)], [2, 0xFF], [2, 0xFF], 3, 2⟩
    let s := wrig (fun q => { q with copy := [op] })
    let q := s.pol .i0
    q.clocks.stopped = false ∧ (s.dom .i0).changed .i0 op.stale op.src op.snap = false ∧ q.Unheld .i0 ∧ q.memctl.errs = [] ∧ runsMeet op.src op.dst = false ∧
    q.stored (Off.berth 0 + 0x1C) % 2 = 0 ∧ (s.bth .i0 .i0).phase = .running ∧
    after (exec (.copyReport .i0 .i0 0 0) s) (fun t => decide ((t.pol .i0).copy = [] ∧ (t.pol .i0).mem.readBytes 0x4008000 2 = [2, 0xFF] ∧
      (t.bth .i0 .i0).tallies = (List.replicate 16 0).set 3 2)) = true := by decide +kernel

/-- R462: 8 bytes for the polder itself, its control block of 32 bytes at 0x4008000. -/
def putBody : WideBody := ⟨0, 0, 0, none72, direct 1 6 0x4004000, direct 1 7 0x4008000, 0x32⟩

def putOps : WideOps := ops none (some (opnd .gran 6 0x4004000)) (some (opnd .gran 7 0x4008000))

theorem test_put_operands : Operands (wrig id) .i0 .i0 putBody putOps :=
  ⟨fun _ => rfl, fun x h => by rcases h with h | h | h <;> cases h <;> rfl⟩

theorem test_put :
    let s := wrig id
    let q := s.pol .i0
    let g := (s.bth .i0 .i0).ownGroup
    q.queued .i0 .xfer < 16 ∧ q.wideCheck .i0 (xferChecks g putOps) (wantShape (xferOk putBody false putOps)) = none ∧
    after (exec (.put .i0 .i0 putBody) s) (fun t => decide ((t.pol .i0).lock.xfer.map (fun o => (o.func, o.bytes, o.ctlAt, o.tally, o.inc)) =
      [(0, [2, 0xFF, 0, 0, 0, 0, 0, 0], [(0x4008000, 32)], 3, 2)])) = true := by decide +kernel

theorem test_mput :
    after (exec (.mput .i0 .i0 putBody) (wrig id)) (fun t => decide ((t.pol .i0).lock.xfer.map (·.func) = [1])) = true := by
  decide +kernel

/-! ## Transfers -/

theorem noReads_of {q : Polder}
    (h : (q.berths.a0.flights ++ q.berths.a1.flights ++ q.berths.a2.flights ++ q.berths.a3.flights).all (·.write) = true) : q.noReads := by
  intro b f hf
  rw [List.all_eq_true] at h
  cases b <;> exact h f (by simp [Quad.get] at hf; simp [hf])

/-- `v` in a register. -/
def reg (o v : Nat) (q : Polder) : Polder := { q with regs := Store.insert q.regs o (BitVec.ofNat 32 v) }

/-- The first window of R469 opens the whole Granary to segments. -/
def windowed (q : Polder) : Polder :=
  reg (Off.lock + 0x4C) 0 (reg (Off.lock + 0x48) 0xFFFFFFF (reg (Off.lock + 0x44) 0x80000000 (reg (Off.lock + 0x40) 0 q)))

/-- Berth 0 has one operation of `func` in the XFER unit: 8 bytes from 0x4004000, its block at 0x4008000 with 0x4009000 in it, RNOTE 7. -/
def xop (func : Nat) : XferOp :=
  ⟨.i0, false, func, [2, 0xFF, 0, 0, 0, 0, 0, 0], [(0x4004000, 8)], false, [(0x4008000, 32)], none, none, 0, none, 1, 3, 2⟩

def xrig (op : XferOp) : State :=
  wrig (fun q =>
    { windowed q with
      lock := { q.lock with xfer := [op] }
      mem := (q.mem.writeBytes 0x4004000 [2, 0xFF]).writeBytes 0x4008008 (natLe 8 0x4009000 ++ natLe 4 7) })

theorem test_put_start :
    let s := xrig (xop 0)
    let q := s.pol .i0
    let blk (i n : Nat) : Nat := q.mem.readNat (0x4008000 + i) n
    q.clocks.stopped = false ∧ q.memctl.errs = [] ∧ q.Plain 0x4008000 32 false ∧ blk 0 2 % 4096 = q.addr.toNat ∧
    blk 2 1 % 64 = q.grid.toNat ∧ (s.dom .i0).changed .i0 false (xop 0).src (xop 0).bytes = false ∧ q.Unheld .i0 ∧ blk 8 8 % 2 ^ 48 = 0x4009000 ∧
    q.landable 0x4009000 8 = true ∧ q.Plain 0x4009000 8 true ∧ blk 0x10 4 < 2 ^ 31 ∧
    after (exec (.xferStart .i0 .i0) s) (fun t => decide ((t.pol .i0).mem.readBytes 0x4009000 8 = (xop 0).bytes ∧
      (t.pol .i0).lock.xfer.map (·.formed) = [8])) = true := by decide +kernel

theorem test_put_still : (xrig (xop 0)).pol .i0 |>.noReads := noReads_of (by decide +kernel)

theorem test_rput_bad_block :
    let q := (xrig (xop 2)).pol .i0
    q.mem.readNat 0x4008004 1 = 0 ∧ q.mem.readNat 0x4008002 1 % 64 = q.grid.toNat ∧
    after (exec (.xferStart .i0 .i0) (xrig (xop 2))) (fun t => decide ((t.pol .i0).lock.xfer.map (·.code) = [some 3] ∧
      (t.pol .i0).mem = q.mem)) = true := by decide +kernel

theorem test_transfer_report :
    let op := { xop 2 with code := some 3 }
    let s := xrig op
    let q := s.pol .i0
    q.xferEnded op = true ∧ q.Plain 0x4008014 4 true ∧ q.stored (Off.berth 0 + 0x1C) % 2 = 0 ∧ (s.bth .i0 .i0).phase = .running ∧
    after (exec (.xferReport .i0 .i0 0 0) s) (fun t => decide ((t.pol .i0).lock.xfer = [] ∧ (t.pol .i0).mem.readNat 0x4008014 4 = 3 ∧
      (t.bth .i0 .i0).tallies = (List.replicate 16 0).set 3 2)) = true := by decide +kernel

/-! ## The Gleaner -/

/-- Table 0: 16 rows of 8 floats at 0x4010000, published every tide, valid, its own owner at Counter 0x100, 4 slots at 0x4020000. -/
def tabled (q : Polder) : Polder :=
  let o := Off.table 0
  reg o 0x4010000 (reg (o + 0x10) 16 (reg (o + 0x14) (5 + 2 ^ 8 + 2 ^ 31) (reg (o + 0x18) 8 (reg (o + 0x1C) 1 (reg (o + 0x20) 0x100
    (reg (o + 0x24) 4 (reg (o + 0x28) 0x4020000 q)))))))

/-- Row 3 is eight times 1.0; 0x4004000 holds the entry (3, 2.0); 0x4005000 the bag offsets 0 and 1; 0x4006000 eight times 1.0. -/
def grig (f : Polder → Polder) : State :=
  let ones := (List.range 8).flatMap (fun _ => natLe 4 0x3F800000)
  wrig (fun q => f { tabled q with
    mem := (((q.mem.writeBytes (0x4010000 + 96) ones).writeBytes 0x4004000 (natLe 4 3 ++ natLe 4 0x40000000)).writeBytes 0x4005000
      (natLe 4 0 ++ natLe 4 1)).writeBytes 0x4006000 ones })

theorem test_own_row : OwnRow ((grig id).pol .i0) (((grig id).pol .i0).glTable 0) 3 :=
  ⟨by decide +kernel, by decide +kernel, by decide +kernel, by decide +kernel, by decide +kernel, by decide +kernel, by decide +kernel⟩

theorem test_gleaner_free : ((grig id).pol .i0).GleanerFree := ⟨by decide +kernel, by decide +kernel⟩

theorem test_free_slot : FreeSlot ((grig id).pol .i0) (((grig id).pol .i0).glTable 0) :=
  ⟨by decide +kernel, by decide +kernel, by decide +kernel, by decide +kernel⟩

/-- SUM of one bag of one entry into 0x4008000. -/
def sumBody : WideBody := ⟨0, 0, 0, direct 1 10 0x4008000, direct 1 9 0x4004000, direct 1 11 0x4005000, 0x32⟩

def sumOps : WideOps := ops (some (opnd .gran 10 0x4008000)) (some (opnd .gran 9 0x4004000)) (some (opnd .gran 11 0x4005000))

def gatherOps : WideOps := { sumOps with b := none }

def warmOps : WideOps := { sumOps with d := none, b := none }

/-- An update of one row with the list at 0x4006000. -/
def updBody : WideBody := ⟨0, 0, 0, none72, direct 1 9 0x4004000, direct 1 10 0x4006000, 0x32⟩

def updOps : WideOps := ops none (some (opnd .gran 9 0x4004000)) (some (opnd .gran 10 0x4006000))

theorem test_gleaner_operands :
    Operands (grig id) .i0 .i0 sumBody sumOps ∧ Operands (grig id) .i0 .i0 { sumBody with b := none72 } gatherOps ∧
    Operands (grig id) .i0 .i0 { sumBody with d := none72, b := none72 } warmOps ∧ Operands (grig id) .i0 .i0 updBody updOps :=
  ⟨⟨fun _ => rfl, fun x h => by rcases h with h | h | h <;> cases h <;> rfl⟩,
    ⟨fun _ => rfl, fun x h => by rcases h with h | h | h <;> cases h <;> rfl⟩,
    ⟨fun _ => rfl, fun x h => by rcases h with h | h | h <;> cases h <;> rfl⟩,
    ⟨fun _ => rfl, fun x h => by rcases h with h | h | h <;> cases h <;> rfl⟩⟩

theorem test_lookups :
    let s := grig id
    let q := s.pol .i0
    let g := (s.bth .i0 .i0).ownGroup
    let tb := q.glTable 0
    let a := opnd .gran 9 0x4004000
    q.queued .i0 .gleaner < 16 ∧ tb.good = true ∧ q.memctl.errs = [] ∧
    ([(0, sumOps), (1, sumOps), (2, sumOps), (3, sumOps), (0x10, gatherOps), (0x18, warmOps)].all (fun e =>
      decide (q.wideCheck .i0 (glChecks tb e.1 g e.2) (glSixth tb e.1 e.2) = none))) = true ∧
    glEntries ((a.packed (8 * a.sh.e0)).bytesIn g q.mem) = [(3, 0x40000000)] ∧
    (∀ r ∈ (a.packed (8 * a.sh.e0)).runs q g, q.Plain r.1 r.2 false) ∧
    (∀ d ∈ sumOps.d, (∀ r ∈ d.runs q g, q.Plain r.1 r.2 true) ∧ ∀ y ∈ d.elements g, ∀ r ∈ q.rowReads tb 3,
      y + d.size ≤ r.1 ∨ r.1 + r.2 ≤ y) ∧
    (∀ l ∈ sumOps.b, ∀ r ∈ (l.packed (tb.listBytes 0 sumOps.d a.sh.e0)).runs q g, q.Plain r.1 r.2 false) ∧
    ([Instr.gleanSum .i0 .i0 sumBody, .gleanMean .i0 .i0 sumBody, .gleanMax .i0 .i0 sumBody, .wsum .i0 .i0 sumBody,
        .gather .i0 .i0 { sumBody with b := none72 }, .warm .i0 .i0 { sumBody with d := none72, b := none72 }].all (fun i =>
      after (exec i s) (fun t => decide ((t.pol .i0).gleaner.ops.map (fun o => (o.entries, o.rows)) = [([(3, 0x40000000)], [(0, q.rowIn tb 3)])] ∧
        (t.pol .i0).gleaner.ops.map (fun o => (o.fail, o.tally, o.inc)) = [(none, 3, 2)])))) = true := by decide +kernel

theorem test_gleaner_still : ((grig id).pol .i0).noReads := noReads_of (by decide +kernel)

/-- A WSUM of row 3 with the weight 2.0 ends: eight times 2.0. -/
def glOp (func : Nat) : GlOp :=
  ⟨.i0, true, func, 0, [(3, 0x40000000)], [0, 1], [], [(0x4008000, 32)], .fp32,
    [(0, ((List.range 8).flatMap (fun _ => natLe 4 0x3F800000), 0))], [], 0, none, false, 1, 3, 2⟩

theorem test_lookup_report :
    let s := grig (fun q => { q with gleaner := { q.gleaner with ops := [glOp 3] } })
    let q := s.pol .i0
    q.clocks.stopped = false ∧ (glOp 3).dst.map (·.2) = [32] ∧ ((glOp 3).result (q.glTable 0)).length = 32 ∧ q.Plain 0x4008000 32 true ∧
    q.stored (Off.berth 0 + 0x1C) % 2 = 0 ∧
    after (exec (.gleanReport .i0 .i0 0 0) s) (fun t => decide ((t.pol .i0).gleaner.ops = [] ∧ (t.pol .i0).mem.readBytes 0x4008000 32 =
      (List.range 8).flatMap (fun _ => natLe 4 0x40000000) ∧ (t.bth .i0 .i0).tallies = (List.replicate 16 0).set 3 2)) = true := by
  decide +kernel

/-- 1.0 + 1.0, 1.0 + 2.0 × 1.0, and a row of 1.0 assigned. -/
theorem test_updates :
    let s := grig id
    let q := s.pol .i0
    let g := (s.bth .i0 .i0).ownGroup
    let tb := q.glTable 0
    let l := opnd .gran 10 0x4006000
    tb.valid = true ∧ 0 < tb.publish ∧ tb.scaled = false ∧ (opnd .gran 9 0x4004000).sh.e0 = 1 ∧
    ([0x20, 0x21, 0x22].all (fun f => decide (q.wideCheck .i0 (glChecks tb f g updOps) (glSixth tb f updOps) = none ∧
      ∀ r ∈ (l.packed (tb.payBytes f)).runs q g, q.Plain r.1 r.2 false))) = true ∧
    ([(Instr.assign .i0 .i0 updBody, 0x3F800000), (.gleanAdd .i0 .i0 updBody, 0x40000000), (.axpy .i0 .i0 updBody, 0x40400000)].all (fun e =>
      after (exec e.1 s) (fun t => decide ((t.pol .i0).mem.readBytes 0x4020000 36 =
        (List.range 8).flatMap (fun _ => natLe 4 e.2) ++ natLe 4 0 ∧ (t.pol .i0).gleaner.slots = [⟨0, 3, 3, 0, false⟩] ∧
        (t.pol .i0).gleaner.ops.length = 1)))) = true := by decide +kernel

/-! ## Gleaner frames -/

/-- A DATA frame from address 1 of the own grid to address 0, with no deadline, of the operation code `op`. -/
def fr (op : Nat) (pay : List Byte) : Frame :=
  ⟨2, 1, false, false, false, 1, 1, 0, 0, 0, 9, 0, BitVec.ofNat 32 (256 + op), 5, 2, 0, pay⟩

def hrd (f : Frame) : Heard := ⟨true, 0, f, 0, 5, 2, 77, false⟩

/-- The frame is the next that the row sluice has received, from a member of the roster. -/
def inboxed (h : Heard) (q : Polder) : Polder :=
  { q with
    sluices := q.sluices.set .r { q.sluices.get .r with inbox := [h] }
    lock := { q.lock with roster := [0, 1] } }

theorem next_of {q : Polder} {sd : Side} {h : Heard} {rest : List Heard}
    (hb : (q.boot = .opened ∨ q.boot = .run) ∧ q.clocks.stopped = false ∧ (q.sluices.get sd).inbox = h :: rest ∧
      staleAt h.frame.tide h.frame.opinfo q.wharf.tide = false ∧ q.inRoster h.frame.src h.frame.sgrid = true ∧
      (q.clocks.safe = false ∧ q.memctl.held = Duo.const false) ∧ q.memctl.down = ⟨false, false⟩ ∧ q.memctl.errs = [] ∧
      (∀ x ∈ q.lock.sets, staleAt x.tide x.opinfo q.wharf.tide = false) ∧ (q.rxFrame h.frame).base = h.frame.seq ∧ (q.rxFrame h.frame).bitmap = 0 ∧ h.frame.opinfo.getLsbD 9 = false) :
    NextFrame q sd h rest :=
  let ⟨b, r, i, f, m, p, d, e, x, n⟩ := hb
  ⟨b, r, i, f, m, ⟨serves_of p, d, e⟩, x, n⟩

/-- The row of eight 1.0 with its scale and four bytes of padding, and its entry. -/
def assigned : List Byte := (List.range 8).flatMap (fun _ => natLe 4 0x3F800000) ++ natLe 4 0 ++ zeros 4

def glupdFrame : Heard := hrd (fr 6 (segHeader 0 0 0x2000 ++ (natLe 4 3 ++ natLe 4 0 ++ assigned)))

theorem test_glupd_next : NextFrame ((grig (inboxed glupdFrame)).pol .i0) .r glupdFrame [] := next_of (by decide +kernel)

theorem test_glupd :
    let s := grig (inboxed glupdFrame)
    let q := s.pol .i0
    let f := glupdFrame.frame
    q.glFrame f = true ∧ frameOp f = 6 ∧ segRaddr f = 0 ∧ (segTag f).toNat = (q.glTable 0).t + 256 * 0x20 ∧
    segData f = natLe 4 3 ++ natLe 4 0 ++ assigned ∧ assigned.length = (q.glTable 0).rowBytes + 8 ∧
    after (exec (.glupd .i0 .r) s) (fun t => decide ((t.pol .i0).mem.readBytes 0x4020000 36 = assigned.take 36 ∧
      (t.pol .i0).gleaner.slots = [⟨0, 3, 3, 0, false⟩] ∧ ((t.pol .i0).sluices.get .r).inbox = [] ∧
      ((t.pol .i0).rxFrame f).base = 1 ∧ ((t.pol .i0).rxFrame f).due = some 77)) = true := by decide +kernel

theorem test_committing :
    let s := grig (fun q => { q with
      mem := q.mem.writeBytes 0x4020000 (List.replicate 36 7), gleaner := { q.gleaner with slots := [⟨0, 3, 3, 0, true⟩] } })
    let q := s.pol .i0
    q.Plain 0x4020000 36 false ∧ q.Plain (0x4010000 + 96) 32 true ∧
    after (exec (.committingDone .i0) s) (fun t => decide ((t.pol .i0).gleaner.slots = [] ∧
      (t.pol .i0).mem.readBytes (0x4010000 + 96) 33 = List.replicate 32 7 ++ [0])) = true := by decide +kernel

def glreqFrame : Heard := hrd (fr 4 (segHeader 0 0 0 ++ natLe 4 3))

theorem test_glreq_next : NextFrame ((grig (inboxed glreqFrame)).pol .i0) .r glreqFrame [] ∧
    OwnRow ((grig (inboxed glreqFrame)).pol .i0) (((grig (inboxed glreqFrame)).pol .i0).glTable 0) 3 :=
  ⟨next_of (by decide +kernel), by decide +kernel, by decide +kernel, by decide +kernel, by decide +kernel, by decide +kernel, by decide +kernel, by decide +kernel⟩

theorem test_glreq :
    let s := grig (inboxed glreqFrame)
    let q := s.pol .i0
    let f := glreqFrame.frame
    q.glFrame f = true ∧ (q.glTable 0).rowBytes + 4 ≤ 1008 ∧ (segTag f).toNat % 64 = 0 ∧ f.sgrid = q.grid ∧ f.src ≠ q.addr ∧
    after (exec (.glreq .i0 .r) s) (fun t => decide (((t.pol .i0).txOf 1 0 0).frames.map (fun x => (x.frame.payload, frameOp x.frame)) =
      [(segHeader 0 0 0 ++ (List.range 8).flatMap (fun _ => natLe 4 0x3F800000) ++ natLe 4 0, 5)])) = true := by decide +kernel

def glrowFrame : Heard := hrd (fr 5 (segHeader 0 40 0 ++ List.replicate 36 7))

/-- A lookup that waits for entry 0 from address 1, asked for in its frame 40. -/
def waiting : GlOp := { glOp 3 with rows := [], waits := [⟨1, 40, [0], []⟩] }

/-- No cache. -/
def glrowed (q : Polder) : Polder :=
  reg (Off.gleaner + 4) 0 { inboxed glrowFrame q with gleaner := { q.gleaner with ops := [waiting] } }

theorem test_glrow_next : NextFrame ((grig glrowed).pol .i0) .r glrowFrame [] := next_of (by decide +kernel)

theorem test_glrow :
    let s := grig glrowed
    let f := glrowFrame.frame
    waiting.waits = [⟨f.sgrid ++ f.src, segRnote f, [0], []⟩] ∧ (segData f).length = ((s.pol .i0).glTable 0).rowBytes + 4 ∧
    bitOf ((s.pol .i0).stored (Off.gleaner + 4)) 4 = false ∧
    after (exec (.glrow .i0 .r) s) (fun t => decide ((t.pol .i0).gleaner.ops.map (·.waits) = [[]] ∧
      (t.pol .i0).gleaner.ops.map (·.rows) = [[(0, (List.replicate 32 7, 0x07070707))]])) = true := by decide +kernel

/-! ## The Ledger -/

/-- One layer, one head, one KV head of bf16, HEAD_DIM 16, pages of 16 tokens, 4 a layer; 8 pages at 0x4100000, 4 sequences at 0x4080000,
page tables at 0x4090000, SCALE 0.25, TRAIN. -/
def geomed (q : Polder) : Polder :=
  let o := Off.ledger
  reg (o + 4) 1 (reg (o + 8) 0x010101 (reg (o + 0xC) 16 (reg (o + 0x10) 0x404 (reg (o + 0x14) 0x3E800000 (reg (o + 0x18) 0x4100000
    (reg (o + 0x20) 8 (reg (o + 0x24) 4 (reg (o + 0x28) 0x4080000 (reg (o + 0x30) 0x4090000 (reg (o + 0x40) 0x10000 q))))))))))

def ctlBytes (seq pos n : Nat) : List Byte :=
  natLe 2 seq ++ [0, 0] ++ natLe 4 pos ++ natLe 4 n ++ [3, 5, 0, 0] ++ natLe 4 0 ++ natLe 4 0 ++ natLe 8 0x400A000 ++ natLe 8 0x400B000 ++
    natLe 8 0x400C000 ++ natLe 8 0x400D000 ++ zeros 8

/-- Sequence 1 is RESIDENT with one token, whose key is sixteen times 1.0 and whose value is sixteen times 2.0; sequence 2 is FREE. The block
at 0x4003000, queries and tokens of sixteen times 1.0 at 0x4004000. -/
def lrig (ctl : List Byte) (f : Polder → Polder) : State :=
  let ones := (List.range 16).flatMap (fun _ => natLe 2 0x3F80)
  let twos := (List.range 16).flatMap (fun _ => natLe 2 0x4000)
  wrig (fun q => f { geomed q with
    ledger := { q.ledger with used := [1] }
    mem := (((((q.mem.writeBytes 0x4080020 (LgSeq.bytes ⟨1, 0, 0, 1, 0, 1, 4⟩)).writeBytes 0x4090010 (natLe 4 1)).writeBytes 0x4100000
      ones).writeBytes 0x4100200 twos).writeBytes 0x4003000 ctl).writeBytes 0x4004000 (ones ++ twos) })

def lgB : Operand := opnd .gran 9 0x4003000

def lgOps (func : Nat) : WideOps :=
  if func = 0 then ops none (some (opnd .gran 4 0x4004000)) (some lgB)
  else if func < 3 then ops (some (opnd .gran 12 0x4008000)) (some (opnd .gran 13 0x4004000)) (some lgB)
  else ops none none (some lgB)

def lgBody (func : Nat) : WideBody :=
  let b := direct 1 9 0x4003000
  if func = 0 then ⟨0, 0, 0, none72, direct 1 4 0x4004000, b, 0x32⟩
  else if func < 3 then ⟨0, 0, 0, direct 1 12 0x4008000, direct 1 13 0x4004000, b, 0x32⟩
  else ⟨0, 0, 0, none72, none72, b, 0x32⟩

/-- The block of a function: APPEND puts token 1, OPEN opens sequence 2, the others use token 0 of sequence 1. -/
def lgCtl (func : Nat) : List Byte := if func = 0 then ctlBytes 1 1 1 else if func = 0x10 then ctlBytes 2 0 1 else ctlBytes 1 0 1

/-- The operation that enters, as it runs. -/
def lgOpOf (func : Nat) : LgOp :=
  let q := (lrig (lgCtl func) id).pol .i0
  let o := lgOps func
  let g : Group := ⟨32, 8⟩
  let el (x : Option Operand) : Elem := match x with | some y => y.elem | none => .fp32
  let sh (x : Option Operand) : Nat × Nat := match x with | some y => y.rowShape | none => (0, 0)
  let src := match o.a with | some y => y.runs q g | none => []
  let by_ := match o.a with | some y => y.bytesIn g q.mem | none => []
  let ctl := LgCtl.parse (lgCtl func)
  let dst := match o.d with | some y => y.runs q g | none => []
  ⟨.i0, false, func, ctl, src, by_, by_, el o.a, sh o.a, dst, el o.d, sh o.d, if func = 2 then [(0x400B000, 64)] else [],
    if func = 2 then [(0x400C000, 64)] else [], if func = 2 then zeros 128 else [], if func = 0 then [(0x4100020, 480), (0x4100220, 480)] else [],
    .running, 3, 2⟩

theorem test_ledger_operands : ∀ f ∈ [0, 1, 2, 0x10, 0x11, 0x12], Operands (lrig (lgCtl f) id) .i0 .i0 (lgBody f) (lgOps f) := by
  intro f hf
  simp only [List.mem_cons, List.not_mem_nil, or_false] at hf
  rcases hf with rfl | rfl | rfl | rfl | rfl | rfl <;>
    exact ⟨fun _ => rfl, fun x h => by rcases h with h | h | h <;> cases h <;> rfl⟩

theorem lgReady_of {q : Polder} {o : LgOp}
    (h : (o.ctl.seq < q.lgGeom.seqs ∧ (o.func ≤ 2 → o.ctl.layer < q.lgGeom.nl)) ∧
      (q.Owned (q.lgGeom.seqAt o.ctl.seq) 32 ∧ ∀ i < q.lgGeom.entries, q.Owned (q.lgGeom.entryAt o.ctl.seq i) 4) ∧
      (q.lgSeq o.ctl.seq).state = (if o.func = 0x10 then 0 else 1) ∧
      (∀ i < q.lgGeom.entries, inHost (q.lgEntry o.ctl.seq i) = false) ∧
      (lgCause q.lgGeom (q.lgSeq o.ctl.seq) o = none ∧ q.lgViolation q.lgGeom (q.lgSeq o.ctl.seq) o = none) ∧
      (o.func = 0 → (∀ n < q.lgGeom.pages + 1, 1 ≤ n → q.Plain (q.lgGeom.pageAt n) q.lgGeom.pageBytes true) ∧
        ∀ r ∈ q.lgTargets q.lgGeom (q.lgSeq o.ctl.seq) o.ctl, q.Plain r.1 q.lgGeom.kvBytes true ∧ q.Plain r.2 q.lgGeom.kvBytes true) ∧
      (o.func = 1 → bitOf o.ctl.cflags.toNat 0 = true → q.Plain o.ctl.stats (lgStats q.lgGeom o.ctl).2 true) ∧
      (o.func = 2 → ∀ r ∈ lgGradRuns q.lgGeom (q.lgSeq o.ctl.seq) o.ctl, q.Plain r.1 r.2 true)) : LgReady q o :=
  let ⟨n, w, s, r, c, p, t, g⟩ := h
  ⟨n, w, s, r, c, fun z => ⟨fun i a b => (p z).1 i (Nat.lt_succ_of_le b) a, (p z).2⟩, t, g⟩

theorem test_ledger_ready : ∀ f ∈ [0, 1, 2, 0x10, 0x11, 0x12], LgReady ((lrig (lgCtl f) id).pol .i0) (lgOpOf f) := by
  intro f hf
  simp only [List.mem_cons, List.not_mem_nil, or_false] at hf
  rcases hf with rfl | rfl | rfl | rfl | rfl | rfl <;> exact lgReady_of (by decide +kernel)

theorem test_ledger_starts :
    [(Instr.append .i0 .i0 (lgBody 0), 0), (.attend .i0 .i0 (lgBody 1), 1), (.backward .i0 .i0 (lgBody 2), 2), (.ledgOpen .i0 .i0 (lgBody 16), 0x10),
      (.ledgClose .i0 .i0 (lgBody 17), 0x11), (.ledgFetch .i0 .i0 (lgBody 18), 0x12)].all (fun e =>
      let s := lrig (lgCtl e.2) id
      let q := s.pol .i0
      let g := (s.bth .i0 .i0).ownGroup
      let o := lgOps e.2
      let op := lgOpOf e.2
      decide (q.queued .i0 .ledger < 16 ∧ q.wideCheck .i0 (lgChecks g o) (wantShape (lgShape e.2 o)) = none ∧ q.lgGeom.good = true ∧
        (∀ r ∈ (lgB.packed 64).runs q g, q.Plain r.1 r.2 false) ∧ (∀ a ∈ o.a, a.mode ≠ .indexed ∧ ∀ r ∈ a.runs q g, q.Plain r.1 r.2 false) ∧
        op.ctl = LgCtl.parse ((lgB.packed 64).bytesIn g q.mem) ∧ q.lgWants op = 0 ∧
        (∀ d ∈ o.d, op.dst = d.runs q g ∧ op.dShape = d.rowShape ∧ (∀ r ∈ op.dst, q.Plain r.1 r.2 true ∧
          Apart [r, (q.lgGeom.seqAt op.ctl.seq, 32)] ∧ Apart [r, (q.lgGeom.entryAt op.ctl.seq 0, 4 * q.lgGeom.entries)]) ∧
          (e.2 = 2 → op.oRuns = joinRuns q (d.laidOut g op.ctl.oAddr op.ofmt.size) ∧
            op.doRuns = joinRuns q (d.laidOut g op.ctl.doAddr op.ofmt.size)))) &&
      after (exec e.1 s) (fun t => decide ((t.pol .i0).ledger.ops = [op] ∧ ((t.pol .i0).lgSeq op.ctl.seq).tide = 9))) = true := by
  decide +kernel

/-- The Ledger holds that one operation, running. -/
def reporting (func : Nat) (f : Polder → Polder) : State :=
  lrig (lgCtl func) (fun q => f { q with ledger := { q.ledger with ops := [lgOpOf func] } })

theorem test_ledger_reports :
    [0, 1, 0x10, 0x11, 0x12].all (fun e =>
      let s := reporting e id
      let q := s.pol .i0
      let op := lgOpOf e
      let k := 0x4100000 + 32 * op.ctl.pos
      decide (q.clocks.stopped = false ∧ q.ledger.swaps = [] ∧ q.stored (Off.berth 0 + 0x1C) % 2 = 0 ∧ (s.bth .i0 .i0).phase = .running ∧
        q.Owned (q.lgGeom.seqAt op.ctl.seq) 32 ∧ (s.dom .i0).changed .i0 false op.src op.snap = false ∧ q.Unheld .i0 ∧
        (e = 0 → op.ctl.n = 1 ∧ op.a.length = 2 * q.lgGeom.kvBytes ∧
          q.lgToken q.lgGeom (q.lgSeq op.ctl.seq) op.ctl.seq op.ctl.layer op.ctl.pos = some (k, k + 512) ∧ q.Plain k 32 true ∧
          q.Plain (k + 512) 32 true ∧ Apart [(q.lgGeom.seqAt 1, 32), (k, 32), (k + 512, 32)]) ∧
        (e = 0x11 → Apart [(q.lgGeom.seqAt 1, 32), (q.lgGeom.entryAt 1 0, 4 * q.lgGeom.entries)] ∧
          ∀ i < q.lgGeom.entries, q.Owned (q.lgGeom.entryAt 1 i) 4)) &&
      after (exec (.ledgReport .i0 .i0 0 0) s) (fun t => decide ((t.pol .i0).ledger.ops = [] ∧
        (t.bth .i0 .i0).tallies = (List.replicate 16 0).set 3 2 ∧
        (e = 0 → (t.pol .i0).mem.readBytes k 32 = op.a.take 32 ∧ (t.pol .i0).mem.readBytes (k + 512) 32 = op.a.drop 32 ∧
          ((t.pol .i0).lgSeq 1).len = 2) ∧
        (e = 0x10 → (t.pol .i0).lgSeq 2 = ⟨1, 3, 0, 0, 0, 0, 0⟩) ∧
        (e = 0x11 → ((t.pol .i0).lgSeq 1).state = 0 ∧ (t.pol .i0).lgEntry 1 0 = 0) ∧
        (e = 0x12 → (t.pol .i0).mem = q.mem)))) = true := by decide +kernel

theorem test_readable : ((lrig (lgCtl 1) id).pol .i0).lgReadable (lgOpOf 1) 0 :=
  ⟨by decide +kernel, 0x4100000, 0x4100200, by decide +kernel, by decide +kernel, by decide +kernel⟩

/-- One key: its value is what every query attends to. -/
theorem test_attend :
    let s := reporting 1 id
    let q := s.pol .i0
    let op := lgOpOf 1
    bitOf op.ctl.cflags.toNat 0 = false ∧ lgSpan op.ctl (q.lgSeq 1) = (0, 1) ∧ (∀ r ∈ op.dst, q.Plain r.1 r.2 true) ∧ Apart op.dst ∧
    (op.dst.map (·.2)).sum = 64 ∧ (wordsOf op.aElem op.a).length = 16 := by decide +kernel

theorem test_backward :
    let s := reporting 2 id
    let q := s.pol .i0
    let op := lgOpOf 2
    let c := op.ctl
    c.n = 1 ∧ (q.lgSeq 1).windowed = false ∧ c.keyFrom = c.pos ∧ Apart (op.dst ++ [(c.grad, 128)]) ∧ (op.dst.map (·.2)).sum = 64 ∧
    (∀ r ∈ op.dst, q.Plain r.1 r.2 true) ∧ q.Plain c.stats 8 false ∧ q.Plain c.oAddr 64 false ∧ q.Plain c.doAddr 64 false ∧
    q.Plain c.grad 128 false ∧ q.Plain c.grad 128 true ∧ lgSpan c (q.lgSeq 1) = (0, 1) ∧ op.ofmt = .fp32 ∧
    after (exec (.ledgReport .i0 .i0 0 0) s) (fun t => decide ((t.pol .i0).ledger.ops = [])) = true := by decide +kernel

/-- A first token on a page of its own waits for it. -/
def pageOp : LgOp := { lgOpOf 0 with ctl := { (lgOpOf 0).ctl with seq := 3, pos := 0 }, wait := .pages 1, spill := [] }

def paging : State :=
  lrig (lgCtl 0) (fun q => { q with
    mem := q.mem.writeBytes 0x4080060 (LgSeq.bytes ⟨1, 0, 0, 0, 0, 0, 4⟩), ledger := { q.ledger with built := true, ops := [pageOp] } })

theorem test_page_ready : LgReady (paging.pol .i0) pageOp := lgReady_of (by decide +kernel)

theorem test_pagewait :
    1 ≤ (paging.pol .i0).freePages ∧ (paging.pol .i0).lgWants pageOp = 1 ∧
    after (exec (.pagewait .i0) paging) (fun t => decide (
      (t.pol .i0).ledger.ops = [{ pageOp with wait := .running, spill := [(0x4100400, 512), (0x4100600, 512)] }] ∧
      (t.pol .i0).ledger.used = [2, 1] ∧ (t.pol .i0).lgEntry 3 0 = 2)) = true := by decide +kernel

/-- Sequence 1 swaps its page 1, entry 0, with page 0 of its host slot; aperture 0 reaches the host at 0x50000000. -/
def swapping (outw : Bool) : State :=
  lrig [] (fun q =>
    let o := Off.ledger
    let q1 := reg (o + 0x38) 0 (reg (o + 0x3C) 0x8000 q)
    let a := Off.aperture 0
    let q2 := reg a 0 (reg (a + 4) 0x8000 (reg (a + 8) 0xFFFFFF (reg (a + 0xC) 0x8000 (reg (a + 0x10) 0x50000000 (reg (a + 0x18) 7 q1)))))
    { q2 with ledger := { q2.ledger with swaps := [⟨1, outw, [⟨0, 1, 0⟩], []⟩] } })

theorem test_swap_hyps :
    let q := (swapping true).pol .i0
    q.ledger.ops = [] ∧ q.memctl.errs = [] ∧ q.Owned (q.lgGeom.seqAt 1) 32 ∧ q.Owned (q.lgGeom.entryAt 1 0) 4 ∧ q.ledger.victims = [] ∧
    Apart [(q.lgGeom.seqAt 1, 32), (q.lgGeom.entryAt 1 0, 4), (0x4100000, 1024)] ∧ q.lgGeom.pageAt 1 = 0x4100000 ∧
    q.lgGeom.pageBytes = 1024 ∧ q.Plain 0x4100000 1024 false ∧ q.Plain 0x4100000 1024 true ∧
    q.hostAddr (q.lgGeom.hostAt 1 0) 1024 true = some 0x50010000 ∧ q.hostAddr (q.lgGeom.hostAt 1 0) 1024 false = some 0x50010000 ∧
    ((swapping true).dom .i0).hostUp = true := by decide +kernel

/-! ## Memory -/

/-- Memory care: `f` of the controller. -/
def memd (f : MemCtl → MemCtl) : State := die (fun q => { q with memctl := f q.memctl })

theorem test_gran_scrub :
    let s := memd (fun m => { m with denied := [(40, 63)], scrubLine := [(40, 7)] })
    let z := memd (fun m => { m with errs := [(40 * 0x200000, 1)], back := [40 * 0x200000] })
    (s.pol .i0).scrubs = true ∧ (s.pol .i0).memctl.errs = [] ∧ (s.pol .i0).memctl.back = [] ∧
    after (exec (.maintenanceAccess .i0 40 true false 0) (memd id)) (fun t => decide (t =
      memd (fun m => { m with denied := Store.insert m.denied 40 1 }))) = true ∧
    ([Instr.maintenanceAccess .i0 40 false false 1, .maintenanceAccess .i0 40 true true 1, .granScrubTakeover .i0 40 1].all (fun i =>
      after (exec i s) (fun t => decide (Store.getD (t.pol .i0).memctl.scrubLine 40 0 = 8 ∧ Store.getD (t.pol .i0).memctl.denied 40 0 = 0 ∧
        (t.pol .i0).memctl.errs = [(40 * 0x200000 + 448, 1)] ∧ (t.pol .i0).memctl.granCeAddr = 40 * 0x200000 + 448 ∧
        (t.pol .i0).memctl.back = [40 * 0x200000 + 448])))) = true ∧
    after (exec (.granScrubTakeover .i0 40 2) s) (fun t => decide ((t.pol .i0).memctl.ueValid = true ∧
      (t.pol .i0).memctl.ueAddr = 40 * 0x200000 + 448)) = true ∧
    after (exec (.maintenanceAccess .i0 40 false false 0) z) (fun t => decide ((t.pol .i0).memctl.errs = [] ∧
      (t.pol .i0).memctl.back = [])) = true := by decide +kernel

theorem test_patrol :
    let s := die (fun q => reg Off.hbmCfg 1 { q with memctl := { q.memctl with up := ⟨true, true⟩ } })
    let q := s.pol .i0
    bitOf (q.stored Off.hbmCfg) 0 = true ∧ q.stackServes .z = true ∧ q.stackServes .o = true ∧ q.memctl.down = ⟨false, false⟩ ∧
    q.clocks.safe = false ∧ q.memctl.held = Duo.const false ∧
    after (exec (.scrubForced .i0 .o (.patrol 1)) s) (fun t => decide ((t.pol .i0).memctl.errs = [(0x100000100, 1)] ∧
      (t.pol .i0).memctl.patrolPos.at .o = 1 ∧ (t.pol .i0).counter (Off.memCount 6) = 1 ∧
      bitOf ((t.pol .i0).stored Off.memSticky) 6 = true)) = true ∧
    after (exec (.scrubForced .i0 .o (.telemetry 85)) s) (fun t => decide ((t.pol .i0).memctl.doubled = ⟨false, true⟩ ∧
      (t.pol .i0).memctl.patrolPos = q.memctl.patrolPos ∧ (t.pol .i0).counter (Off.memCount 6) = 1)) = true ∧
    after (exec (.hbmTelemetryRead .i0 ⟨84, 95⟩) s) (fun t => decide ((t.pol .i0).memctl.doubled = ⟨false, true⟩ ∧
      bitOf ((t.pol .i0).stored Off.memSticky) 7 = true)) = true ∧
    after (exec (.hbmParity .i0 .z 16) s) (fun t => decide ((t.pol .i0).counter (Off.memCount 9) = 16 ∧
      (t.pol .i0).memctl.held = ⟨true, false⟩ ∧ (t.pol .i0).counter (Off.memCount 8) = 1)) = true ∧
    after (exec (.hbmPllUnlock .i0 .o) s) (fun t => decide ((t.pol .i0).memctl.held = ⟨false, true⟩ ∧
      bitOf ((t.pol .i0).stored Off.clkSticky) 5 = true)) = true := by decide +kernel

theorem test_retrain :
    let s (fails : List Nat) : State := die (fun q => { q with
      memctl := { q.memctl with up := ⟨true, true⟩, held := ⟨true, false⟩, fails := ⟨fails, []⟩ } })
    after (exec (.hbmRetrainDone .i0 .z true) (s [])) (fun t => decide ((t.pol .i0).memctl.held = ⟨false, false⟩)) = true ∧
    after (exec (.hbmRetrainDone .i0 .z false) (s [])) (fun t => decide ((t.pol .i0).memctl.held = ⟨true, false⟩ ∧
      (t.pol .i0).memctl.down = ⟨false, false⟩)) = true ∧
    after (exec (.hbmRetrainDone .i0 .z false) (s [0, 0])) (fun t => decide ((t.pol .i0).memctl.held = ⟨false, false⟩ ∧
      (t.pol .i0).memctl.down = ⟨true, false⟩ ∧ (t.pol .i0).memctl.up = ⟨false, true⟩ ∧
      bitOf ((t.pol .i0).stored Off.memSticky) 8 = true)) = true := by decide +kernel

/-! ## A Charter image -/

/-- A header of R43: 328 bytes, one record, ROLLBACK 1, every SKU, polder 0, build 0x77. -/
def header : List Byte := natLe 64 0x770001FF01000000010000000800000148000000014843544A

/-- Header, an END record, and a signature block of R44 over them, by the P-384 key 1 with the nonce 2, worked outside this package. -/
def image : List Byte :=
  header ++ natLe 8 0x7FFF ++
  (natLe 104 0x5F0EEA907C1D437A9D817E1DCEB1600AC0B8F0B51331DAE97C149A28BD1DF4F829DC9292BF989E5D6F2C26964ADE1736B70A7672385E543A6C2955BF5DF20255382A5482E041F759989BA78B623B1D6E74AD20F31EC7B18E37058BBE22CA87AA000003844753544A ++
   natLe 152 0xE3EE5325D7BCFD3409384DF59FAA73340DAA53C2AF28DE1327E9CAF39D647C3BBA4ECD2E7816EBB5FEE477F1F1ECF0D461DF9552C7A9965BF8640EBE6EE8E04F9E6EB99FD107D251D634F4A659590289F0975BC545002669D9D2A37B0599D908)

/-- SHA-384 of the public key. -/
def keyHash : BitVec 384 :=
  0x654B811F19E108EAB70600D86AA5F04BFAD296F7D87D69500977A9C8D122AA9478E155E5CFB05280EB82B571B14D9DA1

/-- Polder 0 in a phase of CHARTER, with that key hash. -/
def imaged (ph : CharterPhase) (slotB : Bool) : State :=
  (port ph slotB).onPol .i0 (fun q => { q with
    fuses := { q.fuses with keyHash := keyHash }
    charter := { q.charter with header := header, sfdp := ⟨true, 2 ^ 24, [0], false, true, false⟩ } })

theorem test_header :
    let s := imaged .header false
    let t := (s.pol .i0).target
    t.headerCause (2 ^ 24) header = 0 ∧ (t.mode (s.pol .i0).charter.sfdp header).2.2 = true ∧ t.headerCause (2 ^ 24) (zeros 64) = 2 ∧
    (s.pol .i0).charter.left = none ∧
    after (exec (.charterHeaderRead .i0 header) s) (fun t => decide ((t.pol .i0).charter.phase = .body ∧
      (t.pol .i0).charter.header = header ∧ (t.pol .i0).charter.lanes = 0)) = true ∧
    after (exec (.charterHeaderRead .i0 (zeros 64)) s) (fun t => decide ((t.pol .i0).charter.causeA = 2 ∧
      (t.pol .i0).charter.slotB = true ∧ (t.pol .i0).charter.phase = .sfdp)) = true ∧
    after (exec (.charterHeaderRead .i0 (List.replicate 64 0xFF)) (imaged .header true)) (fun t => decide (
      (t.pol .i0).charter.causeB = 1 ∧ (t.pol .i0).boot = .stranded)) = true := by decide +kernel

theorem test_image : ((imaged .body false).pol .i0).target.imageCause image = 0 := by decide +kernel

theorem test_image_records : (match imageRecs image with
      | .ok l => decide (l = [⟨64, 0x7FFF, 0, []⟩])
      | .error _ => false) = true ∧ imageLen header = 328 ∧ slotBytes none (image.drop 64) 64 264 = image.drop 64 := by decide +kernel

/-- The same with another key hash. -/
theorem test_image_bad_key :
    let s := (imaged .body false).onPol .i0 (fun q => { q with fuses := { q.fuses with keyHash := 0 } })
    (s.pol .i0).target.imageCause image = 5 ∧
    after (exec (.charterBodyRead .i0 ⟨true, image.drop 64⟩) s) (fun t => decide ((t.pol .i0).charter.causeA = 5)) = true := by
  decide +kernel

theorem test_image_applied :
    after (exec (.charterBodyRead .i0 ⟨true, image.drop 64⟩) (imaged .body false)) (fun t => decide ((t.pol .i0).boot = .hbmtrain ∧
      (t.pol .i0).charter.phase = .training ∧ (t.pol .i0).charter.imageLen = 328 ∧ (t.pol .i0).charter.build = 0x77 ∧
      (t.pol .i0).charter.applied = 1 ∧ (t.pol .i0).clocks.relock = .requested)) = true := by decide +kernel

/-! ## Joining -/

/-- Polder 0 in HBMTRAIN, in a phase, its Charter with a ROSTER or not. -/
def training (ph : CharterPhase) (roster : Bool) : State :=
  out.onPol .i0 (fun q => { q with
    boot := .hbmtrain, mem := q.mem.write 0x100000040 5
    charter := { q.charter with lock := false, phase := ph, stackMask := 3, hasRoster := roster, staged := 1, trainOfs := 64 } })

theorem test_training :
    ((training .training false).pol .i0).trains = true ∧
    after (exec (.hbmTrainingDone .i0) (training .training false)) (fun t => decide ((t.pol .i0).charter.phase = .hbmFill ∧
      (t.pol .i0).memctl.up = ⟨true, true⟩)) = true ∧
    after (exec (.hbmTrainingTimeout .i0) (training .training false)) (fun t => decide ((t.pol .i0).boot = .stranded ∧
      (t.pol .i0).charter.failOfs = 64 ∧ (t.pol .i0).charter.causeA = 0xB)) = true ∧
    after (exec (.hbmZeroFillDone .i0) (training .hbmFill true)) (fun t => decide ((t.pol .i0).boot = .basinjoin ∧
      (t.pol .i0).charter.lock = true ∧ (t.pol .i0).mem.read 0x100000040 = 0 ∧ ((t.pol .i0).sluices.get .r).state = .listen ∧
      ((t.pol .i0).sluices.get .c).state = .listen)) = true ∧
    after (exec (.hbmZeroFillDone .i0) (training .hbmFill false)) (fun t => decide ((t.pol .i0).boot = .opened ∧
      (t.pol .i0).alone = true ∧ ((t.pol .i0).clerks.harts.get .i0).started = true)) = true := by decide +kernel

/-- The row sluice of polder 0 changed by `f`. -/
def sluiced (f : Sluice → Sluice) : State := die (fun q => { q with sluices := q.sluices.set .r (f (q.sluices.get .r)) })

def slu (t : State) : Sluice := (t.pol .i0).sluices.get .r

/-- Medium time of slot `k` of superframe 77, at die time 0. -/
def at77 (k : Nat) : Int := (77 * 12288 + 192 * k : Nat)

/-- R104: the delay ends in superframe 77, and no earlier; the REQUEST goes out in the slot that the seed gives. -/
theorem test_join :
    let s (sf : Nat) : State := sluiced (fun x => { x with state := .listen, delay := some sf, medium := at77 4 })
    let slow : State := ((sluiced (fun x => { x with state := .joined })).onPol .i0 (fun q => { q with boot := .basinjoin }))
    let x := slu (s 77)
    x.due = 0 ∧ ((s 77).dom .i0).sfNow .r = 77 ∧ after (exec (.joinDelayExpiry .i0 .r) (s 78)) (fun t => decide (t = s 78)) = true ∧
    after (exec (.joinDelayExpiry .i0 .r) (s 77)) (fun t => decide ((slu t).state = .unranged ∧ (slu t).delay = none ∧
      (slu t).sent.map (fun z => (z.cont, z.frame.typ, z.frame.slot.toNat, z.sf)) = [(true, 2, (x.seed.extractLsb' 10 2).toNat, 78)])) = true ∧
    after (exec (.joinSlow .i0) slow) (fun t => decide (t = slow)) = true ∧
    after (exec (.joinSlow .i0) (slow.onWarden (fun w => { w with dieTime := 100000000 }))) (fun t =>
      decide ((t.pol .i0).boot = .opened ∧ (t.pol .i0).joinSlow = true)) = true := by decide +kernel

theorem test_warden_load :
    let f : WardenFlash := ⟨Sfdp.reset, ⟨[], ⟨false, []⟩⟩, ⟨[], ⟨false, []⟩⟩⟩
    out.warden.lock = false ∧
    after (exec (.wardenCharterLoad f) out) (fun t => decide (t.warden = { out.warden with
      lock := true, slotB := true, defaults := true, causeA := 1, causeB := 1 })) = true := by decide +kernel

/-! ## The sluices -/

/-- Hears `h` in a sluice changed by `f`. -/
def hears (f : Sluice → Sluice) (h : Heard) (t : State → Bool) : Bool := after (exec (.frameReceive .i0 .r h) (sluiced f)) t

def alive (x : Sluice) : Sluice := { x with state := .joined, ports := [(0, 0), (3, 1)], index := 0, rtt := some 500, medium := at77 5 }

/-- A frame of a type from address 1 in cell (`slot`, 2) of superframe 77, with its tag. -/
def tagged (typ : BitVec 4) (part : Bool) (slot : BitVec 6) (pay : List Byte) : Heard :=
  let f : Frame := { fr 0 pay with typ := typ, part := part, slot := slot, sf := 77 }
  ⟨true, 3, f, ((sluiced alive).pol .i0).tagOf f, slot, 2, 77, false⟩

theorem test_frames_heard :
    let r := tagged 2 false 1 (zeros 8)
    let u := tagged 4 true 2 [1, 2, 3, 4]
    let sticky (t : State) (n : Nat) : Bool := bitOf ((t.pol .i0).stored (Off.sluice .r + 4)) n
    let count (t : State) (n : Nat) : Nat := (t.pol .i0).counter (Off.slCount .r n)
    hears id r (fun t => decide (t = sluiced id)) = true ∧ (slu (sluiced id)).state = .dark ∧
    hears alive { r with clean := false } (fun t => decide (slu t = alive (slu out) ∧ count t 1 = 1 ∧ sticky t 3 = true)) = true ∧
    hears alive { r with frame := { r.frame with xmit := 9 } } (fun t => decide ((slu t).stranger = 9 ∧ count t 3 = 1 ∧
      sticky t 2 = true)) = true ∧
    hears alive { r with slot := 2 } (fun t => decide ((slu t).stranger = 1 ∧ count t 3 = 1)) = true ∧
    hears alive r (fun t => decide ((slu t).inbox = [r] ∧ count t 2 = 3)) = true ∧
    hears alive (tagged 2 false 4 (zeros 8)) (fun t => decide ((slu t).inbox = [] ∧ (slu t).trespass = 0x02040001 ∧ count t 5 = 1 ∧
      sticky t 1 = true)) = true ∧
    hears alive u (fun t => decide ((slu t).inbox = [u] ∧ (t.pol .i0).counter (Off.xfCount .r 1) = 1)) = true := by decide +kernel

/-- R476: a receive pool of 6 MiB that is full. -/
theorem pool_full_of (n : Nat) (hn : 0x600000 ≤ n) (h : Heard) :
    0x600000 < ([hrd (fr 0 (List.replicate n 0))].map (fun k => frameSize k.frame)).sum + frameSize h.frame := by
  simp only [List.map_cons, List.map_nil, List.sum_cons, List.sum_nil, frameSize, hrd, fr, List.length_replicate]
  omega

theorem test_pool_full : 0x600000 < ([hrd (fr 0 (List.replicate 0x600000 0))].map (fun k => frameSize k.frame)).sum +
    frameSize (tagged 4 true 2 [1, 2, 3, 4]).frame := pool_full_of _ (Nat.le_refl _) _

/-- A beacon of master 5 that gives indices 2 and 3 to addresses `a` and 5, of generation 7, root 6, 4 hops, map for superframe 88. -/
def beaconOf (basin : Nat) (a : BitVec 12) : Heard :=
  hrd { fr 0 (beaconBytes 1000 5 6 4 0 0 7 basin [(2, a), (3, 5)] ⟨88, List.replicate 944 2⟩) with typ := 3 }

def boxed (h : Heard) (f : Sluice → Sluice) : State := sluiced (fun x => { f x with inbox := [h] })

theorem test_beacons :
    let run (st : SlState) (h : Heard) (t : State → Bool) : Bool := after (exec (.beacon .i0 .r) (boxed h (fun x => { x with state := st }))) t
    ((out.pol .i0).basinByte .r = 0) ∧
    run .listen (beaconOf 1 0) (fun t => decide (slu t = { slu out with state := .listen } ∧
      bitOf ((t.pol .i0).stored (Off.sluice .r + 4)) 5 = true)) = true ∧
    run .listen (beaconOf 0 0) (fun t => decide ((slu t).ports = [(2, 0), (3, 5)] ∧ (slu t).delay.isSome = true ∧ (slu t).masterAddr = 5 ∧
      (slu t).root = 6 ∧ (slu t).hops = 4 ∧ (slu t).gen = 7 ∧ (slu t).mapNext.map (·.sf) = some 88)) = true ∧
    run .unranged (beaconOf 0 0) (fun t => decide ((slu t).state = .joined ∧ (slu t).index = 2)) = true ∧
    run .unranged (beaconOf 0 9) (fun t => decide ((slu t).state = .unranged)) = true ∧
    run .joined (beaconOf 0 0) (fun t => decide ((slu t).state = .joined ∧ (slu t).index = 2)) = true ∧
    run .joined (beaconOf 0 9) (fun t => decide ((slu t).state = .listen ∧ (slu t).rtt = none)) = true ∧
    run .candidate (beaconOf 0 0) (fun t => decide ((slu t).state = .joined ∧ (slu t).index = 2)) = true := by decide +kernel

/-- A REQUEST of address 1 for `d` cells a superframe, in both generations. -/
def requestOf (d : Nat) : Heard := hrd { fr 0 (natLe 2 d ++ [3, 0, 0, 0, 0, 0]) with typ := 2 }

theorem test_requests :
    let run (m : Bool) (ports : Store (BitVec 12)) (d : Nat) (t : Sluice → Bool) : Bool :=
      after (exec (.request .i0 .r) (boxed (requestOf d) (fun x => { x with state := .joined, master := m, ports := ports }))) (fun s => t (slu s))
    run false [(0, 0)] 9 (fun y => decide (y.ports = [(0, 0)] ∧ y.ask 1 = ⟨9, true, true⟩ ∧ y.inbox = [])) = true ∧
    run true [(0, 0)] 9 (fun y => decide (y.ports = [(0, 0), (1, 1)])) = true ∧
    run true [(0, 0), (2, 1)] 9 (fun y => decide (y.ports = [(0, 0), (2, 1)])) = true ∧
    run true [(0, 0), (2, 1)] 0 (fun y => decide (y.ports = [(0, 0)])) = true := by decide +kernel

def sentOf (f : Frame) (cont : Bool) (ring : Option (BitVec 4)) : Sent := ⟨f, 0, cont, ring, 70, false, 0⟩

/-- The port waits for the echo of `z`, the first of its contention frames in play. -/
def awaiting (z : Sent) (f : Sluice → Sluice) : State :=
  sluiced (fun x => f { alive x with sent := [z], contQ := [fr 0 []], coll := 2, backoff := some 77 })

theorem test_contention :
    let s1 := awaiting (sentOf { fr 0 [] with typ := 5 } false (some 6)) (fun x => { x with due := 0x41 })
    let s2 := awaiting (sentOf (fr 0 []) true none) id
    let s3 := awaiting (sentOf { fr 0 [] with typ := 3 } false none) (fun x => { x with state := .candidate })
    let seen : List EchoLog := [⟨70, true, false, false⟩]
    after (exec (.echo .i0 .r ⟨true, false, 600⟩) s1) (fun t => decide (slu t = { slu s1 with
      sent := [], rtt := some 600, due := 1, echoes := seen, calAt := [(6, 0)] })) = true ∧
    after (exec (.echo .i0 .r ⟨true, false, 600⟩) s3) (fun t => decide ((slu t).state = .joined ∧ (slu t).master = true ∧
      (slu t).rtt = some 600 ∧ (slu t).lastSf = 70)) = true ∧
    after (exec (.echo .i0 .r ⟨true, false, 600⟩) s2) (fun t => decide (slu t = { slu s2 with
      sent := [], rtt := some 600, contQ := [], coll := 0, backoff := none, echoes := seen })) = true ∧
    after (exec (.echo .i0 .r ⟨false, false, 600⟩) s2) (fun t => decide ((slu t).coll = 3 ∧ (slu t).sent = [] ∧ (slu t).rtt = some 500 ∧
      72 ≤ (slu t).backoff.getD 0 ∧ (slu t).backoff.getD 0 ≤ 79 ∧ (t.pol .i0).counter (Off.slCount .r 0) = 1)) = true := by decide +kernel

/-- R431: the wait ends in superframe 77, and no earlier. -/
theorem test_backoff :
    let s (sf : Nat) : State := sluiced (fun x => { alive x with backoff := some sf, contQ := [fr 0 []] })
    after (exec (.backoffExpiry .i0 .r) (s 78)) (fun t => decide (t = s 78)) = true ∧
    after (exec (.backoffExpiry .i0 .r) (s 77)) (fun t => decide ((slu t).backoff = none ∧ (slu t).contQ.length = 1 ∧
      (slu t).sent.map (fun z => (z.cont, z.frame.xmit, z.frame.wave, z.frame.slot.toNat)) =
        [(true, 0, (slu (s 77)).contWave, (slu (s 77)).contSlot.toNat)])) = true := by decide +kernel

def lastMap : BasinMap := ⟨88, List.replicate 944 3⟩

/-- The sluice in slot `k` of superframe 77. -/
def atSlot (k : Nat) (f : Sluice → Sluice) : State := sluiced (fun x => f { alive x with medium := at77 k })

theorem test_candidate :
    let s := atSlot 4 (fun x => { x with state := .candidate, mapNext := some lastMap, lastSf := 73 })
    let h (sf : Nat) : State := atSlot 5 (fun x => { x with lastSf := sf })
    (s.pol .i0).position .r = 0 ∧ (s.dom .i0).slotNow .r = 4 ∧ (slu s).canDrive (slotNo 77 4) 0 = true ∧
    after (exec (.candidateBeacon .i0 .r 77) s) (fun t => decide ((slu t).sent.map (fun z => (z.frame.wave.toNat, z.sf, z.b2, z.frame.payload.length)) =
      [(0, 77, false, 1024), (8, 77, false, 1024)] ∧ (slu t).mapNext = some ⟨78, lastMap.cells⟩)) = true ∧
    after (exec (.candidateBeacon .i0 .r 76) s) (fun t => decide (t = s)) = true ∧
    after (exec (.candidate .i0 .r) (h 73)) (fun t => decide ((slu t).state = .candidate ∧ (slu t).back = .joined)) = true ∧
    after (exec (.candidate .i0 .r) (h 74)) (fun t => decide (t = h 74)) = true := by decide +kernel

theorem test_beacon_send :
    let s := atSlot 4 (fun x => { x with master := true, ports := [(0, 0)] })
    (s.pol .i0).basin.valid = false ∧ (s.dom .i0).mediumNs .r % 12288 / 192 = 4 ∧ (slu s).canDrive (slotNo 77 4) 8 = true ∧
    (slu s).inherit = false ∧ after (exec (.beaconSend .i0 .r 78) s) (fun t => decide (t = s)) = true := by decide +kernel

theorem test_master_fails :
    let log (n : Nat) : EchoLog := ⟨n, true, true, false⟩
    let s := atSlot 5 (fun x => { x with master := true, echoes := [log 76, log 75, log 74] })
    let p (sf : Nat) : State := atSlot 5 (fun x => { x with master := true, alive := [(1, sf)], asks := [(1, ⟨9, true, true⟩)] })
    (slu s).judged = [log 76, log 75, log 74] ∧
    after (exec (.masterEchoFail .i0 .r) s) (fun t => decide (slu t = { slu s with
      master := false, state := .candidate, back := .joined, echoes := [], lastSf := 77 })) = true ∧
    after (exec (.portRemove .i0 .r 1) (p 68)) (fun t => decide (slu t = { slu (p 68) with ports := [(0, 0)], asks := [] })) = true ∧
    after (exec (.portRemove .i0 .r 1) (p 69)) (fun t => decide (t = p 69)) = true := by decide +kernel

theorem test_silent :
    let log (n : Nat) : EchoLog := ⟨n, false, false, false⟩
    let s := atSlot 5 (fun x => { x with echoes := [log 76, log 75, log 74] })
    let few := atSlot 5 (fun x => { x with echoes := [log 76, log 75] })
    after (exec (.silent .i0 .r) s) (fun t => decide ((slu t).state = .silent ∧ (slu t).echoes = [] ∧
      bitOf ((t.pol .i0).stored (Off.sluice .r + 4)) 4 = true)) = true ∧
    after (exec (.silent .i0 .r) few) (fun t => decide (t = few)) = true ∧
    after (exec (.sluicePllUnlock .i0 .r) s) (fun t => decide ((slu t).pllOk = false ∧ (slu t).state = .silent ∧
      bitOf ((t.pol .i0).stored Off.clkSticky) 6 = true)) = true ∧
    after (exec (.sluicePllRelock .i0 .r) (atSlot 5 (fun x => { x with pllOk := false, state := .silent }))) (fun t =>
      decide ((slu t).state = .listen ∧ (slu t).pllOk = true ∧ (slu t).lastSf = 77)) = true ∧
    after (exec (.slewEnd .i0) s) (fun t => decide ((t.pol .i0).basin.slew = 0)) = true := by decide +kernel

theorem test_demand :
    let s := atSlot 5 id
    WritePasses s .i0 .host (Off.sluice .r + 0xC) ∧ 9 ≠ (s.pol .i0).stored (Off.sluice .r + 0xC) % 256 ∧
    after (exec (.slDemandWrite .i0 .r .host 9) s) (fun t => decide ((t.pol .i0).stored (Off.sluice .r + 0xC) % 256 = 9 ∧
      (slu t).sent.map (fun y => (y.frame.typ, y.cont, y.frame.payload.take 2)) = [(2, true, [9, 0])])) = true := by decide +kernel

/-- R444 and R445, ring 6: not due; due in slot 4, in a cell of no port, in one of the own port; and forced there 1 ms later. -/
theorem test_calibration :
    let m (c : Nat) : BasinMap := ⟨77, List.replicate 944 c⟩
    let z (k c : Nat) (d : BitVec 16) (at_ : Nat) : State :=
      (atSlot k (fun x => { x with mapNow := some (m c), due := d, dueAt := [(6, 0)], medium := at77 k - (at_ : Int) })).onWarden (fun w => { w with dieTime := at_ })
    let iv := (out.pol .i0).stored (Off.sluice .r + 0x10) % 2 ^ 16 * 1000
    let cal (t : State) (k : BitVec 6) : Bool := decide ((slu t).due = 0x40 ∧
      (slu t).sent.map (fun y => (y.frame.typ, y.frame.slot, y.frame.wave, y.ring, y.sf)) = [(5, k, 6, some 6, 77)])
    0 < iv ∧ after (exec (.calDue .i0 .r 6 4) (z 4 0 0 (iv - 1))) (fun t => decide (t = z 4 0 0 (iv - 1))) = true ∧
    (slu (z 5 0 0 iv)).mapFor 77 = some (m 0) ∧
    after (exec (.calDue .i0 .r 6 4) (z 4 0 0 iv)) (fun t => cal t 4) = true ∧
    after (exec (.calDue .i0 .r 6 5) (z 5 127 0 iv)) (fun t => cal t 5) = true ∧
    after (exec (.calDue .i0 .r 6 5) (z 5 0 0 iv)) (fun t => decide ((slu t).due = 0x40 ∧ (slu t).sent = [] ∧ (slu t).dueAt = [(6, iv)])) = true ∧
    after (exec (.calForced .i0 .r 6 5) (z 5 0 0x40 1000000)) (fun t => cal t 5 && decide ((t.pol .i0).counter (Off.slCount .r 6) = 1 ∧
      bitOf ((t.pol .i0).stored (Off.sluice .r + 4)) 7 = true)) = true := by decide +kernel

/-! ## Cells, frames and acknowledgement -/

def ownMap : BasinMap := ⟨77, List.replicate 944 0⟩

/-- The row sluice owns every cell of superframe 77. -/
def owning (f : Polder → Polder) : State :=
  (sluiced (fun x => { alive x with mapNow := some ownMap })).onPol .i0 f

def rxs : RxStream := ⟨1, 0, 0, 0, 4, 0, some 70, none⟩

/-- One frame retained for address 1. -/
def txf : TxFrame := ⟨{ fr 0 [9, 8, 7, 6] with typ := 0, xmit := 0, src := 0, dst := 1, seq := 12 }, 1, 0, true, .cell .r, [1], 0⟩

def txs (f : TxFrame) : TxStream := ⟨1, 0, 0, 13, false, [f]⟩

theorem test_cells :
    let c : BitVec 4 := 3
    let s1 := owning (fun q => { q with lock := { q.lock with rx := [rxs] } })
    let s2 := owning (fun q => { q with lock := { q.lock with tx := [txs txf] } })
    let sent (t : State) : List (BitVec 4 × BitVec 12 × List Byte) := (slu t).sent.map (fun (z : Sent) => (z.frame.typ, z.frame.dst, z.frame.payload))
    after (exec (.cellSend .i0 .r c) (sluiced alive)) (fun t => decide ((slu t).missed = some 77 ∧
      (t.pol .i0).counter (Off.slCount .r 7) = 1 ∧ bitOf ((t.pol .i0).stored (Off.sluice .r + 4)) 8 = true)) = true ∧
    after (exec (.cellSend .i0 .r c) (owning (fun q => { q with sluices := q.sluices.set .r { q.sluices.get .r with index := 1 } }))) (fun t =>
      decide (sent t = [])) = true ∧
    ((owning id).dom .i0).sfNow .r = 77 ∧ ((owning id).dom .i0).slotNow .r = 5 ∧ (slu (owning id)).mapFor 77 = some ownMap ∧
    ownMap.at 5 3 = 0 ∧ (slu (owning id)).canDrive (slotNo 77 5) 3 = true ∧
    after (exec (.cellSend .i0 .r c) (owning id)) (fun t => decide (sent t = [(6, 0, [])])) = true ∧
    (s1.pol .i0).ackVia rxs = some (.cell .r) ∧
    after (exec (.cellSend .i0 .r c) s1) (fun t => decide (sent t = [(1, 1, rxs.entry)] ∧ (t.pol .i0).lock.rx = [{ rxs with due := none }] ∧
      (slu t).sent.map (·.launch) = [at77 5 - 250])) = true ∧
    after (exec (.cellSend .i0 .r c) s2) (fun t => decide (sent t = [(0, 1, [9, 8, 7, 6])] ∧
      ((t.pol .i0).lock.tx.flatMap (·.frames)).map (fun g => (g.sends, g.queued, g.frame.tide)) = [(1, false, 9)])) = true := by decide +kernel

/-- R423: a slot of an IDLE frame, whose FEC block is the header's codeword and one of 8 bytes, 560 + 370 bits. -/
theorem test_slot :
    let z := sentOf (fr 0 []) false none
    (scrambled (fecSymbols (frameHeader z.frame) (natLe 8 z.tag.toNat))).length = 930 ∧ z.slot.length = 10200 := by decide +kernel

/-- A segment of 8 bytes for 0x4009000, with an RNOTE. -/
def segFrame (op : Nat) (rnote : Word) (typ : BitVec 4) : Heard :=
  hrd { fr op (segHeader 0x4009000 rnote 5 ++ [1, 2, 3, 4, 5, 6, 7, 8]) with typ := typ }

def landing (h : Heard) (f : Polder → Polder) : State := die (fun q => f (inboxed h (windowed q)))

theorem test_segment_next :
    NextFrame ((landing (segFrame 0 0 0) id).pol .i0) .r (segFrame 0 0 0) [] ∧
    NextFrame ((landing (segFrame 1 0x80000010 4) id).pol .i0) .r (segFrame 1 0x80000010 4) [] :=
  ⟨next_of (by decide +kernel), next_of (by decide +kernel)⟩

theorem test_segments :
    let u := segFrame 1 0x80000010 4
    let closed (h : Heard) : State := die (inboxed h)
    ((landing u id).pol .i0).landable 0x4009000 8 = true ∧ ((landing u id).pol .i0).Plain 0x4009000 8 true ∧
    ((closed u).pol .i0).landable 0x4009000 8 = false ∧
    after (exec (.data .i0 .r) (landing (segFrame 0 0 0) id)) (fun t => decide ((t.pol .i0).mem.readBytes 0x4009000 8 = [1, 2, 3, 4, 5, 6, 7, 8] ∧
      ((t.pol .i0).rxFrame u.frame).base = 1)) = true ∧
    after (exec (.urgent .i0 .r) (landing u id)) (fun t => decide ((t.pol .i0).mem.readBytes 0x4009000 8 = [1, 2, 3, 4, 5, 6, 7, 8] ∧
      (t.pol .i0).mem.readNat 0x10000010 8 = 8)) = true ∧
    after (exec (.urgent .i0 .r) (closed u)) (fun t => decide ((t.pol .i0).mem.readBytes 0x4009000 8 = zeros 8 ∧
      ((t.pol .i0).rxFrame u.frame).reject = some 0 ∧ (t.pol .i0).counter (Off.lockCount 7) = 1)) = true ∧
    after (exec (.data .i0 .r) (landing (hrd { (segFrame 0 0 0).frame with tide := 8, opinfo := 0 }) id)) (fun t => decide (
      (t.pol .i0).mem.readBytes 0x4009000 8 = zeros 8 ∧ (t.pol .i0).counter (Off.xfCount .r 4) = 1)) = true := by decide +kernel


/-- A row-sum segment of two floats of 1.0, from address 2, in a set that has two of 2.0 from address 1. -/
def rsum : Heard :=
  hrd { fr (3 + 2 * 2 ^ 23) (segHeader 0x4009000 0 5 ++ natLe 4 0x3F800000 ++ natLe 4 0x3F800000) with typ := 0, src := 2 }

def contrib : Contribution := ⟨1, 6, natLe 4 0x40000000 ++ natLe 4 0x40000000⟩

def rset : ReduceSet := ⟨true, 0, 5, 0x4009000, 0, 2, 2, some false, 9, 0, [contrib], none, 0⟩

def reducing : State := landing rsum (fun q => { q with lock := { q.lock with sets := [rset], roster := [0, 1, 2] } })

theorem test_rsum_next : NextFrame (reducing.pol .i0) .r rsum [] := next_of (by decide +kernel)

theorem test_rsum :
    let q := reducing.pol .i0
    let f := rsum.frame
    frameOp f = 3 ∧ f.sgrid = q.grid ∧ f.src ≠ q.addr ∧ rset.tag = segTag f ∧ rset.raddr = segRaddr f ∧ f.opinfo.toNat / 2 ^ 23 % 128 = 2 ∧
    contrib.src.toNat < f.src.toNat ∧ contrib.src ≠ q.addr ∧ contrib.data.length = (segData f).length ∧ (segData f).length % 4 = 0 ∧
    q.relayUsed + 64 ≤ 0x200000 ∧ q.landable 0x4009000 8 = true ∧ q.Plain 0x4009000 8 true ∧
    after (exec (.data .i0 .r) reducing) (fun t => decide ((t.pol .i0).lock.sets = [] ∧
      (t.pol .i0).mem.readBytes 0x4009000 8 = natLe 4 0x40400000 ++ natLe 4 0x40400000 ∧
      ((t.pol .i0).rxOf 1 0 0 3).due = some 77)) = true ∧
    after (exec (.reduceDrop .i0 0) reducing) (fun t => decide (t = reducing)) = true ∧
    after (exec (.reduceDrop .i0 0) (reducing.onWarden (fun w => { w with dieTime := 12288 * 65535 }))) (fun t => decide ((t.pol .i0).lock.sets = [] ∧ (t.pol .i0).counter (Off.lockCount 4) = 1 ∧
      bitOf ((t.pol .i0).stored Off.lockSticky) 2 = true)) = true ∧
    after (exec (.reduceDrop .i0 1) reducing) (fun t => decide (t = reducing)) = true := by decide +kernel

/-- Address 1 acknowledges its stream up to SEQ 13, or rejects SEQ 12. -/
def acker (rej : Bool) : RxStream := ⟨0, 0, 1, 0, if rej then 12 else 13, 0, none, if rej then some 3 else none⟩

def ackFrame (rej : Bool) : Heard := hrd { fr 0 (acker rej).entry with typ := 1 }

def xferOf : XferOp := { xop 0 with formed := 8 }

def acking (rej : Bool) : State :=
  landing (ackFrame rej) (fun q => { q with lock := { q.lock with tx := [txs { txf with sends := 1, queued := false }], xfer := [xferOf] } })

theorem test_ack :
    let ops (t : State) : List (Option Nat) := (t.pol .i0).lock.xfer.map (·.code)
    let frames (t : State) : List TxFrame := (t.pol .i0).lock.tx.flatMap (·.frames)
    ((acking true).pol .i0).inRoster 1 0 = true ∧ (txs txf).is 1 0 0 = true ∧ ackCovers 12 0 12 = false ∧ xferOf.token = txf.token ∧
    ((acking true).pol .i0).gleaner.ops = [] ∧
    after (exec (.ack .i0 .r) (acking false)) (fun t => decide (frames t = [] ∧ ops t = [none])) = true ∧
    after (exec (.ack .i0 .r) (acking true)) (fun t => decide (frames t = [] ∧ ops t = [some 2])) = true := by decide +kernel

/-- One frame sent `n` times and not acknowledged. -/
def unacked (via : Via) (n : Nat) : State :=
  (owning (fun q => { q with lock := { q.lock with tx := [txs { txf with sends := n, queued := false, via := via }], xfer := [xferOf] } })).onWarden
    (fun w => { w with dieTime := 12288 * 65535 })

theorem test_retransmit :
    let frames (t : State) : List (Nat × Bool) := ((t.pol .i0).lock.tx.flatMap (·.frames)).map (fun f => (f.sends, f.queued))
    let ops (t : State) : List (Option Nat) := (t.pol .i0).lock.xfer.map (·.code)
    ((out.pol .i0).stored (Off.sluice .r + 0x100) / 2 ^ 16 % 256 = 16) ∧ (out.pol .i0).harbEn = false ∧
    0 < ((unacked (.cell .r) 15).pol .i0).retxAfter { txf with via := .cell .r } ∧
    (let early := (unacked (.cell .r) 15).onWarden (fun w => { w with dieTime := 12287 });
      after (exec (.retransmit .i0 .r 0) early) (fun t => decide (t = early)) = true) ∧
    after (exec (.retransmit .i0 .r 0) (unacked (.cell .r) 15)) (fun t => decide (frames t = [(15, true)] ∧
      (t.pol .i0).counter (Off.xfCount .r 2) = 1)) = true ∧
    after (exec (.harbRetx .i0 0) (unacked .harbour 15)) (fun t => decide (frames t = [(15, true)])) = true ∧
    after (exec (.retransmit .i0 .r 0) (unacked (.cell .r) 16)) (fun t => decide (frames t = [] ∧ ops t = [some 1] ∧
      bitOf ((t.pol .i0).stored Off.lockSticky) 3 = true)) = true ∧
    after (exec (.harbRetx .i0 0) (unacked .harbour 16)) (fun t => decide (frames t = [] ∧ ops t = [some 1])) = true := by decide +kernel

/-- The harbour's rings of 4 entries at 0x8000_0001_0000, reached by aperture 0. -/
def harboured : State :=
  owning (fun q =>
    let a := Off.aperture 0
    let o := Off.lock
    let q1 := reg a 0 (reg (a + 4) 0x8000 (reg (a + 8) 0xFFFFFF (reg (a + 0xC) 0x8000 (reg (a + 0x10) 0x50000000 (reg (a + 0x18) 7 q)))))
    let q2 := reg (o + 0x18) 0x10000 (reg (o + 0x1C) 0x8000 (reg (o + 0x28) 0x102 (reg (o + 0x2C) 0x100 q1)))
    { q2 with lock := { q2.lock with tx := [⟨1, 3, 0, 13, false, [{ txf with frame := { txf.frame with dgrid := 3 }, via := .harbour }]⟩] } })

theorem test_harbour :
    let q := harboured.pol .i0
    WritePasses harboured .i0 .host Off.harbDoorbell ∧ q.harbEn = true ∧ q.harbIdx 2 = q.harbIdx 3 ∧
    (q.harbIdx 0 + 1) % q.harbSize ≠ q.harbIdx 1 ∧
    q.stored64 (Off.lock + 0x18) % 2 ^ 48 / 64 * 64 + 2112 * q.harbIdx 0 = 0x800000010000 ∧
    q.hostAddr 0x800000010000 2112 true = some 0x50010000 ∧ (harboured.dom .i0).hostUp = true := by decide +kernel

/-! ## The clerks -/

/-- Hart 1 runs in M-mode at 0x4000 with x5 = 7; line 0x4004000 is dirty in the caches. -/
def hart1 : Hart := { Hart.reset with started := true, pc := 0x4000, reserve := some (0x4004000, 8) }

def harts (f : Hart → Hart) (g : Polder → Polder) : State :=
  die (fun q => g { q with
    clerks := { q.clerks with harts := q.clerks.harts.set .i1 (f hart1), cache := [(0x100100, ⟨true, [2, 0xFF] ++ zeros 62⟩)] } })

theorem cached_of {q : Polder}
    (h : Store.sorted q.clerks.cache = true ∧ (∀ l ∈ q.clerks.cache, l.2.bytes.length = 64 ∧ q.Plain (64 * l.1) 64 true) ∧
      (∀ l ∈ q.clerks.cache, l.2.dirty = false → q.mem.readBytes (64 * l.1) 64 = l.2.bytes) ∧ q.memctl.errs = [])
    (hn : q.noReads) : q.Cached := ⟨h.1, h.2.1, h.2.2.1, h.2.2.2, hn⟩

theorem test_cached : ((harts id id).pol .i0).Cached := cached_of (by decide +kernel) (noReads_of (by decide +kernel))

theorem test_hart_reaches : ∀ perm < 3, HartReaches (harts id id) .i0 .i1 perm 0x4004000 8 := by
  intro perm h
  rcases perm with _ | _ | _ | k
  · exact ⟨by decide +kernel, by decide +kernel, by decide +kernel, by decide +kernel, by decide +kernel, by decide +kernel, by decide +kernel⟩
  · exact ⟨by decide +kernel, by decide +kernel, by decide +kernel, by decide +kernel, by decide +kernel, by decide +kernel, by decide +kernel⟩
  · exact ⟨by decide +kernel, by decide +kernel, by decide +kernel, by decide +kernel, by decide +kernel, by decide +kernel, by decide +kernel⟩
  · omega

theorem test_hart_hyps :
    let q := (harts id id).pol .i0
    q.hartInterrupt .i1 = none ∧ (q.clerks.harts.get .i1).reserve = some (0x4004000, 8) ∧ q.canIssue (.hart .i1) = true ∧
    (q.clerks.harts.get .i1).priv = .m ∧ bitOf ((q.clerks.harts.get .i1).csrWord 0x300) 17 = false ∧
    q.seen 0x4004001 = 0xFF ∧ q.mem.read 0x4004001 = 0 := by decide +kernel

/-- An interrupt enabled and pending: MSIP, source 3, of hart 1, whose handler is at 0x5000. -/
def interrupted : State :=
  harts (fun x => { x with csr := Store.insert (Store.insert (Store.insert x.csr 0x305 0x5000) 0x304 8) 0x300 8 }) (reg (Off.msip 1) 1)

/-- AMOs that do not go through, with nothing in the caches: at the register window, and misaligned in main memory. -/
theorem test_amo_stops :
    let s := harts id (fun q => { q with clerks := { q.clerks with cache := [] } })
    let q := s.pol .i0
    let x := q.clerks.harts.get .i1
    q.holders.find? (fun e => decide (e.master = .hart .i1)) = none ∧
    q.region 0x2000000C = some .window ∧ x.pmpOk .m 1 0x2000000C 4 = true ∧
    after (exec (.hartLoadStoreAmo .i0 .i1 ⟨.amo .add 5, 0x2000000C, 4, 1⟩) s) (fun t => decide ((t.pol .i0).imp.logCause = 1 ∧
      (t.pol .i0).imp.logMaster = 5 ∧ (t.pol .i0).imp.logAddr = 0x2000000C ∧ ((t.pol .i0).clerks.harts.get .i1).getX 5 = 0)) = true ∧
    q.region 0x4004002 ≠ some .window ∧ x.pmpOk .m 1 0x4004002 4 = true ∧
    after (exec (.hartLoadStoreAmo .i0 .i1 ⟨.amo .add 5, 0x4004002, 4, 1⟩) s) (fun t =>
      let y := (t.pol .i0).clerks.harts.get .i1
      decide (y.csrWord 0x342 = 6 ∧ y.csrWord 0x341 = 0x4000 ∧ y.csrWord 0x343 = 0x4004002)) = true := by decide +kernel

/-- Fence 0 lets the berths alone reach 0x4000000 to 0x4000FFF. -/
def fencing : State :=
  harts id (fun q =>
    let o := Off.fence 0
    reg o 0x4000000 (reg (o + 8) 0x4000FFF (reg (o + 0x10) (0x80000000 + 0x3000F) q)))

theorem test_hart_traps :
    let q := interrupted.pol .i0
    let x := q.clerks.harts.get .i1
    q.hartInterrupt .i1 = some 3 ∧ x.csrWord 0x305 = 0x5000 ∧
    ((fencing.pol .i0).causeOf (.hart .i1) 0x4000000 4 true).isSome = true ∧
    ((fencing.pol .i0).clerks.harts.get .i1).pmpOk .m 1 0x4000000 4 = true ∧ (fencing.pol .i0).region 0x4000000 ≠ some .window ∧
    (fencing.pol .i0).canIssue (.hart .i1) = true := by decide +kernel

theorem test_fencing_cached : (fencing.pol .i0).Cached := cached_of (by decide +kernel) (noReads_of (by decide +kernel))

theorem test_cbo :
    let s := harts id id
    let st (i : Instr) : List (Bool × Byte) := match exec i s with
      | .next t => ((Store.find (t.pol .i0).clerks.cache 0x100100).map Line.dirty).toList.map (·, (t.pol .i0).mem.read 0x4004001)
      | _ => []
    ((s.pol .i0).clerks.harts.get .i1).pmpOk .m 0 0x4004000 64 = true ∧ st (.cboClean .i0 .i1 0x4004000) = [(false, 0xFF)] ∧
    after (exec (.cboFlush .i0 .i1 0x4004000) s) (fun t => decide ((t.pol .i0).clerks.cache = [] ∧ (t.pol .i0).mem.read 0x4004001 = 0xFF)) = true ∧
    after (exec (.cboInval .i0 .i1 0x4004000) s) (fun t => decide ((t.pol .i0).clerks.cache = [] ∧ (t.pol .i0).mem.read 0x4004001 = 0)) = true := by
  decide +kernel

theorem test_hart_instructions :
    let s := harts id (fun q => reg (Off.mtimecmp 1 + 4) 0 (reg (Off.mtimecmp 1) 100 q))
    let h (t : State) : Hart := (t.pol .i0).clerks.harts.get .i1
    after (exec (.fence .i0 .i1 15 15) s) (fun t => decide (t = s)) = true ∧
    after (exec (.tideCsr .i0 .i1 5) s) (fun t => decide ((h t).getX 5 = 9)) = true ∧
    after (exec (.basinns .i0 .i1 5) s) (fun t => decide ((h t).getX 5 = (s.pol .i0).basin.now % 2 ^ 64)) = true ∧
    (s.pol .i0).mtimeRuns = true ∧ (s.pol .i0).stored64 (Off.mtimecmp 1) ≤ (s.pol .i0).clerks.mtime + 100 ∧
    after (exec (.mtimecmp .i0 .i1 99) s) (fun t => decide (t = s)) = true ∧
    after (exec (.mtimecmp .i0 .i1 100) s) (fun t => decide (t.warden.dieTime = s.warden.dieTime + 1000 ∧ (t.pol .i0).clerks.mtime = 100 ∧ bitOf ((t.pol .i0).mip .i1) 7 = true)) = true := by
  decide +kernel

/-- Sources 5 and 6 are pending, enabled for context 2, with priorities 3 and 3; source 7 is claimed there. -/
def plicked : State :=
  die (fun q => { q with clerks := { q.clerks with
    harts := q.clerks.harts.set .i0 { Hart.reset with started := true }
    plic := { q.clerks.plic with
      prio := [(5, 3), (6, 3)], enable := [(0x100, 0xE0)], edge := 0x60, claimed := 0x80, held := 0x80 } } })

theorem test_clerk_registers :
    let q := plicked.pol .i0
    let o := Off.plic + 0x6004
    WritePasses plicked .i0 (.hart .i0) Off.clerkStart ∧ (q.clerks.harts.get .i2).started = false ∧
    after (exec (.clerkStart .i0 (.hart .i0) 4) plicked) (fun t => decide (((t.pol .i0).clerks.harts.get .i2).started = true ∧
      ((t.pol .i0).clerks.harts.get .i1).started = false)) = true ∧
    WritePasses plicked .i0 .host (Off.msip 1) ∧
    after (exec (.msip .i0 .i1 .host 1) plicked) (fun t => decide (bitOf ((t.pol .i0).mip .i1) 3 = true)) = true ∧
    q.canIssue .host = true ∧ q.holders = [] ∧ q.readFenced .host o 4 = false ∧ q.plicPending = 0x60 ∧ q.clerks.plic.enabled 2 5 = true ∧
    q.clerks.plic.priority 5 = 3 ∧
    after (exec (.plicClaim .i0 .host 2) plicked) (fun t => decide ((t.pol .i0).host.cpl = .success [5, 0, 0, 0] ∧
      (t.pol .i0).clerks.plic.edge = 0x40 ∧ (t.pol .i0).clerks.plic.claimed = 0xA0)) = true ∧
    after (exec (.plicClaim .i0 .host 3) plicked) (fun t => decide ((t.pol .i0).host.cpl = .success [0, 0, 0, 0])) = true ∧
    WritePasses plicked .i0 .host o ∧ q.clerks.plic.enabled 2 7 = true ∧
    after (exec (.plicComplete .i0 .host 2 7) plicked) (fun t => decide ((t.pol .i0).clerks.plic.claimed = 0 ∧
      (t.pol .i0).clerks.plic.edge = 0xE0 ∧ (t.pol .i0).clerks.plic.held = 0)) = true := by decide +kernel

/-! ## The host port -/

/-- A request of `dw` double words at an offset of BAR2, the last byte enables as R509 has them. -/
def hostReq (write : Bool) (a dw : Nat) (data : List Byte) : HostReq :=
  ⟨false, a, write, dw, 15, if dw = 1 then 0 else 15, data, false, false, false⟩

/-- Fence 0 lets the berths alone reach 0x4000000 to 0x4000FFF. -/
def hostFenced : State :=
  die (fun q =>
    let o := Off.fence 0
    reg o 0x4000000 (reg (o + 8) 0x4000FFF (reg (o + 0x10) 0x8003000F q)))

theorem hostAsks_of {s : State} {r : HostReq}
    (h : (s.pol .i0).canIssue .host = true ∧ (s.pol .i0).clocks.stopped = false ∧
      (s.pol .i0).holders.find? (fun h => decide (h.master = .host)) = none ∧ r.bar0 = false ∧
      (r.atomic = false ∧ r.tlpPfx = false ∧ r.poisoned = false) ∧
      r.firstBE = 15#4 ∧ (r.dw = 1 ∨ r.lastBE = 15#4) ∧ r.addr % 4 = 0 ∧ 1 ≤ r.dw ∧ r.addr + 4 * r.dw ≤ 0x1000000000) :
    HostAsks s .i0 r := ⟨h.1, h.2.1, h.2.2.1, h.2.2.2.1, h.2.2.2.2.1, h.2.2.2.2.2⟩

theorem test_host_asks :
    HostAsks (die id) .i0 (hostReq true 0x4004000 2 [1, 2, 3, 4, 5, 6, 7, 8]) ∧ HostAsks (die id) .i0 (hostReq false 0x4004000 2 []) ∧
    HostAsks hostFenced .i0 (hostReq false 0x4000000 1 []) ∧ HostAsks (die id) .i0 (hostReq false 0x20000000 1 []) :=
  ⟨hostAsks_of (by decide +kernel), hostAsks_of (by decide +kernel), hostAsks_of (by decide +kernel), hostAsks_of (by decide +kernel)⟩

/-- BAR2 while the Charter is loaded, and BAR0. -/
theorem test_host_boot :
    let s := die (fun q => { q with boot := .charter })
    let r := hostReq false 0x4004000 1 []
    HostAsks s .i0 r ∧ (s.pol .i0).bootWrites = true ∧ ((die id).pol .i0).bootWrites = false ∧
    after (exec (.bar2Access .i0 r) s) (fun t => decide ((t.pol .i0).host.cpl = .success [0xFF, 0xFF, 0xFF, 0xFF])) = true ∧
    after (exec (.bar2Access .i0 { hostReq false 4 1 [] with bar0 := true }) (die id)) (fun t => decide (
      (t.pol .i0).host.cpl = .success (natLe 4 (((die id).pol .i0).regRead 4)))) = true :=
  ⟨hostAsks_of (by decide +kernel), by decide +kernel, by decide +kernel, by decide +kernel, by decide +kernel⟩

theorem test_host_accesses :
    let s := die id
    let q := s.pol .i0
    let w := hostReq true 0x4004000 2 [1, 2, 3, 4, 5, 6, 7, 8]
    let d := hostReq true 0x4004000 1 [1, 2, 3, 4]
    let m := die (fun q => { q with mem := q.mem.write 0x4004001 7 })
    q.causeOf .host 0x4004000 8 true = none ∧ q.Plain 0x4004000 8 true ∧
    after (exec (.bar2Access .i0 w) s) (fun t => decide ((t.pol .i0).mem.readBytes 0x4004000 9 = [1, 2, 3, 4, 5, 6, 7, 8, 0] ∧
      (t.pol .i0).counter Off.hostRx = 8)) = true ∧
    after (exec (.bar2Access .i0 { d with firstBE := 5 }) m) (fun t => decide ((t.pol .i0).mem.readBytes 0x4004000 4 = [1, 7, 3, 0])) = true ∧
    after (exec (.bar2Access .i0 (hostReq false 0x4004000 1 [])) m) (fun t => decide ((t.pol .i0).host.cpl = .success [0, 7, 0, 0])) = true ∧
    (hostFenced.pol .i0).causeOf .host 0x4000000 4 false = some 4 ∧
    after (exec (.bar2Access .i0 (hostReq false 0x4000000 1 [])) hostFenced) (fun t => decide ((t.pol .i0).host.cpl = .unsupported ∧
      (t.pol .i0).imp.host = true ∧ (t.pol .i0).imp.cause = 4 ∧ (t.pol .i0).imp.addr = 0x4000000)) = true ∧
    (regSpec 4).isSome = true ∧ isPair 4 = false ∧ readsClear 4 = false ∧ isInner 4 = false ∧ q.readFenced .host 4 4 = false ∧
    after (exec (.bar2Access .i0 (hostReq false 0x20000008 1 [])) s) (fun t => decide ((t.pol .i0).host.cpl = .success (natLe 4 (q.regRead 8)))) = true := by
  decide +kernel

/-- TIDE_PERIOD's register before CHARTER_LOCK; COMMONS, which is a pair; HBM's W1C flags. -/
theorem test_register_writes :
    let s := die (fun q => reg Off.memSticky 0x18 q)
    let wr (o : Nat) (v : Word) (sets : BitVec 64) (m : Master) : Instr := .registerWrite .i0 ⟨m, o, 4, v.setWidth 64⟩ ⟨sets, 0, false⟩
    let h := die (fun q => { q with clerks := { q.clerks with harts := q.clerks.harts.set .i1 hart1 } })
    WritePasses s .i0 .host Off.memSticky ∧
    after (exec (wr Off.memSticky 0x18 0x10 .host) s) (fun t => decide ((t.pol .i0).stored Off.memSticky = 0x10 ∧
      (t.pol .i0).counter Off.setwinCount = 1)) = true ∧
    isPair Off.commons = true ∧ Off.commons % 8 = 0 ∧ isMsix Off.commons = false ∧
    after (exec (wr Off.commons 7 0 .host) s) (fun t => decide ((t.pol .i0).holders = [⟨.host, Off.commons, 7⟩])) = true ∧
    (h.pol .i0).canIssue (.hart .i1) = true ∧ (h.pol .i0).fenced (masterCode (.hart .i1)) (winBase + Off.hbmCfg) 4 true = false ∧
    (regSpec 0x3FFF0).isNone = true ∧ isPair 0x3FFF0 = false ∧ isMsix 0x3FFF0 = false ∧
    after (exec (wr 0x3FFF0 7 0 .host) s) (fun t => decide ((t.pol .i0).imp.logCause = 5 ∧ (t.pol .i0).imp.logAddr = winBase + 0x3FFF0 ∧
      (t.pol .i0).counter Off.accLogCount = 1)) = true := by decide +kernel

theorem test_link :
    let s := { die id with pf4 := { State.reset.pf4 with linkUp := true, bme := true, pba := 4, msixEn := true } }
    let k : ConfigBits := ⟨true, false, true, false, 1, 2⟩
    after (exec .linkDown s) (fun t => decide ((t.pol .i0).host.linkUp = false ∧ t.pf4.linkUp = false ∧
      (t.pol .i0).counter Off.linkDownCount = 1 ∧ bitOf ((t.pol .i0).stored Off.hostSticky) 0 = true)) = true ∧
    after (exec (.linkUp 5 16 true) { State.reset with perst := false }) (fun t => decide (t.pf4.linkUp = true ∧
      (t.pol .i3).host.width = 16)) = true ∧
    after (exec (.linkUp 5 4 true) s) (fun t => decide (t = s)) = true ∧
    after (exec (.configWrite (some .i0) k) s) (fun t => decide ((t.pol .i0).host.bme = false ∧ (t.pol .i0).host.msixEn = true)) = true ∧
    after (exec (.configWrite none k) s) (fun t => decide (t.pf4.bme = false ∧ t.pf4.mse = true)) = true := by decide +kernel


theorem test_pending_messages :
    let f (h : HostFn) : HostFn := { h with linkUp := true, bme := true, pba := 4, msixEn := true, fmask := false, table := [(11, 0)] }
    let s := { die (fun q => { q with host := f q.host }) with pf4 := f State.reset.pf4 }
    s.pf4.canSend 2 = true ∧ (s.pol .i0).host.canSend 2 = true ∧
    after (exec (.msixPendingSend none 2) s) (fun t => decide (t.pf4.sent = [2] ∧ t.pf4.pba = 0)) = true ∧
    after (exec (.msixPendingSend (some .i0) 2) s) (fun t => decide ((t.pol .i0).host.sent = [2] ∧ (t.pol .i0).host.pba = 0)) = true := by
  decide +kernel

/-- R72: bits 0 and 1 are set, 1 is written to both and bit 0 is set again in the cycle. -/
theorem test_sticky_set_wins :
    ([Off.clkSticky, Off.glSticky, Off.lgSticky, Off.sluice .c + 4, Off.lockSticky].all (fun o =>
      let s := die (fun q => reg o 3 q)
      decide (WritePasses s .i0 .host o) &&
      after (exec (.registerWrite .i0 ⟨.host, o, 4, 3⟩ ⟨1, 0, false⟩) s) (fun t => decide ((t.pol .i0).stored o = 1)))) = true ∧
    after (exec (.wardenWrite 0xC 4 2 ⟨2, 0, false⟩) pf4) (fun t => bitOf (t.warden.wreg 0xC) 1) = true := by decide +kernel

/-- Plain fields, fields that wait for a tide, and a hart's write of a field that CHARTER_LOCK fixes (R69, R77, R86). -/
theorem test_register_fields :
    let s := die (fun q => { q with clerks := { q.clerks with harts := q.clerks.harts.set .i1 hart1 } })
    let wr (m : Master) (o v : Nat) : Instr := .registerWrite .i0 ⟨m, o, 4, BitVec.ofNat 64 v⟩ Coincide.none
    let spec (o : Nat) (f : RegSpec → Bool) : Bool := match regSpec o with
      | some r => f r
      | none => false
    WritePasses s .i0 .host (Off.berth 0 + 0x1C) ∧ spec (Off.berth 0 + 0x1C) (fun r => decide (plainReg (Off.berth 0 + 0x1C) r ∧ r.w1c = 0 ∧ r.ts = 0 ∧ r.lv ≠ 0)) = true ∧
    after (exec (wr .host (Off.berth 0 + 0x1C) 0x41) s) (fun t => decide ((t.pol .i0).stored (Off.berth 0 + 0x1C) = 0x41)) = true ∧
    WritePasses s .i0 .host 0x3000C ∧ spec 0x3000C (fun r => decide (plainReg 0x3000C r ∧ r.ts = 0x1FFFF)) = true ∧
    after (exec (wr .host 0x3000C 9) s) (fun t => decide ((t.pol .i0).stored 0x3000C = 0 ∧ Store.find (t.pol .i0).held 0x3000C = some 9)) = true ∧
    spec 0xC (fun r => decide (r.rw ≠ 0)) = true ∧ isPair 0xC = false ∧ (s.pol .i0).fenced (masterCode (.hart .i1)) (winBase + 0xC) 4 true = false ∧
    after (exec (wr (.hart .i1) 0xC 9) s) (fun t => decide (((t.pol .i0).clerks.harts.get .i1).impounded = true ∧
      (t.pol .i0).imp.cause = 5 ∧ (t.pol .i0).imp.addr = winBase + 0xC ∧ (t.pol .i0).imp.data = 9 ∧ (t.pol .i0).stored 0xC = 0)) = true := by
  decide +kernel

/-! ## The Watchhouse -/

/-- Mailbox 0 of polder 0 at a session level, changed by `f`, in the state `s`. -/
def boxedAt (level : Nat) (f : Mailbox → Mailbox) (s : State) : State :=
  s.onPol .i0 (fun q => { q with watch := { q.watch with box := q.watch.box.put .z (f { q.watch.box.at .z with level := level }) } })

theorem mailed_of {s : State} {r : MbReq} {level : Nat}
    (h : (s.pol .i0).boxOpen r.box = true ∧ ((s.pol .i0).watch.box.at r.box).busy = false ∧ (s.pol .i0).boot ≠ .absent ∧
      s.warden.thermtrip = false ∧ (r.box = .z → (s.pol .i0).holders.find? (fun h => decide (h.master = .host)) = none) ∧
      level ≤ ((s.pol .i0).watch.box.at r.box).level) : Mailed s .i0 r level :=
  ⟨h.1, h.2.1, h.2.2.1, h.2.2.2.1, h.2.2.2.2.1, h.2.2.2.2.2⟩

/-- A request at mailbox 0 with sequence number 3. -/
def mb (space unit : Byte) (len addr : Nat) (args : BitVec 128) (data : List Byte) : MbReq := ⟨.z, 3, 0, space, unit, len, addr, args, data⟩

/-- The answer in mailbox 0: LASTSEQ, COMMAND, STATUS, RESULT, data. -/
def answer (t : State) : BitVec 16 × Byte × Byte × Nat × List Byte :=
  let b := (t.pol .i0).watch.box.at .z
  (b.lastSeq, b.cmd, b.status, b.result.toNat, b.data.take b.len)

def box0 (t : State) : Mailbox := (t.pol .i0).watch.box.at .z

theorem test_mailed :
    Mailed (boxedAt 2 id (die id)) .i0 (mb 0 0 0 0 0 []) 2 ∧ Mailed (boxedAt 0 id (die id)) .i0 (mb 0 0 0 0 0 []) 0 :=
  ⟨mailed_of (by decide +kernel), mailed_of (by decide +kernel)⟩

theorem test_authentication :
    let n := List.replicate 32 (9 : Byte)
    let s (f : Mailbox → Mailbox) : State := boxedAt 0 f (die id)
    let q := (s id).pol .i0
    let mac := hmac256 (q.debugKey 1) (q.authMessage .z n 1)
    after (exec (.authChallenge .i0 (mb 0 0 0 0 0 []) n) (s id)) (fun t => decide (answer t = (3, 1, 0, 0, n) ∧ (box0 t).nonce = some n)) = true ∧
    after (exec (.authResponse .i0 (mb 0 0 32 0 1 mac)) (s (fun b => { b with nonce := some n, fails := 5 }))) (fun t => decide (
      answer t = (3, 1, 0, 0, []) ∧ (box0 t).level = 1 ∧ (box0 t).fails = 0 ∧ (box0 t).nonce = none)) = true ∧
    after (exec (.authResponse .i0 (mb 0 0 32 0 1 n)) (s (fun b => { b with nonce := some n, fails := 6 }))) (fun t => decide (
      answer t = (3, 1, 0xF, 0, []) ∧ (box0 t).level = 0 ∧ (box0 t).fails = 7 ∧ (box0 t).lockout = false)) = true ∧
    after (exec (.authResponse .i0 (mb 0 0 32 0 1 mac)) (s (fun b => { b with fails := 7 }))) (fun t => decide (
      answer t = (3, 1, 0xF, 0, []) ∧ (box0 t).lockout = true)) = true ∧
    after (exec (.authChallenge .i0 (mb 0 0 0 0 0 []) n) (s (fun b => { b with lockout := true }))) (fun t => decide (
      answer t = (3, 1, 0x10, 0, []))) = true ∧
    after (exec (.nonceExpiry .i0 .z) (s (fun b => { b with nonce := some n }))) (fun t => decide (t = s id)) = true ∧
    after (exec (.lockoutEnd .i0 .z) (s (fun b => { b with lockout := true }))) (fun t => decide (t = s id)) = true := by decide +kernel

/-- Berth 0 halted with one cell. -/
def halted : Berth := { busy [c 7] with halted := true }

def wsrig (level : Nat) (y : Berth) : State := boxedAt level id (die (fun q => { q with berths := ⟨y, Berth.reset, Berth.reset, Berth.reset⟩ }))

theorem test_watch_access :
    let s := wsrig 2 halted
    let a (i : Instr) (s : State) (f : State → Bool) : Bool := after (exec i s) f
    a (.status .i0 (mb 0 0 0 0 0 [])) s (fun t => decide ((answer t).2.2.1 = 0 ∧ (answer t).2.2.2.2 =
      ((s.pol .i0).berths.toList.flatMap (fun x => natLe 4 x.status) ++ natLe 4 ((s.pol .i0).regRead 0x140000)))) = true ∧
    a (.read .i0 (mb 0 0 4 0x4004000 0 [])) (boxedAt 2 (fun b => { b with busy := true }) s) (fun t => decide (
      box0 t = { box0 s with busy := true, reject := true })) = true ∧
    a (.read .i0 (mb 0 0 4 0x4004000 0 [])) (wsrig 0 halted) (fun t => decide (answer t = (3, 3, 1, 0, []))) = true ∧
    a (.write .i0 (mb 0 0 4 0x4004000 0 [1, 2, 3, 4])) (wsrig 1 halted) (fun t => decide (answer t = (3, 4, 1, 0, []))) = true ∧
    a (.write .i0 (mb 0 0 4 0x4004000 0 [1, 2, 3, 4])) s (fun t => decide (answer t = (3, 4, 0, 0, []) ∧
      (t.pol .i0).mem.readBytes 0x4004000 5 = [1, 2, 3, 4, 0])) = true ∧
    a (.read .i0 (mb 0 0 4 0x4004000 0 [])) s (fun t => decide (answer t = (3, 3, 0, 0, zeros 4))) = true ∧
    a (.read .i0 (mb 1 0 8 0 0 [])) (wsrig 2 (busy [])) (fun t => decide (answer t = (3, 3, 4, 0, []))) = true ∧
    a (.read .i0 (mb 1 0 8 0 0 [])) s (fun t => decide (answer t = (3, 3, 0, 0, natLe 8 7))) = true ∧
    a (.write .i0 (mb 1 0 8 0 0 (natLe 8 9))) s (fun t => decide (answer t = (3, 4, 0, 0, []) ∧ t.bth .i0 .i0 = { halted with stack := [c 9] })) = true ∧
    a (.write .i0 (mb 1 0 4 0xE000 0 (natLe 4 0x44))) s (fun t => decide (t.bth .i0 .i0 = { halted with pc := 0x44 })) = true := by decide +kernel

theorem test_halts :
    let s := wsrig 2 (busy [])
    let z (n : BitVec 128) : MbReq := mb 0 0 0 0 n []
    let idle := boxedAt 2 id (die (fun q => { q with clerks := { q.clerks with harts := q.clerks.harts.set .i0 hart1 } }))
    let frozen := boxedAt 2 id (die (fun q => { q with wharf := { q.wharf with frozen := true }, basin := { q.basin with now := 0 } }))
    let held := boxedAt 2 (fun b => { b with busy := true, after := some (8, 5, .i0) }) (wsrig 2 { busy [c 7] with haltReq := true })
    let hart (t : State) : Hart := (t.pol .i0).clerks.harts.get .i0
    after (exec (.haltBerth .i0 (z 0)) s) (fun t => decide (t.bth .i0 .i0 = { busy [] with haltReq := true } ∧ (box0 t).busy = true ∧
      (box0 t).after = some (3, 5, .i0))) = true ∧
    after (exec (.haltBerth .i0 (z 0)) idle) (fun t => decide (answer t = (3, 5, 0, 0, []) ∧ (t.bth .i0 .i0).armed = true)) = true ∧
    after (exec (.resumeBerth .i0 (z 0)) (wsrig 2 halted)) (fun t => decide (answer t = (3, 6, 0, 0, []) ∧ (t.bth .i0 .i0).halted = false)) = true ∧
    after (exec (.resumeBerth .i0 (z 0)) s) (fun t => decide (answer t = (3, 6, 4, 0, []))) = true ∧
    after (exec (.haltHart .i0 (z 0)) idle) (fun t => decide (answer t = (3, 5, 0, 0, []) ∧ hart t = { hart1 with halted := true })) = true ∧
    after (exec (.tideFreeze .i0 (z 0)) s) (fun t => decide (answer t = (3, 5, 0, 0, []) ∧ (t.pol .i0).wharf.frozen = true ∧
      bitOf ((t.pol .i0).stored Off.whSticky) 0 = true)) = true ∧
    (frozen.pol .i0).tideAt (frozen.dom .i0).basinNs ≤ (frozen.pol .i0).wharf.tide ∧
    after (exec (.tideFreezeEnd .i0 (z 0)) frozen) (fun t => decide (answer t = (3, 6, 0, 0, []) ∧ (t.pol .i0).wharf.frozen = false)) = true ∧
    (held.pol .i0).millsRun = true ∧ ((held.pol .i0).watch.box.at .o).after = none ∧
    after (exec (.berthHalted .i0 ⟨.i0, 0⟩) held) (fun t => decide ((t.bth .i0 .i0).halted = true ∧ (t.bth .i0 .i0).haltReq = false ∧
      (box0 t).busy = false ∧ (box0 t).status = 0 ∧ (box0 t).lastSeq = 8)) = true ∧
    after (exec (.haltStalled .i0 .i0) held) (fun t => decide ((t.bth .i0 .i0).haltReq = true ∧ (box0 t).status = 0xA ∧
      (box0 t).lastSeq = 8)) = true := by decide +kernel

theorem test_resume_hart :
    let s := boxedAt 2 id (die (fun q => { q with clerks := { q.clerks with harts := q.clerks.harts.set .i0 { hart1 with halted := true } } }))
    after (exec (.resumeHart .i0 (mb 0 0 0 0 0 [])) s) (fun t => decide (answer t = (3, 6, 0, 0, []) ∧
      (t.pol .i0).clerks.harts.get .i0 = hart1)) = true := by decide +kernel

/-- Berth 0 halted at a NOP. -/
def stepping : Berth := { halted with code0 := [0, 0x50] }

theorem test_feed_step :
    let s := wsrig 2 stepping
    (s.pol .i0).millsRun = true ∧ stepping.codeHere = [0, 0x50] ∧
    after (exec (.feed .i0 (mb 0 0 2 0 0 [0x50, 0xFE])) s) (fun t => decide ((t.bth .i0 .i0).pc = stepping.pc ∧
      (t.bth .i0 .i0).stack = [⟨0xFFFFFFFFFFFFFFFE, 0⟩, c 7] ∧
      answer t = (3, 7, 0, 2, natLe 8 0xFFFFFFFFFFFFFFFE ++ natLe 8 7))) = true ∧
    after (exec (.feed .i0 (mb 0 0 1 0 0 [0xFF])) s) (fun t => decide (answer t = (3, 7, 9, 0, []))) = true ∧
    after (exec (.step .i0 (mb 0 0 0 0 0 [])) s) (fun t => decide (answer t = (3, 8, 0, 0, []) ∧ (t.bth .i0 .i0).pc = 1 ∧
      (t.bth .i0 .i0).halted = true)) = true := by decide +kernel

theorem test_release_masters :
    let s := wsrig 2 { busy [] with impounded := true }
    let h := boxedAt 2 id (die (fun q => { q with clerks := { q.clerks with harts := q.clerks.harts.set .i0 { hart1 with impounded := true } } }))
    after (exec (.release .i0 (mb 0 0 0 0 0 [])) s) (fun t => decide (answer t = (3, 9, 0, 0, []) ∧ (t.bth .i0 .i0).impounded = false ∧
      (t.bth .i0 .i0).run = none ∧ (t.bth .i0 .i0).phase = .idle)) = true ∧
    after (exec (.release .i0 (mb 0 0 0 0 1 [])) s) (fun t => decide (answer t = (3, 9, 8, 0, []))) = true ∧
    after (exec (.release .i0 (mb 0 0 0 0 4 [])) h) (fun t => decide (answer t = (3, 9, 0, 0, []) ∧
      (t.pol .i0).clerks.harts.get .i0 = hart1)) = true := by decide +kernel

/-- The inner mailbox, open to hart 1. -/
theorem test_release_host :
    let h := die (fun q => { q with
      clerks := { q.clerks with harts := q.clerks.harts.set .i1 hart1 }
      imp := { q.imp with host := true }, watch := { q.watch with box := q.watch.box.put .o { q.watch.box.at .o with level := 2 } } })
    (h.pol .i0).boxOpen .o = true ∧
    after (exec (.release .i0 { mb 0 0 0 0 8 [] with box := .o }) h) (fun t => decide ((t.pol .i0).imp.host = false ∧
      ((t.pol .i0).watch.box.at .o).status = 0)) = true := by decide +kernel

theorem test_logbook :
    let s := wsrig 2 halted
    let on := s.onPol .i0 (fun q => { q with watch := { q.watch with
      lbEn := true, classMask := 0xFFFFFFFF, units := [(0, BitVec.ofNat 256 (2 ^ 80 + 5))], wr := 1, kept := 1 } })
    let unit (t : State) (i : Nat) : Nat := (Store.getD (t.pol .i0).watch.units i 0).toNat
    after (exec (.traceConfig .i0 (mb 0 0 0 0 (0xB00 * 2 ^ 32 + 3) [])) s) (fun t => decide (answer t = (3, 0xA, 0, 0, []) ∧
      (t.pol .i0).watch.lbEn = true ∧ (t.pol .i0).watch.stopMode = true ∧ (t.pol .i0).watch.classMask = 0xB00 ∧
      (t.pol .i0).watch.wr = 2 ∧ unit t 0 / 2 ^ 64 % 256 = 1)) = true ∧
    after (exec (.traceRead .i0 (mb 0 0 32 0 0 [])) on) (fun t => decide (answer t = (3, 0xA, 0, 0, natLe 32 (2 ^ 80 + 5)) ∧
      (t.pol .i0).watch.rd = 1 ∧ (t.pol .i0).watch.kept = 0)) = true ∧
    after (exec (.traceClear .i0 (mb 0 0 0 0 0 [])) on) (fun t => decide ((t.pol .i0).watch.wr = 0 ∧ (t.pol .i0).watch.kept = 0)) = true ∧
    (on.pol .i0).canIssue .host = true ∧ (on.pol .i0).fenced (masterCode .host) (winBase + Off.mark) 8 true = false ∧
    after (exec (.mark .i0 .host 0x1122334455667788) on) (fun t => decide ((t.pol .i0).watch.wr = 2 ∧ unit t 1 % 2 ^ 64 = on.warden.dieTime ∧
      unit t 1 / 2 ^ 64 % 256 = 0xB ∧ unit t 1 / 2 ^ 128 % 2 ^ 64 = 0x1122334455667788)) = true := by decide +kernel

/-- A rewrite of 328 bytes that has come to `st`. -/
def rewriting (st : RwStep) (im w : List Byte) : State :=
  (wsrig 2 halted).onPol .i0 (fun q => { q with
    fuses := { q.fuses with keyHash := keyHash }, charter := { q.charter with sfdp := ⟨true, 2 ^ 24, [0], false, true, false⟩ }
    watch := { q.watch with rewrite := some ⟨false, 328, st, im, w⟩ } })

theorem test_rewrite :
    let rw (t : State) : Option (RwStep × Nat × Nat) := (t.pol .i0).watch.rewrite.map (fun r => (r.step, r.image.length, r.written.length))
    after (exec (.charterWriteBegin .i0 (mb 0 0 0 0 (328 * 256) [])) (wsrig 2 halted)) (fun t => decide (answer t = (3, 0xB, 0, 0, []) ∧
      (t.pol .i0).watch.rewrite = some ⟨false, 328, .begun, [], []⟩)) = true ∧
    after (exec (.charterWriteVerify .i0 (mb 0 0 328 0 0 image)) (rewriting .begun [] [])) (fun t => decide (rw t = some (.verified, 328, 0))) = true ∧
    after (exec (.charterWriteCheck .i0 (mb 0 0 0 0 0 [])) (rewriting .verified (zeros 328) [])) (fun t => decide (
      answer t = (3, 0xB, 0xC, 2, []) ∧ (t.pol .i0).watch.rewrite = none)) = true ∧
    after (exec (.charterWriteProgram .i0 (mb 0 0 328 0 0 image) true) (rewriting .checked image [])) (fun t => decide (
      rw t = some (.programmed, 328, 328) ∧ (t.pol .i0).charter.flashB = some image)) = true ∧
    after (exec (.charterWriteFinish .i0 (mb 0 0 0 0 0 []) true (some true)) (rewriting .programmed image image)) (fun t => decide (
      answer t = (3, 0xB, 0, 0, []) ∧ (t.pol .i0).charter.flashA = some image ∧ (t.pol .i0).watch.rewrite = none)) = true ∧
    after (exec (.charterWriteFinish .i0 (mb 0 0 0 0 0 []) true none) (rewriting .programmed image image)) (fun t => decide (
      (box0 t).busy = true ∧ (t.pol .i0).charter.flashA = some [] ∧ rw t = some (.copying, 328, 328))) = true ∧
    after (exec (.charterWriteFinish .i0 (mb 0 0 0 0 0 []) true (some true)) (boxedAt 2 (fun b => { b with
      busy := true, after := some (7, 0xB, .i0) }) (rewriting .copying image image))) (fun t => decide (
      (box0 t).busy = false ∧ (box0 t).lastSeq = 7 ∧ (t.pol .i0).charter.flashA = some image ∧
      (t.pol .i0).watch.rewrite = none)) = true := by decide +kernel

theorem test_rewrite_check :
    after (exec (.charterWriteCheck .i0 (mb 0 0 0 0 0 [])) (rewriting .verified image [])) (fun t => decide (
      answer t = (3, 0xB, 0, 0, []) ∧ (t.pol .i0).watch.rewrite.map (·.step) = some .checked)) = true := by decide +kernel

/-! ## Ill-formed commands -/

/-- One command that each check of WellFormed refuses. -/
theorem test_ill_formed :
    ([Instr.charterSfdpRead .i0 { Sfdp.reset with lanes := [4] }, .wardenCharterLoad ⟨{ Sfdp.reset with lanes := [4] }, ⟨[], ⟨true, []⟩⟩, ⟨[], ⟨true, []⟩⟩⟩,
      .wardenEpoch ⟨Quad.const none, List.replicate 7 none⟩, .wardenWrite 0x10 3 0 Coincide.none, .wardenWrite 0x10 4 (2 ^ 32) Coincide.none,
      .reservedOpcode .i0 .i0 0x00, .reservedOpcode .i0 .i0 0x58, .swapoutPage .i0 4096 true, .swapinPage .i0 4096 true,
      .maintenanceAccess .i0 64 true true 0, .granScrubTakeover .i0 64 0, .frameReceive .i0 .r (hrd (fr 0 (zeros 4096))),
      .plicClaim .i0 .host 8, .plicComplete .i0 .host 8 1, .bar2Access .i0 (hostReq false 0x4000 0 []), .bar2Access .i0 (hostReq false 0x4000 1025 []),
      .bar2Access .i0 (hostReq false 0x1000000000 1 []), .bar2Access .i0 (hostReq true 0x4000 1 []), .msixPendingSend none 64,
      .registerWrite .i0 ⟨.host, 0x410000, 4, 0⟩ Coincide.none, .registerWrite .i0 ⟨.host, 0xC, 3, 0⟩ Coincide.none,
      .registerWrite .i0 ⟨.host, 0xC, 4, 2 ^ 32⟩ Coincide.none, .authChallenge .i0 (mb 0 0 0 0 0 []) (zeros 31),
      .authResponse .i0 (mb 0 0 (2 ^ 32) 0 0 []), .read .i0 (mb 0 0 0 (2 ^ 64) 0 []), .hartLoadStoreAmo .i0 .i0 ⟨.fetch, 0, 8, 0⟩,
      .hartLoadStoreAmo .i0 .i0 ⟨.amo .add 1, 0, 2, 0⟩, .hartLoadStoreAmo .i0 .i0 ⟨.store, 0, 3, 0⟩,
      .hartLoadStoreAmo .i0 .i0 ⟨.store, 0, 4, 2 ^ 32⟩].all (fun i => !i.wf)) = true := by decide +kernel

/-- A mailbox request with more data than the data area holds. -/
theorem test_ill_formed_data (ds : List Byte) (h : 57344 < ds.length) : (Instr.write .i0 (mb 0 0 0 0 0 ds)).wf = false := by
  have : ¬ ds.length ≤ 57344 := by omega
  show (mb 0 0 0 0 0 ds).wf = false
  simp [MbReq.wf, mb, this]

theorem test_well_formed :
    ([Instr.reservedOpcode .i0 .i0 0x5B, .plicClaim .i0 .host 7, .bar2Access .i0 (hostReq true 0x4000 1 [1, 2, 3, 4]),
      .registerWrite .i0 ⟨.host, 0x40000C, 4, 5⟩ Coincide.none, .authResponse .i0 (mb 0 0 32 0 1 (zeros 32)),
      .hartLoadStoreAmo .i0 .i0 ⟨.store, 0, 4, 5⟩].all Instr.wf) = true := by decide +kernel

/-! ## The table's words -/

/-- The table gives no row any bits. -/
theorem test_decode (nbits w : Nat) (s : State) : decodeTableWord nbits w = none ∧ s.withFetchWord nbits w = s := ⟨rfl, rfl⟩

end Sys2Proof.Tests
end

/-!
PROOF. A write of WARDEN_STICKY in the cycle in which hardware sets bits of it (R72, R175).

O55 says of that write that the bits set stay set and that the polders are as they were. The bits are as it says
(`exec_wardenWrite_sticky_bits`); the polders are not, where the write and the set meet on a bit. R72 counts such bits in SETWIN_COUNT, a
register of a polder's window, and by log entry 119 each polder counts them or not by a free value that it draws (`State.wmet_fresh`).
-/
namespace Sys2Proof.Machine

/-! ## Bits of a number -/

theorem bitOf_eq_testBit (a i : Nat) : bitOf a i = a.testBit i := by
  rw [bitOf, Nat.testBit_eq_decide_div_mod_eq, Bool.beq_eq_decide_eq]

theorem without_testBit (a m i : Nat) : (without a m).testBit i = (a.testBit i && !m.testBit i) := by
  unfold without
  induction i generalizing a m with
  | zero =>
    have hle : a &&& m ≤ a := Nat.and_le_left
    have hlow : (a &&& m) % 2 = 1 ↔ a % 2 = 1 ∧ m % 2 = 1 := Nat.and_mod_two_eq_one
    rw [Bool.eq_iff_iff]
    simp only [Nat.testBit_zero, Bool.and_eq_true, Bool.not_eq_true', decide_eq_true_eq, decide_eq_false_iff_not]
    omega
  | succ i ih =>
    have hhalf : (a - (a &&& m)) / 2 = a / 2 - (a / 2 &&& m / 2) := by
      have hle : a &&& m ≤ a := Nat.and_le_left
      have hlow : (a &&& m) % 2 = 1 ↔ a % 2 = 1 ∧ m % 2 = 1 := Nat.and_mod_two_eq_one
      rw [← Nat.and_div_two]
      omega
    rw [Nat.testBit_succ, hhalf, ih, Nat.testBit_succ, Nat.testBit_succ]

/-! ## Sticky bits of the Warden -/

theorem State.msix4Times_polders (s : State) (v n : Nat) : (s.msix4Times v n).polders = s.polders := by
  induction n generalizing s with
  | zero => rfl
  | succ n ih => exact ih (s.msix4 v)

theorem State.msix4Times_warden (s : State) (v n : Nat) : (s.msix4Times v n).warden = s.warden := by
  induction n generalizing s with
  | zero => rfl
  | succ n ih => exact ih (s.msix4 v)

@[simp] theorem State.wstick_polders (s : State) (m : Nat) : (s.wstick m).polders = s.polders := State.msix4Times_polders _ _ _

@[simp] theorem State.wstick_warden (s : State) (m : Nat) :
    (s.wstick m).warden = s.warden.setWreg wSticky (s.warden.wreg wSticky ||| m) := State.msix4Times_warden _ _ _

@[simp] theorem Warden.wreg_setWreg (w : Warden) (o v : Nat) : (w.setWreg o v).wreg o = v % 2 ^ 32 := by
  simp [Warden.wreg, Warden.setWreg, Store.getD_put_same, word]

theorem Warden.putEvent_sticky (w : Warden) (v keep inc : Nat) :
    w.putEvent wSticky v keep inc = w.setWreg wSticky (without (w.wreg wSticky) (without (v &&& 0xFF) keep)) := rfl

/-- The state in which hardware has set the bits `sets` of WARDEN_STICKY and a write of `v` in that cycle has cleared others. -/
def State.wstickyPut (s : State) (v sets : Nat) : State :=
  (s.wstick (sets &&& 0xFF)).onWarden (·.putEvent wSticky v sets 0)

theorem State.wstickyPut_polders (s : State) (v sets : Nat) : (s.wstickyPut v sets).polders = s.polders := by
  simp [State.wstickyPut]

/-- A bit that hardware sets in the cycle of the write stays set, whatever the write clears (R175). -/
theorem State.wstickyPut_bit (s : State) (v sets : Word) {i : Nat} (hi : i < 8) :
    bitOf ((s.wstickyPut v.toNat sets.toNat).warden.wreg wSticky) i =
      (sets.getLsbD i || (bitOf (s.warden.wreg wSticky) i && !v.getLsbD i)) := by
  have h32 : i < 32 := by omega
  have hmask : (0xFF : Nat).testBit i = true := by
    rw [show 0xFF = 2 ^ 8 - 1 from rfl, Nat.testBit_two_pow_sub_one, decide_eq_true hi]
  simp only [bitOf_eq_testBit, State.wstickyPut, State.onWarden_warden, State.wstick_warden, Warden.putEvent_sticky,
    Warden.wreg_setWreg, Nat.testBit_mod_two_pow, without_testBit, Nat.testBit_or, Nat.testBit_and, hmask, h32, decide_true,
    BitVec.testBit_toNat]
  cases sets.getLsbD i <;> simp

/-! ## Bits on which the write and the set meet -/

@[simp] theorem State.wmet_warden (s : State) (n : Nat) : (s.wmet n).warden = s.warden := by
  unfold State.wmet
  split <;> rfl

/-- Every polder draws a free value where a bit has been met. -/
theorem State.wmet_fresh (s : State) {n : Nat} (hn : n ≠ 0) (p : Ix4) : ((s.wmet n).pol p).fresh = (s.pol p).fresh + 1 := by
  rw [State.wmet, if_neg hn]
  cases p <;> rfl

theorem State.wmet_polders_ne (s : State) {n : Nat} (hn : n ≠ 0) : (s.wmet n).polders ≠ s.polders := by
  intro h
  have hfresh := s.wmet_fresh hn .i0
  rw [State.pol, h] at hfresh
  exact Nat.ne_of_lt (Nat.lt_succ_self _) hfresh

/-! ## The host's write -/

theorem State.wcommit_sticky (s : State) (v : Nat) (co : Coincide) (hinc : co.inc = 0) :
    s.wcommit wSticky 4 v co = (s.wstickyPut (v % 2 ^ 32) (co.setBits.toNat % 2 ^ 32)).wmet
      (popcount 8 (v &&& co.setBits.toNat &&& 0xFF)) := by
  have hplain : wrw wSticky = 0 := rfl
  simp [State.wcommit, commitWords, hplain, State.wstickyPut, hinc]

theorem State.wardenWrite_sticky (s : State) (v : Nat) (co : Coincide) (hreach : s.wreaches = true)
    (hheld : s.warden.wholder = none) : s.wardenWrite wSticky 4 v co = s.wcommit wSticky 4 (v % 2 ^ 32) co := by
  have hflush : s.wflush = s := by rw [State.wflush, hheld]
  simp [State.wardenWrite, hreach, hflush, malformedAs, wPair, wSticky]

/-- A write that reaches WARDEN_STICKY with no half held (R69): the sets and the write, and the count of the bits met. -/
theorem exec_wardenWrite_sticky (s : State) (v sets : Word) (hreach : s.wreaches = true) (hheld : s.warden.wholder = none) :
    exec (.wardenWrite wSticky 4 (v.setWidth 64) ⟨sets.setWidth 64, 0, false⟩) s =
      .next ((s.wstickyPut v.toNat sets.toNat).wmet (popcount 8 (v.toNat &&& sets.toNat &&& 0xFF))) := by
  have hv : v.toNat % 2 ^ 32 = v.toNat := Nat.mod_eq_of_lt v.isLt
  have hsets : sets.toNat % 2 ^ 32 = sets.toNat := Nat.mod_eq_of_lt sets.isLt
  show Host.Outcome.next (s.wardenWrite wSticky 4 (v.setWidth 64).toNat _) = _
  rw [State.wardenWrite_sticky s _ _ hreach hheld, State.wcommit_sticky _ _ _ rfl, BitVec.toNat_setWidth_of_le (by decide),
    BitVec.toNat_setWidth_of_le (by decide), hv, hv, hsets]

/-- What holds of O55's clause on the Warden: the bits of WARDEN_STICKY. -/
theorem exec_wardenWrite_sticky_bits (s : State) (v sets : Word) (hreach : s.wreaches = true) (hheld : s.warden.wholder = none) :
    ∃ t, exec (.wardenWrite wSticky 4 (v.setWidth 64) ⟨sets.setWidth 64, 0, false⟩) s = .next t ∧
      ∀ i < 8, bitOf (t.warden.wreg wSticky) i = (sets.getLsbD i || (bitOf (s.warden.wreg wSticky) i && !v.getLsbD i)) :=
  ⟨_, exec_wardenWrite_sticky s v sets hreach hheld, fun i hi => by rw [State.wmet_warden, s.wstickyPut_bit v sets hi]⟩

/-- What fails of that clause: from any state in which the write reaches PF4, a bit met changes the polders. -/
theorem exec_wardenWrite_met_polders_ne {s t : State} {v sets : Word} (hreach : s.wreaches = true)
    (hheld : s.warden.wholder = none) (hmet : popcount 8 (v.toNat &&& sets.toNat &&& 0xFF) ≠ 0)
    (hexec : exec (.wardenWrite wSticky 4 (v.setWidth 64) ⟨sets.setWidth 64, 0, false⟩) s = .next t) : t.polders ≠ s.polders := by
  rw [exec_wardenWrite_sticky s v sets hreach hheld, Host.Outcome.next.injEq] at hexec
  rw [← hexec, ← s.wstickyPut_polders v.toNat sets.toNat]
  exact State.wmet_polders_ne _ hmet

/-! ## O55 -/

/-- The die after cold reset, with WARDEN_LOCK set and PF4 in the host's reach. -/
def hostOnPf4 : State :=
  (State.reset.onWarden (fun w => { w with lock := true })).onPf4 (fun h => { h with linkUp := true, mse := true })

/-- Refutes O55: on the die of `hostOnPf4` the host writes 1 to bit 1 of WARDEN_STICKY in the cycle in which hardware sets that bit. The bit
stays set, but each polder draws the free value by which it counts the bit met in SETWIN_COUNT or not (R72, log entry 119), so the polders
are not as they were. -/
theorem not_stickySetWins : ¬ Obligations.StickySetWins := by
  unfold Obligations.StickySetWins Claim.StickySetWins
  intro h
  obtain ⟨t, hexec, hpolders, -⟩ := (h hostOnPf4 .i0 .r .host 2 2).2 rfl rfl rfl rfl rfl
  exact exec_wardenWrite_met_polders_ne rfl rfl (by decide) hexec hpolders

end Sys2Proof.Machine

/-!
PROOF. Arithmetic, comparison and bit-field instructions (R221, R229, R230): what `AluOp.eval` answers, operation by operation, and that a
berth with landed operands retires with that answer on its stack.
-/
namespace Sys2Proof.Machine

/-! ## An instruction retires -/

/-- A ready instruction whose effect is to be done with `f`. -/
theorem State.short_done_retires {s : State} {p b : Ix4} {i : Short} {len cost : Nat} {f : Berth → Berth} (hready : Ready s p b i.len)
    (heffect : (s.dom p).shortEffect b false i = (s.dom p).done b len cost false f) :
    Retires s (s.short p b i) p b cost (f ((s.bth p b).past len)) := by
  rw [State.short_ready hready, State.act_congr (g := (·.done b len cost false f)) heffect]
  exact Retires.done s p b len cost f

/-- A ready instruction whose effect is to go on at `dest`. -/
theorem State.short_jump_retires {s : State} {p b : Ix4} {i : Short} {dest cost : Nat} {f : Berth → Berth} (hready : Ready s p b i.len)
    (heffect : (s.dom p).shortEffect b false i = (s.dom p).jump b dest cost f) :
    Retires s (s.short p b i) p b cost (f { s.bth p b with pc := dest % 2 ^ 17 }) := by
  rw [State.short_ready hready, State.act_congr (g := (·.jump b dest cost f)) heffect]
  exact Retires.jump s p b dest cost f

/-! ## One operation of the ALU group retires -/

/-- Operands in range and landed: the result takes their place, in the operation's cycles. -/
theorem State.short_alu_retires {s : State} {p b : Ix4} {op : AluOp} {vs : List Cell} {rest : List Slot}
    (hready : Ready s p b (Short.alu op).len) (hholds : Holds (s.bth p b) vs rest) (hfits : 1 + rest.length ≤ 2080)
    (hcount : vs.length = op.arity) (hrange : op.outside vs = false) :
    Retires s (s.short p b (.alu op)) p b op.cost
      { (s.bth p b).past (Short.alu op).len with stack := Slot.mk (op.eval vs) 0 :: rest } := by
  have hroom : rest.length + 1 ≤ stackCap := by rw [Nat.add_comm]; exact hfits
  have heffect : (s.dom p).shortEffect b false (.alu op)
      = (s.dom p).done b (Short.alu op).len op.cost false (·.withStack (Slot.mk (op.eval vs) 0 :: rest)) := by
    show (s.dom p).aluOp b op false = _
    unfold Dom.aluOp
    rw [(s.dom p).values_split b _ _ _ vs rest hholds hcount hroom]
    simp [hrange, Slot.now]
  exact State.short_done_retires hready heffect

/-- A command whose meaning is an operation of the group, with the answer known. -/
theorem exec_alu_retires {i : Instr} {s : State} {p b : Ix4} {vs : List Cell} {v : Cell} {rest : List Slot} {len : Nat}
    (hready : Ready s p b len) (hholds : Holds (s.bth p b) vs rest) (hfits : 1 + rest.length ≤ 2080) (op : AluOp)
    (heval : op.eval vs = v) (hrange : op.outside vs = false := by rfl) (hcount : vs.length = op.arity := by rfl)
    (hlen : (Short.alu op).len = len := by rfl) (hmeans : exec i s = .next (s.short p b (.alu op)) := by rfl) :
    ∃ t, exec i s = .next t ∧ Retires s t p b op.cost { (s.bth p b).past len with stack := Slot.mk v 0 :: rest } := by
  subst hlen heval
  exact ⟨_, hmeans, State.short_alu_retires hready hholds hfits hcount hrange⟩

/-! ## Arithmetic -/

theorem AluOp.eval_add (a c : Cell) : AluOp.eval .add [a, c] = BitVec.ofNat 64 (a.toNat + c.toNat) := by
  rw [BitVec.ofNat_add, BitVec.ofNat_toNat, BitVec.ofNat_toNat, BitVec.setWidth_eq, BitVec.setWidth_eq]
  rfl

theorem AluOp.eval_sub (a c : Cell) : AluOp.eval .sub [a, c] = BitVec.ofInt 64 (a.toNat - c.toNat) := by
  have hsum : BitVec.ofInt 64 (a.toNat - c.toNat) + c = a := by
    calc BitVec.ofInt 64 (a.toNat - c.toNat) + c
        = BitVec.ofInt 64 (a.toNat - c.toNat) + BitVec.ofInt 64 c.toNat := by
          rw [BitVec.ofInt_natCast, BitVec.ofNat_toNat, BitVec.setWidth_eq]
      _ = BitVec.ofInt 64 (a.toNat - c.toNat + c.toNat) := (BitVec.ofInt_add ..).symm
      _ = a := by rw [Int.sub_add_cancel, BitVec.ofInt_natCast, BitVec.ofNat_toNat, BitVec.setWidth_eq]
  exact (BitVec.eq_sub_iff_add_eq.mpr hsum).symm

theorem AluOp.eval_mul (a c : Cell) : AluOp.eval .mul [a, c] = BitVec.ofNat 64 (a.toNat * c.toNat) := by
  rw [BitVec.ofNat_mul, BitVec.ofNat_toNat, BitVec.ofNat_toNat, BitVec.setWidth_eq, BitVec.setWidth_eq]
  rfl

/-- R230: a quotient by 0 is all-ones. -/
theorem AluOp.eval_divu (a c : Cell) :
    AluOp.eval .divu [a, c] = if c = 0 then BitVec.allOnes 64 else BitVec.ofNat 64 (a.toNat / c.toNat) := by
  show (if c = 0 then -1 else a / c) = _
  split
  · rfl
  · rw [← BitVec.toNat_udiv, BitVec.ofNat_toNat, BitVec.setWidth_eq]

/-- R230: the remainder by 0 is the dividend. -/
theorem AluOp.eval_remu (a c : Cell) :
    AluOp.eval .remu [a, c] = if c = 0 then a else BitVec.ofNat 64 (a.toNat % c.toNat) := by
  show (if c = 0 then a else a % c) = _
  rw [← BitVec.toNat_umod, BitVec.ofNat_toNat, BitVec.setWidth_eq]

theorem AluOp.eval_neg (c : Cell) : AluOp.eval .neg [c] = BitVec.ofInt 64 (-c.toInt) := by
  rw [BitVec.ofInt_neg, BitVec.ofInt_toInt]
  rfl

theorem AluOp.eval_abs (c : Cell) : AluOp.eval .abs [c] = BitVec.ofInt 64 (if c.toInt < 0 then -c.toInt else c.toInt) := by
  show (if c.msb then -c else c) = _
  rw [BitVec.msb_eq_toInt]
  by_cases hneg : c.toInt < 0
  · simp [hneg, BitVec.ofInt_neg]
  · simp [hneg]

theorem AluOp.eval_mins (a c : Cell) : AluOp.eval .mins [a, c] = BitVec.ofInt 64 (min a.toInt c.toInt) := by
  show (if c.slt a then c else a) = _
  by_cases hlt : c.toInt < a.toInt
  · simp [BitVec.slt, hlt, Int.min_eq_right (Int.le_of_lt hlt)]
  · simp [BitVec.slt, hlt, Int.min_eq_left (Int.not_lt.mp hlt)]

theorem AluOp.eval_maxs (a c : Cell) : AluOp.eval .maxs [a, c] = BitVec.ofInt 64 (max a.toInt c.toInt) := by
  show (if a.slt c then c else a) = _
  by_cases hlt : a.toInt < c.toInt
  · simp [BitVec.slt, hlt, Int.max_eq_right (Int.le_of_lt hlt)]
  · simp [BitVec.slt, hlt, Int.max_eq_left (Int.not_lt.mp hlt)]

theorem AluOp.eval_minu (a c : Cell) : AluOp.eval .minu [a, c] = BitVec.ofNat 64 (min a.toNat c.toNat) := by
  show (if c.ult a then c else a) = _
  by_cases hlt : c.toNat < a.toNat
  · simp [BitVec.ult, hlt, Nat.min_eq_right (Nat.le_of_lt hlt)]
  · simp [BitVec.ult, hlt, Nat.min_eq_left (Nat.not_lt.mp hlt)]

theorem AluOp.eval_maxu (a c : Cell) : AluOp.eval .maxu [a, c] = BitVec.ofNat 64 (max a.toNat c.toNat) := by
  show (if a.ult c then c else a) = _
  by_cases hlt : a.toNat < c.toNat
  · simp [BitVec.ult, hlt, Nat.max_eq_right (Nat.le_of_lt hlt)]
  · simp [BitVec.ult, hlt, Nat.max_eq_left (Nat.not_lt.mp hlt)]

theorem AluOp.eval_addi (imm : BitVec 8) (c : Cell) :
    AluOp.eval (.addi imm) [c] = BitVec.ofInt 64 (c.toInt + imm.toInt) := by
  rw [BitVec.ofInt_add, BitVec.ofInt_toInt]
  rfl

theorem arithmeticResults_claim : Claim.ArithmeticResults := by
  intro s p b a c imm rest hfits
  refine ⟨fun hready hholds => ?_, fun hready hholds => ?_, fun hready hholds => ?_⟩
  · simp only [List.forall_mem_cons]
    exact ⟨exec_alu_retires hready hholds hfits .add (AluOp.eval_add a c),
      exec_alu_retires hready hholds hfits .sub (AluOp.eval_sub a c),
      exec_alu_retires hready hholds hfits .mul (AluOp.eval_mul a c),
      exec_alu_retires hready hholds hfits .mulhu rfl,
      exec_alu_retires hready hholds hfits .mulhs rfl,
      exec_alu_retires hready hholds hfits .divu (AluOp.eval_divu a c),
      exec_alu_retires hready hholds hfits .divs rfl,
      exec_alu_retires hready hholds hfits .remu (AluOp.eval_remu a c),
      exec_alu_retires hready hholds hfits .rems rfl,
      exec_alu_retires hready hholds hfits .mins (AluOp.eval_mins a c),
      exec_alu_retires hready hholds hfits .maxs (AluOp.eval_maxs a c),
      exec_alu_retires hready hholds hfits .minu (AluOp.eval_minu a c),
      exec_alu_retires hready hholds hfits .maxu (AluOp.eval_maxu a c), List.forall_mem_nil _⟩
  · simp only [List.forall_mem_cons]
    exact ⟨exec_alu_retires hready hholds hfits .neg (AluOp.eval_neg c),
      exec_alu_retires hready hholds hfits .abs (AluOp.eval_abs c), List.forall_mem_nil _⟩
  · exact exec_alu_retires hready hholds hfits (.addi imm) (AluOp.eval_addi imm c)

/-! ## Comparisons -/

theorem AluOp.eval_eq (a c : Cell) : AluOp.eval .eq [a, c] = if decide (a = c) then 1 else 0 := by
  show (if (a == c) = true then (1 : Cell) else 0) = _
  simp only [beq_iff_eq, decide_eq_true_eq]

theorem AluOp.eval_ne (a c : Cell) : AluOp.eval .ne [a, c] = if decide (a ≠ c) then 1 else 0 := by
  show (if (!(a == c)) = true then (1 : Cell) else 0) = _
  simp only [Bool.not_eq_true', beq_eq_false_iff_ne, decide_eq_true_eq]

theorem AluOp.eval_eqz (c : Cell) : AluOp.eval .eqz [c] = if c = 0 then 1 else 0 := by
  show (if (c == 0) = true then (1 : Cell) else 0) = _
  simp only [beq_iff_eq]

theorem comparisons_claim : Claim.Comparisons := by
  intro s p b a c f rest hfits hready
  refine ⟨fun hholds => ?_, fun hholds => ?_, fun hholds => ?_⟩
  · simp only [List.forall_mem_cons]
    exact ⟨exec_alu_retires hready hholds hfits .eq (AluOp.eval_eq a c),
      exec_alu_retires hready hholds hfits .ne (AluOp.eval_ne a c),
      exec_alu_retires hready hholds hfits .lts rfl,
      exec_alu_retires hready hholds hfits .ltu rfl,
      exec_alu_retires hready hholds hfits .les rfl,
      exec_alu_retires hready hholds hfits .leu rfl, List.forall_mem_nil _⟩
  · exact exec_alu_retires hready hholds hfits .eqz (AluOp.eval_eqz c)
  · exact exec_alu_retires hready hholds hfits .select rfl

/-! ## Bit fields -/

theorem cell_getLsbD {n i : Nat} (hi : i < 64) : (cell n).getLsbD i = n.testBit i := by
  simp only [cell, BitVec.getLsbD_ofNat, hi, decide_true, Bool.true_and]

/-- A width from 1 to 64 is in the range that the table gives `w` of BEXT and BINS. -/
theorem fieldWidth_inside {w : Cell} (hlow : 1 ≤ w.toNat) (hhigh : w.toNat ≤ 64) : (decide (w = 0) || (64#64).ult w) = false := by
  have hnonzero : w ≠ 0#64 := fun h => by simp [h] at hlow
  simp [hnonzero, BitVec.ult, hhigh]

theorem AluOp.eval_bext_bit (a lo w : Cell) (i : Nat) (hi : i < 64) :
    (AluOp.eval .bext [a, lo, w]).getLsbD i = (decide (i < w.toNat) && a.getLsbD (i + lo.toNat)) := by
  show (if (63#64).ult lo then (0 : Cell) else cell (a.toNat / 2 ^ lo.toNat % 2 ^ w.toNat)).getLsbD i = _
  by_cases hlo : 63 < lo.toNat
  · have hbeyond : a.getLsbD (i + lo.toNat) = false := BitVec.getLsbD_of_ge _ _ (by omega)
    simp [BitVec.ult, hlo, hbeyond]
  · rw [if_neg (by simpa [BitVec.ult] using hlo), cell_getLsbD hi, Nat.testBit_mod_two_pow, Nat.testBit_div_two_pow,
      BitVec.testBit_toNat]

theorem AluOp.eval_bins_bit (a c lo w : Cell) (i : Nat) (hi : i < 64) :
    (AluOp.eval .bins [a, c, lo, w]).getLsbD i
      = if lo.toNat ≤ i ∧ i < lo.toNat + w.toNat then c.getLsbD (i - lo.toNat) else a.getLsbD i := by
  show (binsCell a c lo w).getLsbD i = _
  unfold binsCell
  by_cases hlo : 63 < lo.toNat
  · have hbelow : ¬ lo.toNat ≤ i := by omega
    simp [BitVec.ult, hlo, hbelow]
  · have hmask : (cell ((2 ^ w.toNat - 1) * 2 ^ lo.toNat % 2 ^ 64)).getLsbD i
        = (decide (lo.toNat ≤ i) && decide (i - lo.toNat < w.toNat)) := by
      rw [cell_getLsbD hi, Nat.testBit_mod_two_pow, Nat.testBit_mul_two_pow, Nat.testBit_two_pow_sub_one]
      simp [hi]
    have hfield : (cell (c.toNat % 2 ^ w.toNat * 2 ^ lo.toNat)).getLsbD i
        = (decide (lo.toNat ≤ i) && (decide (i - lo.toNat < w.toNat) && c.getLsbD (i - lo.toNat))) := by
      rw [cell_getLsbD hi, Nat.testBit_mul_two_pow, Nat.testBit_mod_two_pow, BitVec.testBit_toNat]
    rw [if_neg (by simpa [BitVec.ult] using hlo), BitVec.getLsbD_or, BitVec.getLsbD_and, BitVec.getLsbD_and, BitVec.getLsbD_not,
      hmask, hfield]
    by_cases hin : lo.toNat ≤ i ∧ i < lo.toNat + w.toNat
    · have hwidth : i - lo.toNat < w.toNat := by omega
      simp [hin, hwidth]
    · rw [if_neg hin]
      by_cases hle : lo.toNat ≤ i
      · have hwidth : ¬ i - lo.toNat < w.toNat := by omega
        simp [hi, hwidth]
      · simp [hi, hle]

theorem bitFields_claim : Claim.BitFields := by
  intro s p b a c lo w rest hfits hready hlow hhigh
  have hinside := fieldWidth_inside hlow hhigh
  refine ⟨fun hholds => ?_, fun hholds => ?_⟩
  · obtain ⟨t, hexec, hretires⟩ := exec_alu_retires (i := .bext p b) hready hholds hfits .bext rfl hinside
    exact ⟨t, _, hexec, hretires, AluOp.eval_bext_bit a lo w⟩
  · obtain ⟨t, hexec, hretires⟩ := exec_alu_retires (i := .bins p b) hready hholds hfits .bins rfl hinside
    exact ⟨t, _, hexec, hretires, AluOp.eval_bins_bit a c lo w⟩

/-! ## O2 -/

/-- Settles O2: every instruction of the group retires with what `AluOp.eval` answers, and the answers are those of R229 and R230. -/
theorem arithmeticResults : Obligations.ArithmeticResults :=
  ⟨arithmeticResults_claim, comparisons_claim, bitFields_claim⟩

end Sys2Proof.Machine

/-!
PROOF. What messages, Logbook records, completion records and landing writes leave as it is (R82, R200, R227, R518, R545).
-/
namespace Sys2Proof.Machine

/-! ## Messages, records of the Logbook and counts -/

/-- The polder with another host function, other registers, another Watchhouse, other free values and another window of the governor. -/
def Polder.noting (q : Polder) (h : HostFn) (r : Store Word) (w : Watch) (f : Nat) (cw : Window) : Polder :=
  { q with host := h, regs := r, watch := w, fresh := f, clocks := { q.clocks with window := cw } }

/-- `d'` is `d` after messages, Logbook records and counts: they write nothing else. -/
def Dom.Noted (d d' : Dom) : Prop := ∃ h r w f cw, d' = d.on (·.noting h r w f cw)

namespace Dom.Noted

theorem refl (d : Dom) : d.Noted d := ⟨d.q.host, d.q.regs, d.q.watch, d.q.fresh, d.q.clocks.window, rfl⟩

theorem trans {d d' d'' : Dom} (h : d.Noted d') (h' : d'.Noted d'') : d.Noted d'' := by
  obtain ⟨_, _, _, _, _, rfl⟩ := h
  obtain ⟨k, r, w, f, cw, rfl⟩ := h'
  exact ⟨k, r, w, f, cw, rfl⟩

theorem of_regs {d d' : Dom} (h : ∃ r, d' = d.on (·.withRegs r)) : d.Noted d' := by
  obtain ⟨r, rfl⟩ := h
  exact ⟨d.q.host, r, d.q.watch, d.q.fresh, d.q.clocks.window, rfl⟩

theorem berths {d d' : Dom} (h : d.Noted d') : d'.q.berths = d.q.berths := by
  obtain ⟨_, _, _, _, _, rfl⟩ := h
  rfl

theorem mem {d d' : Dom} (h : d.Noted d') : d'.q.mem = d.q.mem := by
  obtain ⟨_, _, _, _, _, rfl⟩ := h
  rfl

theorem clerks {d d' : Dom} (h : d.Noted d') : d'.q.clerks = d.q.clerks := by
  obtain ⟨_, _, _, _, _, rfl⟩ := h
  rfl

theorem waits {d d' : Dom} (h : d.Noted d') : d'.waits = d.waits := by
  obtain ⟨_, _, _, _, _, rfl⟩ := h
  rfl

end Dom.Noted

theorem Dom.bump_noted (d : Dom) (o n : Nat) : d.Noted (d.bump o n) := .of_regs ⟨_, rfl⟩

theorem Dom.event_noted (d : Dom) (e n : Nat) (b : Option Ix4) : d.Noted (d.event e n b) := .of_regs (d.event_regs e n b)

theorem Dom.msix_noted (d : Dom) (v : Nat) : d.Noted (d.msix v) := by
  unfold Dom.msix
  cases hsend : d.q.host.canSend v <;>
    exact ⟨_, _, d.q.watch, d.q.fresh, d.q.clocks.window, by simp only [Dom.on, hsend]; rfl⟩

theorem Dom.msixTimes_noted (d : Dom) (v n : Nat) : d.Noted (d.msixTimes v n) := by
  induction n generalizing d with
  | zero => exact .refl d
  | succ n ih => exact (d.msix_noted v).trans (ih _)

theorem Dom.log1_noted (d : Dom) (typ src units : Nat) (payload : List Byte) : d.Noted (d.log1 typ src units payload) := by
  unfold Dom.log1
  split
  · cases hlost : (d.q.watch.add d.now typ src units d.q.wharf.tide payload).2 <;>
      exact ⟨d.q.host, _, _, d.q.fresh, d.q.clocks.window, by simp only [hlost]; rfl⟩
  · exact .refl d

theorem Dom.sync_noted (d : Dom) : d.Noted d.sync := by
  refine Dom.Noted.trans ?_ (Dom.log1_noted _ _ _ _ _)
  cases hruns : d.q.free.2.pulses <;>
    exact ⟨d.q.host, d.q.regs, d.q.watch, _, _, rfl⟩

theorem Dom.log_noted (d : Dom) (typ src : Nat) (payload : List Byte) : d.Noted (d.log typ src payload) := by
  unfold Dom.log
  dsimp only
  split
  · exact (d.log1_noted ..).trans (Dom.sync_noted _)
  · exact d.log1_noted ..

theorem Dom.stick_noted (d : Dom) (o m : Nat) : d.Noted (d.stick o m) := by
  have hstore (v : Nat) : d.Noted (d.on (·.store o v)) := .of_regs ⟨_, rfl⟩
  have hlogged {d2 : Dom} (h : d.Noted d2) (p1 p2 p3 : List Byte) : d.Noted
      (if o = Off.clkSticky then d2.log 0x0C 0x0E p1
        else if o = Off.sluice .r + 4 then d2.log 0x0D 0x0B p2
        else if o = Off.sluice .c + 4 then d2.log 0x0D 0x0C p3 else d2) := by
    split
    · exact h.trans (Dom.log_noted ..)
    · split
      · exact h.trans (Dom.log_noted ..)
      · split
        · exact h.trans (Dom.log_noted ..)
        · exact h
  unfold Dom.stick
  dsimp only
  split
  · exact .refl d
  · refine hlogged ?_ _ _ _
    split
    · exact (hstore _).trans (Dom.msixTimes_noted ..)
    · exact hstore _

theorem Dom.hostFail_noted (d : Dom) : d.Noted d.hostFail := (d.bump_noted _ _).trans (Dom.stick_noted _ _ _)

/-! ## What stands through completion records and landing writes -/

/-- What they leave as it is: the record of violations, what HBM serves, and a berth but for its streams in flight. -/
structure Standing where
  imp : Impound
  safe : Bool
  held : Duo Bool
  berth : Berth

def Polder.standing (q : Polder) (b : Ix4) : Standing :=
  ⟨q.imp, q.clocks.safe, q.memctl.held, { q.berths.get b with flights := [] }⟩

theorem Polder.foldl_standing {β : Type} (f : Polder → β → Polder) (c : Ix4)
    (h : ∀ q x, (f q x).standing c = q.standing c) (l : List β) (q : Polder) : (l.foldl f q).standing c = q.standing c :=
  foldl_keeps (fun q : Polder => q.standing c) f h l q

theorem Polder.junkPlane_standing (q : Polder) (k : Nat) (c : Ix4) : (q.junkPlane k).standing c = q.standing c := by
  simp only [Polder.junkPlane, Polder.standing]

theorem Polder.freeFlags_standing (q : Polder) (c : Ix4) : q.freeFlags.standing c = q.standing c := by
  simp only [Polder.freeFlags, Polder.bump, Polder.store, Polder.free, Polder.standing]

theorem Polder.unspecified_standing (q : Polder) (a n : Nat) (c : Ix4) : (q.unspecified a n).standing c = q.standing c := by
  simp only [Polder.unspecified, Polder.standing]

/-- A berth that changes in its flights alone stands. -/
theorem Polder.onBerth_flights_standing (q : Polder) (b c : Ix4) (f : List Flight → List Flight) :
    (q.onBerth b (fun x => { x with flights := f x.flights })).standing c = q.standing c := by
  by_cases hc : c = b
  · subst hc
    simp [Polder.standing, Polder.onBerth]
  · simp [Polder.standing, Polder.onBerth, Quad.get_set_other _ _ hc]

theorem Polder.spoil_standing (q : Polder) (b : Ix4) (ids : List Nat) (landed : Bool) (c : Ix4) :
    (q.spoil b ids landed).standing c = q.standing c := by
  have hberth : ∀ f : List Flight → List Flight, (({ q with fresh := q.fresh + 1 } : Polder).onBerth b (fun x => { x with flights := f x.flights })).standing c
      = q.standing c := Polder.onBerth_flights_standing _ b c
  unfold Polder.spoil
  simp only []
  split <;> (try rw [Polder.freeFlags_standing]) <;> split <;>
    (try refine (Polder.foldl_standing _ c (fun q f => q.unspecified_standing _ _ c) _ _).trans ?_) <;>
    refine (Polder.foldl_standing _ c (fun q f => ?_) _ _).trans (hberth _)
  all_goals
    split
    · exact q.junkPlane_standing _ c
    · rfl

theorem Polder.disturb_standing (q : Polder) (own : Option Ix4) (a n : Nat) (c : Ix4) :
    (q.disturb own a n).standing c = q.standing c := by
  unfold Polder.disturb
  apply Polder.foldl_standing
  intro q b
  simp only []
  split
  · rfl
  · exact q.spoil_standing _ _ _ _

theorem Polder.noteTails_standing (q : Polder) (f : Nat → Bool) (c : Ix4) : (q.noteTails f).standing c = q.standing c := by
  unfold Polder.noteTails
  exact Polder.foldl_standing (fun q n => q.onRing n (fun r => { r with moved := true })) c (fun _ _ => rfl) _ q

theorem Polder.putBytes_standing (q : Polder) (own : Option Ix4) (a : Nat) (bs : List Byte) (c : Ix4) :
    (q.putBytes own a bs).standing c = q.standing c := by
  show (Polder.noteTails (Polder.markStale (Polder.disturb _ own a bs.length) _) _).standing c = _
  rw [Polder.noteTails_standing]
  exact Polder.disturb_standing _ _ _ _ _

theorem Polder.blurTables_standing (q : Polder) (a n : Nat) (c : Ix4) : (q.blurTables a n).standing c = q.standing c := by
  unfold Polder.blurTables
  split
  · rfl
  · apply Polder.foldl_standing
    intro q t
    split
    · exact q.unspecified_standing _ _ c
    · rfl

theorem Polder.putMem_standing (q : Polder) (own : Option Ix4) (a : Nat) (bs : List Byte) (c : Ix4) :
    (q.putMem own a bs).standing c = q.standing c := by
  unfold Polder.putMem
  rw [Polder.blurTables_standing, Polder.putBytes_standing]

theorem Polder.writeMem_standing (q : Polder) (a : Nat) (bs : List Byte) (c : Ix4) : (q.writeMem a bs).standing c = q.standing c :=
  q.putMem_standing none a bs c

theorem Polder.landWrite_standing (q : Polder) (b : Ix4) (a : Nat) (bs : List Byte) (c : Ix4) :
    (q.landWrite b a bs).standing c = q.standing c := by
  unfold Polder.landWrite
  simp only []
  split
  · rfl
  · exact Polder.putMem_standing _ _ _ _ _

theorem Polder.landUpTo_standing (q : Polder) (b : Ix4) (t : Nat) (c : Ix4) : (q.landUpTo b t).standing c = q.standing c := by
  unfold Polder.landUpTo
  simp only []
  split
  · rfl
  · rw [Polder.foldl_standing _ c (fun q (f : Flight) => q.landWrite_standing b f.addr f.data c)]
    exact q.onBerth_flights_standing b c _

theorem Polder.landAll_standing (q : Polder) (b c : Ix4) : (q.landAll b).standing c = q.standing c :=
  (Polder.onBerth_flights_standing _ b c (fun _ => [])).trans (q.landUpTo_standing b _ c)

/-- `d'` is `d` but for what a completion record or a landing write may change of berth `b`'s polder. -/
structure Dom.Stands (b : Ix4) (d d' : Dom) : Prop where
  standing : d'.q.standing b = d.q.standing b
  waits : d'.waits = d.waits

namespace Dom.Stands

theorem refl (b : Ix4) (d : Dom) : d.Stands b d := ⟨rfl, rfl⟩

theorem trans {b : Ix4} {d d' d'' : Dom} (h : d.Stands b d') (h' : d'.Stands b d'') : d.Stands b d'' :=
  ⟨h'.standing.trans h.standing, h'.waits.trans h.waits⟩

theorem on {b : Ix4} {d : Dom} {f : Polder → Polder} (h : (f d.q).standing b = d.q.standing b) : d.Stands b (d.on f) := ⟨h, rfl⟩

theorem imp {b : Ix4} {d d' : Dom} (h : d.Stands b d') : d'.q.imp = d.q.imp := congrArg Standing.imp h.standing

theorem berth {b : Ix4} {d d' : Dom} (h : d.Stands b d') : { d'.berth b with flights := [] } = { d.berth b with flights := [] } :=
  congrArg Standing.berth h.standing

theorem serves {b : Ix4} {d d' : Dom} (h : d.Stands b d') (hserves : d.q.Serves) : d'.q.Serves := by
  obtain ⟨hsafe, hheld⟩ := hserves
  exact ⟨(congrArg Standing.safe h.standing).trans hsafe,
    fun k => (congrArg (fun x => x.held.at k) h.standing).trans (hheld k)⟩

end Dom.Stands

theorem Dom.Noted.stands {d d' : Dom} (h : d.Noted d') (b : Ix4) : d.Stands b d' := by
  obtain ⟨_, _, _, _, _, rfl⟩ := h
  exact ⟨rfl, rfl⟩

theorem Dom.foldl_stands {β : Type} {b : Ix4} (f : Dom × Bool → β → Dom × Bool) (h : ∀ (x : Dom × Bool) y, x.1.Stands b (f x y).1) (l : List β)
    (x : Dom × Bool) : x.1.Stands b (l.foldl f x).1 := by
  induction l generalizing x with
  | nil => exact .refl b x.1
  | cons y ys ih => exact (h x y).trans (ih (f x y))

/-! ## ECC (R348, R349) -/

/-- While HBM serves requests, no access has to wait (R133, R350). -/
theorem Polder.Serves.hbmWaits {q : Polder} (h : q.Serves) (r : Region) (a n : Nat) : q.hbmWaits r a n = false := by
  obtain ⟨hsafe, hheld⟩ := h
  simp [Polder.hbmWaits, hsafe, hheld]

theorem Dom.ce_stands (d : Dom) (r : Region) (a : Nat) (b : Ix4) : d.Stands b (d.ce r a) := by
  have hnoted (d1 : Dom) : d1.Noted (((d1.bump (Off.memCount (2 * eccIndex r)) 1)).stick Off.memSticky (2 ^ (2 * eccIndex r))) :=
    (d1.bump_noted _ _).trans (Dom.stick_noted _ _ _)
  refine Dom.Stands.trans (.on ?_) ((hnoted _).stands b)
  split <;> rfl

theorem Dom.ue_stands (d : Dom) (r : Region) (a : Nat) (b : Ix4) : d.Stands b (d.ue r a) := by
  have hnoted (d1 : Dom) : d1.Noted (((d1.bump (Off.memCount (2 * eccIndex r + 1)) 1).stick Off.memSticky
      (2 ^ (2 * eccIndex r + 1))).msix 4) :=
    ((d1.bump_noted _ _).trans (Dom.stick_noted _ _ _)).trans (Dom.msix_noted _ _)
  refine Dom.Stands.trans (.on ?_) ((hnoted _).stands b)
  split <;> rfl

theorem Dom.eccRead_stands {d : Dom} (h : d.q.Serves) (r : Region) (a n : Nat) (b : Ix4) : d.Stands b (d.eccRead r a n).1 := by
  unfold Dom.eccRead
  rw [h.hbmWaits, if_neg Bool.false_ne_true]
  split
  · exact d.ue_stands r a b
  · refine Dom.foldl_stands _ (fun x e => ?_) _ (d, false)
    split
    · exact x.1.ce_stands r _ b
    · exact x.1.ue_stands r _ b

theorem Dom.eccMerge_stands {d : Dom} (h : d.q.Serves) (r : Region) (a n : Nat) (b : Ix4) : d.Stands b (d.eccMerge r a n).1 := by
  unfold Dom.eccMerge
  rw [h.hbmWaits, if_neg Bool.false_ne_true]
  split
  · exact d.ue_stands r a b
  · refine Dom.foldl_stands _ (fun x e => ?_) _ (d, false)
    split
    · exact x.1.ce_stands r _ b
    · exact x.1.ue_stands r _ b

theorem Dom.eccWrite_stands {d : Dom} (h : d.q.Serves) (r : Region) (a n : Nat) (b : Ix4) : d.Stands b (d.eccWrite r a n).1 := by
  unfold Dom.eccWrite
  dsimp only
  split
  · exact Dom.eccMerge_stands h r a n b
  · exact (Dom.eccMerge_stands h r a n b).trans (.on (f := (·.mend r a n)) rfl)

/-! ## Completion records (R200, R202, R217, R218) -/

theorem Dom.readPtr_stands {d : Dom} (h : d.q.Serves) (n k : Nat) (b : Ix4) : d.Stands b (d.readPtr n k).1 :=
  Dom.eccRead_stands h _ _ _ b

theorem Dom.writeCtr32_stands {d : Dom} (h : d.q.Serves) (o v : Nat) (b : Ix4) : d.Stands b (d.writeCtr32 o v) := by
  unfold Dom.writeCtr32 Dom.writeCtr
  dsimp only
  split
  · exact Dom.eccWrite_stands h _ _ _ b
  · exact (Dom.eccWrite_stands h _ _ _ b).trans (.on (f := (·.writeMem _ _)) (Polder.writeMem_standing _ _ _ b))

theorem Dom.sectors_noted (d : Dom) (r : Region) (a n : Nat) (w : Bool) : d.Noted (d.sectors r a n w) := by
  unfold Dom.sectors
  split
  · exact d.event_noted _ _ _
  · exact .refl d

theorem Dom.hostWrite_stands (d : Dom) (relax : Bool) (a : Nat) (bs : List Byte) (b : Ix4) :
    d.Stands b (d.hostWrite relax a bs).1 := by
  unfold Dom.hostWrite
  split
  · exact .refl b d
  · dsimp only
    split
    · exact ⟨rfl, rfl⟩
    · exact d.hostFail_noted.stands b

theorem Dom.deposit_stands {d : Dom} (h : d.q.Serves) (a : Nat) (bs : List Byte) (b : Ix4) : d.Stands b (d.deposit a bs).1 := by
  unfold Dom.deposit Dom.depositAs
  split
  · exact .refl b d
  · exact d.hostWrite_stands _ _ _ b
  · exact .refl b d
  · rename_i r _ _ _
    split
    · exact .refl b d
    · have hsectors : d.Stands b (d.sectors r a bs.length true) := (d.sectors_noted _ _ _ _).stands b
      have hwritten := hsectors.trans (Dom.eccWrite_stands (hsectors.serves h) r a bs.length b)
      dsimp only
      split
      · exact hwritten
      · exact hwritten.trans (.on (f := (·.writeMem a bs)) (Polder.writeMem_standing _ _ _ b))

theorem Dom.source_stands (d : Dom) (n : Nat) (b : Ix4) : d.Stands b (d.source n) := ⟨rfl, rfl⟩

theorem Dom.onRing_stands (d : Dom) (n : Nat) (f : Ring → Ring) (b : Ix4) : d.Stands b (d.on (·.onRing n f)) := ⟨rfl, rfl⟩

theorem Dom.putRecord_stands {d d' : Dom} (h : d.q.Serves) {n : Nat} {rec : List Byte} (hput : d.putRecord n rec = some d')
    (b : Ix4) : d.Stands b d' := by
  have hptr := Dom.readPtr_stands h n 2 b
  have hdeposit (a : Nat) (bs : List Byte) := hptr.trans (Dom.deposit_stands (hptr.serves h) a bs b)
  have hring (a : Nat) (bs : List Byte) (f : Ring → Ring) := (hdeposit a bs).trans (Dom.onRing_stands _ n f b)
  have hadvanced (a : Nat) (bs : List Byte) (f : Ring → Ring) (o v : Nat) :=
    (hring a bs f).trans (Dom.writeCtr32_stands ((hring a bs f).serves h) o v b)
  unfold Dom.putRecord at hput
  dsimp only at hput
  split at hput
  · rw [Option.some.injEq] at hput
    subst hput
    split
    · exact ((hadvanced _ _ _ _ _).trans ((Dom.msix_noted _ _).stands b)).trans (Dom.source_stands _ _ b)
    · exact hadvanced _ _ _ _ _
  · cases hput

theorem Dom.putRecords_stands {d : Dom} (h : d.q.Serves) (n : Nat) (recs : List (List Byte)) (b : Ix4) :
    d.Stands b (d.putRecords n recs) := by
  induction recs generalizing d with
  | nil => exact d.onRing_stands n _ b
  | cons rec recs ih =>
    unfold Dom.putRecords
    split
    · rename_i d' hput
      have hrecord := Dom.putRecord_stands h hput b
      exact hrecord.trans (ih (hrecord.serves h))
    · exact (d.onRing_stands n _ b).trans ((Dom.stick_noted _ _ _).stands b)

theorem Dom.record_stands {d : Dom} (h : d.q.Serves) (n : Nat) (rec : List Byte) (b : Ix4) : d.Stands b (d.record n rec) := by
  unfold Dom.record
  split
  · exact Dom.putRecords_stands h n _ b
  · exact d.onRing_stands n _ b

theorem Dom.runRecord_stands {d : Dom} (h : d.q.Serves) (c : Ix4) (st : Status) (detail : Nat) (b : Ix4) :
    d.Stands b (d.runRecord c st detail) := by
  unfold Dom.runRecord
  dsimp only
  split
  · exact .refl b d
  · exact (Dom.record_stands h _ _ b).trans ((Dom.log_noted _ _ _ _).stands b)

end Sys2Proof.Machine

/-!
PROOF. Pushes beyond the depth of a stack (R77, R82, R248), and pushes that reach it. One that does not fit goes through `Dom.overStack`,
whose effect is said once (`Dom.overStack_standing`); one that fits retires.
-/
namespace Sys2Proof.Machine

/-! ## A push beyond a stack (R77, R81, R82, R248) -/

/-- A change of the berth that has nothing to do with its flights. -/
theorem Polder.onBerth_standing (q : Polder) (b : Ix4) (f : Berth → Berth)
    (hflights : ∀ x, { f x with flights := [] } = f { x with flights := [] }) :
    (q.onBerth b f).standing b = { q.standing b with berth := f (q.standing b).berth } := by
  unfold Polder.standing
  rw [Polder.onBerth_get, hflights]
  rfl

/-- What stands after the violation of a berth that was not held: its record, and the berth impounded (R82, R83). -/
theorem Dom.violation_standing {d : Dom} {b : Ix4} (hfree : (d.berth b).impounded = false) (eng cause addr : Nat) (w : Bool)
    (data : BitVec 64) : (d.violation (.berth b) eng cause addr w data).q.standing b = { d.q.standing b with
      imp := d.q.imp.record (.berth b) eng cause addr d.q.wharf.tide w data
      berth := { (d.q.standing b).berth with impounded := true } } := by
  have hwas : d.q.isImpounded (.berth b) = false := hfree
  unfold Dom.violation
  dsimp only
  rw [hwas, if_neg Bool.false_ne_true, ((Dom.log_noted _ _ _ _).stands b).standing, (Dom.source_stands _ _ b).standing,
    ((Dom.msix_noted _ _).stands b).standing]
  exact Polder.onBerth_standing _ b _ (fun _ => rfl)

theorem Dom.violation_waits (d : Dom) (m : Master) (eng cause addr : Nat) (w : Bool) (data : BitVec 64) :
    (d.violation m eng cause addr w data).waits = d.waits := by
  unfold Dom.violation
  dsimp only
  split
  · rfl
  · exact (Dom.log_noted _ _ _ _).waits.trans (Dom.msix_noted _ 1).waits

/-- The berth in the cycle in which its instruction fails at issue: one that counts, unless the berth is halted (R540). -/
def Berth.failing (x : Berth) : Berth := if x.halted then x else { x with mc := x.mc + 1, used := x.used + 1 }

theorem Dom.issueCycle_eq (d : Dom) (b : Ix4) : d.issueCycle b = d.onBerth b Berth.failing := rfl

theorem Berth.failing_eq (x : Berth) : ∃ mc used, x.failing = { x with mc := mc, used := used } := by
  unfold Berth.failing
  split
  · exact ⟨x.mc, x.used, rfl⟩
  · exact ⟨_, _, rfl⟩

theorem Dom.issueCycle_standing (d : Dom) (b : Ix4) :
    (d.issueCycle b).q.standing b = { d.q.standing b with berth := (d.q.standing b).berth.failing } :=
  Polder.onBerth_standing d.q b Berth.failing (fun x => by cases hhalted : x.halted <;> simp [Berth.failing, hhalted])

/-- What stands after a push beyond a stack: the record of R82, and the berth, impounded. -/
theorem Dom.overStack_standing {d : Dom} {b : Ix4} (hserves : d.q.Serves) (hfree : (d.berth b).impounded = false) :
    (d.overStack b).waits = d.waits ∧ (d.overStack b).q.standing b = { d.q.standing b with
      imp := d.q.imp.record (.berth b) 0 6 0 d.q.wharf.tide true 0
      berth := { Berth.failing { (d.q.standing b).berth with impounded := true } with pre := none } } := by
  let d1 := d.violation (.berth b) 0 6 0 true 0
  let d2 := d1.issueCycle b
  let d3 := d2.runRecord b .impounded 6
  have hover : d.overStack b = (d3.onBerth b (fun x => { x with pre := none })).on (·.landAll b) := by
    unfold Dom.overStack Dom.berthViolation
    dsimp only
    rw [hfree, if_neg Bool.false_ne_true, if_pos rfl]
  have h1 : d1.q.standing b = _ := Dom.violation_standing hfree 0 6 0 true 0
  have h2 : d2.q.standing b = _ := d1.issueCycle_standing b
  rw [h1] at h2
  have hserves2 : d2.q.Serves :=
    ⟨(congrArg Standing.safe h2).trans hserves.1, fun k => (congrArg (fun x => x.held.at k) h2).trans (hserves.2 k)⟩
  have h3 := Dom.runRecord_stands hserves2 b .impounded 6 b
  have h4 := Polder.onBerth_standing d3.q b (fun x => { x with pre := none }) (fun _ => rfl)
  rw [h3.standing, h2] at h4
  rw [hover]
  exact ⟨h3.waits.trans (d.violation_waits _ _ _ _ _ _), (Polder.landAll_standing _ b b).trans h4⟩

/-- The berth is impounded with its stacks and its PC as they were, and the record of R82 names STACK and the berth. -/
structure StackHeld (s t : State) (p b : Ix4) : Prop where
  impounded : (t.bth p b).impounded = true
  stack : (t.bth p b).stack = (s.bth p b).stack
  rstack : (t.bth p b).rstack = (s.bth p b).rstack
  pc : (t.bth p b).pc = (s.bth p b).pc
  valid : (t.pol p).imp.valid = true
  cause : (t.pol p).imp.cause = 6
  master : (t.pol p).imp.master = b.toNat

theorem State.act_overStack {s : State} {p b : Ix4} {f : Dom → Dom} (hserves : (s.pol p).Serves)
    (hfree : (s.bth p b).impounded = false) (hvalid : (s.pol p).imp.valid = false)
    (hover : f (s.dom p) = (s.dom p).overStack b) : StackHeld s (s.act p f) p b := by
  obtain ⟨hwaits, hstanding⟩ := Dom.overStack_standing (d := s.dom p) hserves hfree
  have hpol : (s.act p f).pol p = ((s.dom p).overStack b).q := by
    rw [State.act_pol _ _ _ (by rw [hover, hwaits]; rfl), hover]
  rw [← hpol] at hstanding
  obtain ⟨mc, used, hfailing⟩ := Berth.failing_eq { ((s.dom p).q.standing b).berth with impounded := true }
  rw [hfailing] at hstanding
  have himp : ((s.act p f).pol p).imp = (s.pol p).imp.record (.berth b) 0 6 0 (s.pol p).wharf.tide true 0 :=
    congrArg Standing.imp hstanding
  rw [Impound.record, hvalid] at himp
  have hberth := congrArg Standing.berth hstanding
  exact {
    impounded := (congrArg Berth.impounded hberth :)
    stack := (congrArg Berth.stack hberth :)
    rstack := (congrArg Berth.rstack hberth :)
    pc := (congrArg Berth.pc hberth :)
    valid := (congrArg Impound.valid himp :)
    cause := (congrArg Impound.cause himp :)
    master := (congrArg Impound.master himp :) }

/-! ### Pushes that do not fit -/

/-- A berth that issues is not impounded, and no interrupt of it is taken first. -/
theorem Polder.issues_running {q : Polder} {b : Ix4} (h : q.issues b = true) :
    q.millsRun = true ∧ (q.berths.get b).run.isSome = true ∧ (q.berths.get b).impounded = false := by
  unfold Polder.issues at h
  simp only [Bool.and_eq_true, Bool.not_eq_true'] at h
  obtain ⟨⟨⟨⟨⟨⟨hmills, hrun⟩, hfree⟩, -⟩, -⟩, -⟩, -⟩ := h
  exact ⟨hmills, hrun, hfree⟩

theorem Dom.callTo_over {d : Dom} {b : Ix4} (dest len : Nat) (f : Berth → Berth) (hfull : (d.berth b).rstack.length = 544) :
    d.callTo b dest len f = d.overStack b := if_pos (Nat.le_of_eq hfull.symm)

theorem Dom.enterInterrupt_over {d : Dom} {b : Ix4} (src : Nat) (hfull : (d.berth b).rstack.length = 544) :
    d.enterInterrupt b src = d.overStack b := if_pos (Nat.le_of_eq hfull.symm)

/-- A command by which the berth pushes beyond a stack. -/
theorem StackHeld.command {i : Instr} {s t : State} {p b : Ix4} (h : StackHeld s t p b) (hexec : exec i s = .next t := by rfl) :
    ∃ t, exec i s = .next t ∧ (t.bth p b).impounded = true ∧ (t.bth p b).stack = (s.bth p b).stack ∧
      (t.bth p b).rstack = (s.bth p b).rstack ∧ (t.bth p b).pc = (s.bth p b).pc ∧ (t.pol p).imp.valid = true ∧
      (t.pol p).imp.cause = 6 ∧ (t.pol p).imp.master = b.toNat :=
  ⟨t, hexec, h.impounded, h.stack, h.rstack, h.pc, h.valid, h.cause, h.master⟩

/-- An instruction that replaces `n` cells by more, on a full operand stack. -/
theorem Dom.cells_full {d : Dom} {b : Ix4} {n m : Nat} (k : List Slot → List Slot → Dom) (hfull : (d.berth b).stack.length = 2080)
    (hn : n ≤ 2080) (hm : n < m) : d.cells b n m k = d.overStack b := by
  have hcap : stackCap = 2080 := rfl
  unfold Dom.cells
  dsimp only
  rw [hfull, if_neg (by omega), if_pos (by omega)]

theorem State.short_held {s : State} {p b : Ix4} {i : Short} (hserves : (s.pol p).Serves) (hvalid : (s.pol p).imp.valid = false)
    (hready : Ready s p b i.len) (hover : (s.dom p).shortEffect b false i = (s.dom p).overStack b) :
    StackHeld s (s.short p b i) p b := by
  obtain ⟨-, -, hfree⟩ := Polder.issues_running hready.1
  rw [State.short_ready hready]
  exact State.act_overStack hserves hfree hvalid hover

theorem State.shortMem_held {s : State} {p b : Ix4} {i : Short} (hserves : (s.pol p).Serves) (hvalid : (s.pol p).imp.valid = false)
    (hready : MemReady s p b i.len) (hover : (s.dom p).shortEffect b false i = (s.dom p).overStack b) :
    StackHeld s (s.shortMem p b i) p b := by
  obtain ⟨-, -, hfree⟩ := Polder.issues_running hready.1.1
  rw [State.shortMem_ready hready]
  exact State.act_overStack hserves hfree hvalid hover

/-! The short instructions that the statement names, as the cells that they replace. -/

theorem Dom.shortEffect_lit (d : Dom) (b : Ix4) (fed : Bool) (v : Cell) (w : Nat) : d.shortEffect b fed (.lit v w)
    = d.cells b 0 1 (fun _ rest => d.done b (1 + w) 1 fed (·.withStack (Slot.now v :: rest))) := rfl

theorem Dom.shortEffect_dup (d : Dom) (b : Ix4) (fed : Bool) : d.shortEffect b fed (.stack .dup)
    = d.cells b 1 2 (fun top rest =>
      let r := d.readSlot b (top.getD 0 (Slot.now 0))
      r.1.done b 1 1 fed (·.withStack (Slot.now r.2 :: top ++ rest))) := rfl

theorem Dom.shortEffect_depth (d : Dom) (b : Ix4) (fed : Bool) : d.shortEffect b fed (.stack .depth)
    = d.cells b 0 1 (fun _ rest => d.done b 1 1 fed (·.withStack (Slot.now (cell rest.length) :: rest))) := rfl

theorem Dom.shortEffect_ldp64 (d : Dom) (b : Ix4) (fed : Bool) : ∃ k, d.shortEffect b fed .ldp64 = d.cells b 1 2 k := by
  show ∃ k, d.loadOp b .d64 true fed = _
  unfold Dom.loadOp Dom.values
  exact ⟨_, rfl⟩

theorem State.lit_held {s : State} {p b : Ix4} {v : Cell} {w : Nat} (hserves : (s.pol p).Serves) (hvalid : (s.pol p).imp.valid = false)
    (hready : Ready s p b (1 + w)) (hfull : (s.bth p b).stack.length = 2080) : StackHeld s (s.short p b (.lit v w)) p b :=
  State.short_held hserves hvalid hready (by rw [Dom.shortEffect_lit]; exact Dom.cells_full _ hfull (by omega) (by omega))

theorem State.dup_held {s : State} {p b : Ix4} (hserves : (s.pol p).Serves) (hvalid : (s.pol p).imp.valid = false)
    (hready : Ready s p b 1) (hfull : (s.bth p b).stack.length = 2080) : StackHeld s (s.short p b (.stack .dup)) p b :=
  State.short_held hserves hvalid hready (by rw [Dom.shortEffect_dup]; exact Dom.cells_full _ hfull (by omega) (by omega))

theorem State.depth_held {s : State} {p b : Ix4} (hserves : (s.pol p).Serves) (hvalid : (s.pol p).imp.valid = false)
    (hready : Ready s p b 1) (hfull : (s.bth p b).stack.length = 2080) : StackHeld s (s.short p b (.stack .depth)) p b :=
  State.short_held hserves hvalid hready (by rw [Dom.shortEffect_depth]; exact Dom.cells_full _ hfull (by omega) (by omega))

theorem State.ldp64_held {s : State} {p b : Ix4} (hserves : (s.pol p).Serves) (hvalid : (s.pol p).imp.valid = false)
    (hready : MemReady s p b 1) (hfull : (s.bth p b).stack.length = 2080) : StackHeld s (s.shortMem p b .ldp64) p b := by
  obtain ⟨k, heffect⟩ := (s.dom p).shortEffect_ldp64 b false
  exact State.shortMem_held hserves hvalid hready (by rw [heffect]; exact Dom.cells_full _ hfull (by omega) (by omega))

theorem State.call_held {s : State} {p b : Ix4} {rel : Int} {w : Nat} (hserves : (s.pol p).Serves) (hvalid : (s.pol p).imp.valid = false)
    (hready : Ready s p b (1 + w)) (hfull : (s.bth p b).rstack.length = 544) : StackHeld s (s.short p b (.call rel w)) p b :=
  State.short_held hserves hvalid hready (Dom.callTo_over (d := s.dom p) _ _ _ hfull)

/-! ### Interrupts that are taken (R242) -/

/-- A berth whose next interrupt is taken between two instructions. -/
structure Polder.Interrupted (q : Polder) (b : Ix4) : Prop where
  mills : q.millsRun = true
  run : (q.berths.get b).run.isSome = true
  free : (q.berths.get b).impounded = false
  unhalted : (q.berths.get b).halted = false
  running : (q.berths.get b).phase = .running
  enabled : (q.berths.get b).ie = true
  pending : (q.berths.get b).pend &&& (q.berths.get b).mask ≠ 0

theorem Polder.millsRun_clocks {q : Polder} (h : q.millsRun = true) : q.clocks.stopped = false := by
  simp only [Polder.millsRun, Bool.and_eq_true, Bool.not_eq_true'] at h
  exact h.2

theorem Berth.takeable_isSome {x : Berth} (henabled : x.ie = true) (hpending : x.pend &&& x.mask ≠ 0) :
    ∃ src, x.takeable = some src := by
  rw [← Option.isSome_iff_exists, Berth.takeable, if_pos henabled, List.find?_isSome]
  refine Classical.byContradiction fun hnone => ?_
  refine hpending (BitVec.eq_of_getLsbD_eq fun i hi => ?_)
  have hi' := fun hbit => hnone ⟨i, List.mem_range.mpr hi, hbit⟩
  simpa using hi'

theorem Polder.Interrupted.interrupts {q : Polder} {b : Ix4} (h : q.Interrupted b) : ∃ src, q.interrupts b = some src := by
  obtain ⟨src, hsrc⟩ := Berth.takeable_isSome h.enabled h.pending
  refine ⟨src, ?_⟩
  simp [Polder.interrupts, h.mills, h.run, h.free, h.unhalted, h.running, hsrc]

/-- A berth between two instructions has stood in no stall. -/
theorem Dom.stall_running {d : Dom} {b : Ix4} (n : Nat) (h : (d.berth b).phase = .running) : d.stall b n = d := by
  have hstall : d.q.stall b n = d.q := by
    unfold Polder.stall
    rw [show (d.q.berths.get b).phase = .running from h]
  show ({ d with q := d.q.stall b n } : Dom) = d
  rw [hstall]

/-- An interrupt taken between two instructions is entered at once. -/
theorem Polder.Interrupted.exec {s : State} {p b : Ix4} (h : (s.pol p).Interrupted b) :
    ∃ src f, exec (.interruptEntry p ⟨b, 0⟩) s = .next (s.act p f) ∧ f (s.dom p) = (s.dom p).enterInterrupt b src := by
  obtain ⟨src, hsrc⟩ := h.interrupts
  refine ⟨src, (·.interrupt b 0), ?_, ?_⟩
  · show Host.Outcome.next (s.actOn p (·.interrupt b 0)) = _
    rw [State.actOn_runs _ _ _ (Polder.millsRun_clocks h.mills)]
  · show (s.dom p).interrupt b 0 = _
    unfold Dom.interrupt
    rw [show (s.dom p).q.interrupts b = some src from hsrc]
    dsimp only
    rw [Dom.stall_running (d := s.dom p) 0 h.running]

/-! ### Pushes that fit -/

/-- The berth is not impounded, its stacks have the given depths, and no violation is recorded. -/
structure StackFits (t : State) (p b : Ix4) (depth rdepth : Nat) : Prop where
  free : (t.bth p b).impounded = false
  stack : (t.bth p b).stack.length = depth
  rstack : (t.bth p b).rstack.length = rdepth
  valid : (t.pol p).imp.valid = false

theorem StackFits.command {i : Instr} {s t : State} {p b : Ix4} {depth rdepth : Nat} (h : StackFits t p b depth rdepth)
    (hexec : exec i s = .next t := by rfl) :
    ∃ t, exec i s = .next t ∧ (t.bth p b).impounded = false ∧ (t.bth p b).stack.length = depth ∧
      (t.bth p b).rstack.length = rdepth ∧ (t.pol p).imp.valid = false :=
  ⟨t, hexec, h.free, h.stack, h.rstack, h.valid⟩

/-- Mill cycles delivered to a berth change its counts, its flights and its shape entries (R227, R234). -/
theorem Polder.tick_standing (q : Polder) (b : Ix4) (n : Nat) (fed : Bool) :
    (q.tick b n fed).standing b = { q.standing b with berth := ((q.standing b).berth.tick n fed).settleShapes } :=
  (Polder.onBerth_standing _ b (fun x => (x.tick n fed).settleShapes) (fun _ => rfl)).trans
    (by rw [Polder.landUpTo_standing])

/-- The berth after `n` mill cycles: its counts go on, and the other changes are to its flights and its shape entries. -/
theorem Berth.tick_eq (x : Berth) (n : Nat) (fed : Bool) : ∃ used flights shapes pending, (x.tick n fed).settleShapes
    = { x with mc := x.mc + n, used := used, flights := flights, shapes := shapes, shapePend := pending } ∧ flights ⊆ x.flights :=
  ⟨_, _, _, _, rfl, fun _ hf => (List.mem_filter.mp hf).1⟩

/-- An instruction that retires leaves the stacks that `y` has, and records no violation. -/
theorem Retires.fits {s t : State} {p b : Ix4} {cost : Nat} {y : Berth} (h : Retires s t p b cost y) (hfree : y.impounded = false)
    (hvalid : (s.pol p).imp.valid = false) : StackFits t p b y.stack.length y.rstack.length := by
  have hpol : (t.pol p).standing b = ((s.pol p).after b cost y).standing b := by
    rw [h.frame, State.pol_onPol]
    rfl
  have hafter := hpol.trans (Polder.tick_standing _ b cost false)
  have hy : (((s.pol p).withBerth b y).standing b).berth = { y with flights := [] } := by
    unfold Polder.standing
    rw [Polder.withBerth_get]
  obtain ⟨used, flights, shapes, pending, htick, -⟩ := Berth.tick_eq { y with flights := [] } cost false
  rw [hy, htick] at hafter
  have hberth := congrArg Standing.berth hafter
  exact {
    free := (congrArg Berth.impounded hberth :).trans hfree
    stack := (congrArg (·.stack.length) hberth :)
    rstack := (congrArg (·.rstack.length) hberth :)
    valid := (congrArg (·.imp.valid) hafter :).trans hvalid }

theorem State.short_lit_retires {s : State} {p b : Ix4} {v : Cell} {w : Nat} (hready : Ready s p b (1 + w))
    (hroom : (s.bth p b).stack.length < 2080) : Retires s (s.short p b (.lit v w)) p b 1
      { (s.bth p b).past (1 + w) with stack := Slot.now v :: (s.bth p b).stack } := by
  have heffect : (s.dom p).shortEffect b false (.lit v w)
      = (s.dom p).done b (1 + w) 1 false (·.withStack (Slot.now v :: (s.bth p b).stack)) := by
    rw [Dom.shortEffect_lit, Dom.cells_split (s.dom p) b 0 1 _ [] _ rfl rfl hroom]
    rfl
  exact State.short_done_retires hready heffect

theorem State.short_dup_retires {s : State} {p b : Ix4} {z : Slot} {rest : List Slot} (hready : Ready s p b 1)
    (hstack : (s.bth p b).stack = z :: rest) (hlanded : z.lands ≤ (s.bth p b).mc) (hroom : rest.length + 2 ≤ 2080) :
    Retires s (s.short p b (.stack .dup)) p b 1 { (s.bth p b).past 1 with stack := Slot.now z.val :: z :: rest } := by
  have heffect : (s.dom p).shortEffect b false (.stack .dup)
      = (s.dom p).done b 1 1 false (·.withStack (Slot.now z.val :: z :: rest)) := by
    rw [Dom.shortEffect_dup, Dom.cells_split (s.dom p) b 1 2 _ [z] rest hstack rfl hroom]
    dsimp only [List.getD_cons_zero]
    rw [Dom.readSlot_landed _ _ _ hlanded]
    rfl
  exact State.short_done_retires hready heffect

/-- The berth with a return cell more on its return stack. -/
def Berth.returning (x : Berth) (c : Cell) : Berth := { x with rstack := Slot.now c :: x.rstack }

theorem State.short_call_retires {s : State} {p b : Ix4} {rel : Int} {w : Nat} (hready : Ready s p b (1 + w))
    (hroom : (s.bth p b).rstack.length < 544) (houtside : (s.bth p b).Outside ((s.bth p b).target (1 + w) rel).pc) :
    Retires s (s.short p b (.call rel w)) p b 2
      (Berth.returning { s.bth p b with pc := ((s.bth p b).target (1 + w) rel).pc % 2 ^ 17 % 2 ^ 17 }
        (returnCell ((s.bth p b).pc + (1 + w)) (s.bth p b).ie false)) := by
  have heffect : (s.dom p).shortEffect b false (.call rel w) = (s.dom p).jump b (((s.bth p b).target (1 + w) rel).pc % 2 ^ 17) 2
      (·.returning (returnCell ((s.bth p b).pc + (1 + w)) (s.bth p b).ie false)) :=
    (if_neg (Nat.not_le.mpr hroom)).trans (if_neg (by rw [Bool.not_eq_true]; exact houtside))
  exact State.short_jump_retires hready heffect

/-- The berth as it enters the interrupt of a source (R242). -/
def Berth.enter (y : Berth) (src : Nat) : Berth :=
  { y.returning (returnCell y.pc true true) with
    ie := false, pend := y.pend &&& ~~~(1#4 <<< src), phase := .running, longOp := false, pc := (y.ivbase + 16 * src) % 2 ^ 17 }

theorem Dom.enterInterrupt_room {d : Dom} {b : Ix4} (src : Nat) (hroom : (d.berth b).rstack.length < 544) :
    d.enterInterrupt b src = (d.tick b 3 false).onBerth b (·.enter src) := if_neg (Nat.not_le.mpr hroom)

theorem State.act_enterInterrupt {s : State} {p b : Ix4} {f : Dom → Dom} {src : Nat} (hfree : (s.bth p b).impounded = false)
    (hvalid : (s.pol p).imp.valid = false) (hroom : (s.bth p b).rstack.length < 544)
    (henter : f (s.dom p) = (s.dom p).enterInterrupt b src) :
    StackFits (s.act p f) p b (s.bth p b).stack.length ((s.bth p b).rstack.length + 1) := by
  rw [Dom.enterInterrupt_room (d := s.dom p) src hroom] at henter
  have hpol : (s.act p f).pol p = ((s.pol p).tick b 3 false).onBerth b (·.enter src) := by
    rw [State.act_pol _ _ _ (by rw [henter]; rfl), henter]
    rfl
  have hstanding : ((s.act p f).pol p).standing b = _ :=
    (congrArg (Polder.standing · b) hpol).trans (Polder.onBerth_standing _ b (·.enter src) (fun _ => rfl))
  obtain ⟨used, flights, shapes, pending, htick, -⟩ := Berth.tick_eq ((s.pol p).standing b).berth 3 false
  rw [Polder.tick_standing, htick] at hstanding
  have hberth := congrArg Standing.berth hstanding
  have hrstack : ((s.act p f).bth p b).rstack = Slot.now (returnCell (s.bth p b).pc true true) :: (s.bth p b).rstack :=
    (congrArg Berth.rstack hberth :)
  exact {
    free := (congrArg Berth.impounded hberth :).trans hfree
    stack := (congrArg (·.stack.length) hberth :)
    rstack := by rw [hrstack, List.length_cons]
    valid := (congrArg (·.imp.valid) hstanding :).trans hvalid }

theorem stackViolation_claim : Claim.StackViolation := by
  intro s p b i8 i16 hserves hvalid
  dsimp only
  refine ⟨fun hfull hlanded => ⟨fun hready => ?_, fun hready => ?_, fun hready => ?_⟩, fun hfull => ⟨fun hready => ?_, fun htaken => ?_⟩,
    fun hlast hlanded hready => ?_, fun hlast => ⟨fun hready houtside => ?_, fun htaken => ?_⟩⟩
  · exact ⟨(State.lit_held (v := 0) (w := 0) hserves hvalid hready hfull).command,
      (State.dup_held hserves hvalid hready hfull).command, (State.depth_held hserves hvalid hready hfull).command⟩
  · exact (State.ldp64_held hserves hvalid hready hfull).command
  · exact (State.lit_held (v := i8.signExtend 64) (w := 1) hserves hvalid hready hfull).command
  · exact (State.call_held (rel := i16.toInt) (w := 2) hserves hvalid hready hfull).command
  · obtain ⟨hmills, hrun, hfree, hunhalted, hrunning, henabled, hpending⟩ := htaken
    obtain ⟨src, f, hexec, henter⟩ := Polder.Interrupted.exec ⟨hmills, hrun, hfree, hunhalted, hrunning, henabled, hpending⟩
    rw [Dom.enterInterrupt_over (d := s.dom p) src hfull] at henter
    exact (State.act_overStack hserves hfree hvalid henter).command hexec
  · obtain ⟨-, -, hfree⟩ := Polder.issues_running hready.1
    obtain ⟨z, rest, hstack⟩ := List.exists_cons_of_length_pos (show 0 < (s.bth p b).stack.length by omega)
    have hlength : rest.length + 1 = 2079 := by rw [← hlast, hstack, List.length_cons]
    have hzero := (State.short_lit_retires (v := 0) (w := 0) hready (by omega)).fits hfree hvalid
    have hdup := (State.short_dup_retires hready hstack (hlanded z (by rw [hstack]; exact List.mem_cons_self)) (by omega)).fits hfree hvalid
    simp only [List.length_cons, hlast, hlength] at hzero hdup
    exact ⟨hzero.command, hdup.command⟩
  · obtain ⟨-, -, hfree⟩ := Polder.issues_running hready.1
    have hcall := (State.short_call_retires (rel := i16.toInt) (w := 2) hready (by omega) houtside).fits hfree hvalid
    rw [show 544 = (s.bth p b).rstack.length + 1 by omega]
    exact hcall.command
  · obtain ⟨hmills, hrun, hfree, hunhalted, hrunning, henabled, hpending⟩ := htaken
    obtain ⟨src, f, hexec, henter⟩ := Polder.Interrupted.exec ⟨hmills, hrun, hfree, hunhalted, hrunning, henabled, hpending⟩
    rw [show 544 = (s.bth p b).rstack.length + 1 by omega]
    exact (State.act_enterInterrupt hfree hvalid (by omega) henter).command hexec

end Sys2Proof.Machine

/-!
PROOF. Misaligned short accesses (R89, R228).
-/
namespace Sys2Proof.Machine

/-! ## Misaligned short accesses (R228) -/

/-- Where no write of the berth lands meanwhile, an instruction leaves the berth with `f` done and `cost` mill cycles later, and counts of
issued instructions. -/
theorem Dom.done_calm {d : Dom} {b : Ix4} {len cost : Nat} {f : Berth → Berth} (hcalm : (f ((d.berth b).past len)).Calm cost) :
    ∃ r, d.done b len cost false f = d.on (fun q => (q.withBerth b ((f ((d.berth b).past len)).later cost)).withRegs r) ∧
      ∀ o, ¬ d.q.issueReg b o → (d.done b len cost false f).q.stored o = d.q.stored o := by
  let y := f ((d.berth b).past len)
  obtain ⟨r, hr, hregs, -⟩ := (d.on (·.withBerth b y)).issued_spec b cost
  have htick : (d.q.withBerth b y).tick b cost false = d.q.withBerth b (y.later cost) := by
    rw [Polder.tick_calm (by simpa using hcalm), Polder.onBerth_eq, Polder.withBerth_get, Polder.withBerth_withBerth]
    rfl
  have hdone : d.done b len cost false f = (d.on (·.withBerth b y)).issued b cost false := rfl
  refine ⟨r, ?_, fun o ho => ?_⟩
  · rw [hdone, hr]
    show ({ d with q := ((d.q.withBerth b y).tick b cost false).withRegs r } : Dom) = _
    rw [htick]
    rfl
  · rw [hdone, hregs o ho]
    show ((d.q.withBerth b y).tick b cost false).stored o = _
    rw [htick]
    rfl

/-- Registers below the event counters in which no issued instruction of the berth is counted. -/
theorem Polder.not_issueReg_low {q : Polder} {b : Ix4} {o : Nat} (hlow : o < 0x200020) (hcount : o ≠ Off.berth b.toNat + 0x28)
    (hcount4 : o ≠ Off.berth b.toNat + 0x2C) : ¬ q.issueReg b o := by
  rintro (h | h | h)
  · exact hcount h
  · exact hcount4 h
  · exact q.not_countsAt_low 3 (some b) hlow h

/-- A W1C register that has no message, no record and no vector of its own (R519, R546). -/
structure PlainSticky (o : Nat) : Prop where
  vector : stickyVector o = none
  clk : o ≠ Off.clkSticky
  row : o ≠ Off.sluice .r + 4
  column : o ≠ Off.sluice .c + 4

theorem Dom.stick_plain (d : Dom) {o : Nat} (m : Nat) (h : PlainSticky o) :
    d.stick o m = if m - (m &&& d.q.stored o) = 0 then d else d.on (·.store o (d.q.stored o ||| m)) := by
  unfold Dom.stick
  simp only [h.vector, h.clk, h.row, h.column, if_false]

/-- Setting bits of such a register writes it alone. -/
theorem Dom.stick_plain_eq (d : Dom) {o : Nat} (m : Nat) (h : PlainSticky o) : ∃ r, d.stick o m = d.on (·.withRegs r) ∧
    ∀ o', o' ≠ o → (d.stick o m).q.stored o' = d.q.stored o' := by
  rw [d.stick_plain m h]
  split
  · exact ⟨d.q.regs, rfl, fun _ _ => rfl⟩
  · exact ⟨_, rfl, fun o' ho => d.q.stored_store_other _ ho⟩

theorem Dom.stick_plain_bit (d : Dom) {o m i : Nat} (h : PlainSticky o) (hi : i < 32) (hm : m.testBit i = true) :
    bitOf ((d.stick o m).q.stored o) i = true := by
  rw [bitOf_eq_testBit, d.stick_plain m h]
  split
  · rename_i hnew
    have hall : m &&& d.q.stored o = m := Nat.le_antisymm Nat.and_le_left (Nat.sub_eq_zero_iff_le.mp hnew)
    rw [← hall, Nat.testBit_and] at hm
    exact (Bool.and_eq_true_iff.mp hm).2
  · show (Polder.stored _ o).testBit i = true
    rw [Dom.on_q, Polder.stored_store_same, Nat.testBit_mod_two_pow, Nat.testBit_or, hm]
    simp [hi]

theorem berthSticky_plain (b : Ix4) : PlainSticky (Off.berth b.toNat + 0x18) := by
  cases b <;> exact ⟨by decide, by decide, by decide, by decide⟩

/-- What a misaligned short access leaves (R89, R228): the entry of the access log, its count, and BADALIGN_SEEN. -/
theorem Dom.badAlign_spec (d : Dom) (b : Ix4) (a : Nat) :
    (∃ r, d.badAlign b a = d.on (fun q => ({ q with imp := { q.imp with logCause := 2, logMaster := b.toNat, logAddr := a } } : Polder).withRegs r)) ∧
      bitOf ((d.badAlign b a).q.stored (Off.berth b.toNat + 0x18)) 1 = true ∧
      (d.badAlign b a).q.counter Off.accLogCount = (d.q.counter Off.accLogCount + 1) % 2 ^ 48 := by
  have hplain := berthSticky_plain b
  obtain ⟨r, heq, hregs⟩ := (d.accLog (.berth b) .badalign a).stick_plain_eq 2 hplain
  refine ⟨⟨r, heq⟩, Dom.stick_plain_bit _ hplain (by decide) (by decide), ?_⟩
  have hlow : Off.accLogCount ≠ Off.berth b.toNat + 0x18 := by cases b <;> decide
  have hhigh : Off.accLogCount + 4 ≠ Off.berth b.toNat + 0x18 := by cases b <;> decide
  have hkept : (d.badAlign b a).q.counter Off.accLogCount = (d.accLog (.berth b) .badalign a).q.counter Off.accLogCount := by
    unfold Polder.counter Dom.badAlign
    rw [hregs _ hlow, hregs _ hhigh]
  rw [hkept]
  exact Polder.counter_bump _ _ 1

/-- What R228 says of a misaligned short access of the berth to address `a`: it is logged and marked, the berth goes on, memory stays. -/
def BadAlignLogged (s t : State) (p b : Ix4) (a : Nat) : Prop :=
  (t.pol p).mem = (s.pol p).mem ∧ bitOf ((t.pol p).stored (Off.berth b.toNat + 0x18)) 1 = true ∧
    (t.pol p).imp = { (s.pol p).imp with logCause := 2, logMaster := b.toNat, logAddr := a } ∧
    (t.pol p).counter Off.accLogCount = ((s.pol p).counter Off.accLogCount + 1) % 2 ^ 48 ∧ (t.bth p b).impounded = false

/-- An access that is found misaligned: the instruction is done with `st` on the stack. -/
theorem State.act_badAlign {s : State} {p b : Ix4} {f : Dom → Dom} {a len : Nat} {st : List Slot} (hfree : (s.bth p b).impounded = false)
    (hcalm : (s.bth p b).Calm 1) (heffect : f (s.dom p) = ((s.dom p).badAlign b a).done b len 1 false (·.withStack st)) :
    ((s.act p f).bth p b).stack = st ∧ BadAlignLogged s (s.act p f) p b a := by
  obtain ⟨⟨r, heq⟩, hbit, hcount⟩ := (s.dom p).badAlign_spec b a
  have hberth : ((s.dom p).badAlign b a).berth b = s.bth p b := by
    rw [heq]
    rfl
  obtain ⟨r', hdone, hregs⟩ := Dom.done_calm (d := (s.dom p).badAlign b a) (b := b) (len := len) (cost := 1) (f := (·.withStack st))
    (by rw [hberth]; exact hcalm)
  have hpol : (s.act p f).pol p = (((s.dom p).badAlign b a).done b len 1 false (·.withStack st)).q := by
    rw [State.act_pol _ _ _ (by rw [heffect, hdone, heq]; rfl), heffect]
  have hstored (o : Nat) (hlow : o < 0x200020) (hcount : o ≠ Off.berth b.toNat + 0x28) (hcount4 : o ≠ Off.berth b.toNat + 0x2C) :
      ((s.act p f).pol p).stored o = ((s.dom p).badAlign b a).q.stored o := by
    rw [hpol]
    exact hregs o (Polder.not_issueReg_low hlow hcount hcount4)
  have hberth' : (s.act p f).bth p b = ((s.bth p b).past len |>.withStack st).later 1 := by
    show ((s.act p f).pol p).berths.get b = _
    rw [hpol, hdone, hberth]
    exact Polder.withBerth_get _ b _
  have hkept : ((s.act p f).pol p).mem = (s.pol p).mem ∧
      ((s.act p f).pol p).imp = { (s.pol p).imp with logCause := 2, logMaster := b.toNat, logAddr := a } := by
    rw [hpol, hdone, heq]
    exact ⟨rfl, rfl⟩
  obtain ⟨hmem, himp⟩ := hkept
  refine ⟨by rw [hberth']; rfl, hmem, ?_, himp, ?_, by rw [hberth']; exact hfree⟩
  · rw [hstored _ (by cases b <;> decide) (by cases b <;> decide) (by cases b <;> decide)]
    exact hbit
  · unfold Polder.counter at hcount ⊢
    rw [hstored Off.accLogCount (by decide) (by cases b <;> decide) (by cases b <;> decide),
      hstored (Off.accLogCount + 4) (by decide) (by cases b <;> decide) (by cases b <;> decide)]
    exact hcount

/-- A misaligned load: all-ones in the place of the address, under the next address for LDP64. -/
theorem Dom.loadOp_misaligned {d : Dom} {b : Ix4} {c : Cell} {rest : List Slot} (op : LoadOp) (incr : Bool)
    (hholds : Holds (d.berth b) [c] rest) (hroom : rest.length < 2079) (hodd : c.toNat % 2 ^ 48 % op.width ≠ 0) :
    d.loadOp b op incr false = (d.badAlign b (c.toNat % 2 ^ 48)).done b 1 1 false
      (·.withStack ((if incr then [Slot.now (c + 8)] else []) ++ Slot.now (-1) :: rest)) := by
  have hfits : rest.length + (if incr then 2 else 1) ≤ stackCap := by
    have hcap : stackCap = 2080 := rfl
    split <;> omega
  unfold Dom.loadOp
  rw [d.values_split b 1 _ _ [c] rest hholds rfl hfits]
  exact if_pos hodd

/-- A misaligned store: dropped, with the next address left for STP64. -/
theorem Dom.storeOp_misaligned {d : Dom} {b : Ix4} {v c : Cell} {rest : List Slot} (w : Nat) (incr : Bool)
    (hholds : Holds (d.berth b) [v, c] rest) (hroom : rest.length < 2079) (hodd : c.toNat % 2 ^ 48 % w ≠ 0) :
    d.storeOp b w incr false = (d.badAlign b (c.toNat % 2 ^ 48)).done b 1 1 false
      (·.withStack ((if incr then [Slot.now (c + 8)] else []) ++ rest)) := by
  have hfits : rest.length + (if incr then 1 else 0) ≤ stackCap := by
    have hcap : stackCap = 2080 := rfl
    split <;> omega
  unfold Dom.storeOp
  rw [d.values_split b 2 _ _ [v, c] rest hholds rfl hfits]
  exact if_pos hodd

/-- A command that is a misaligned short access to address `a` and leaves the stack `st`. -/
theorem exec_misaligned {i : Instr} {sh : Short} {s : State} {p b : Ix4} {a : Nat} {st : List Slot} (hready : MemReady s p b 1)
    (hcalm : (s.bth p b).Calm 1)
    (heffect : (s.dom p).shortEffect b false sh = ((s.dom p).badAlign b a).done b 1 1 false (·.withStack st))
    (hlen : sh.len = 1 := by rfl) (hmeans : exec i s = .next (s.shortMem p b sh) := by rfl) :
    ∃ t, exec i s = .next t ∧ (t.bth p b).stack = st ∧ BadAlignLogged s t p b a := by
  obtain ⟨-, -, hfree⟩ := Polder.issues_running hready.1.1
  refine ⟨_, hmeans, ?_⟩
  rw [State.shortMem_ready (by rw [hlen]; exact hready)]
  exact State.act_badAlign hfree hcalm heffect

theorem exec_load_misaligned {i : Instr} {s : State} {p b : Ix4} {c : Cell} {rest : List Slot} (hready : MemReady s p b 1)
    (hcalm : (s.bth p b).Calm 1) (hholds : Holds (s.bth p b) [c] rest) (hroom : rest.length < 2079) (op : LoadOp)
    (hmeans : exec i s = .next (s.shortMem p b (.load op)) := by rfl) (hodd : c.toNat % 2 ^ 48 % op.width ≠ 0) :
    ∃ t, exec i s = .next t ∧ (t.bth p b).stack = [] ++ Slot.mk (BitVec.allOnes 64) 0 :: rest ∧
      BadAlignLogged s t p b (c.toNat % 2 ^ 48) :=
  exec_misaligned (sh := .load op) hready hcalm (Dom.loadOp_misaligned (d := s.dom p) op false hholds hroom hodd) rfl hmeans

theorem exec_store_misaligned {i : Instr} {s : State} {p b : Ix4} {v c : Cell} {rest : List Slot} (hready : MemReady s p b 1)
    (hcalm : (s.bth p b).Calm 1) (hholds : Holds (s.bth p b) [v, c] rest) (hroom : rest.length < 2079) (w : Nat)
    (hmeans : exec i s = .next (s.shortMem p b (.store w)) := by rfl) (hodd : c.toNat % 2 ^ 48 % w ≠ 0) :
    ∃ t, exec i s = .next t ∧ (t.bth p b).stack = [] ++ rest ∧ BadAlignLogged s t p b (c.toNat % 2 ^ 48) :=
  exec_misaligned (sh := .store w) hready hcalm (Dom.storeOp_misaligned (d := s.dom p) w false hholds hroom hodd) rfl hmeans

theorem misalignedShort_claim : Claim.MisalignedShort := by
  intro s p b v c rest hready hcalm hroom
  refine ⟨fun hholds => ?_, fun hholds => ?_⟩
  · simp only [List.forall_mem_cons]
    exact ⟨exec_load_misaligned hready hcalm hholds hroom .d64, exec_load_misaligned hready hcalm hholds hroom .u32,
      exec_load_misaligned hready hcalm hholds hroom .s32, exec_load_misaligned hready hcalm hholds hroom .u16,
      exec_load_misaligned hready hcalm hholds hroom .s16, fun hodd =>
      exec_misaligned (sh := .ldp64) hready hcalm (Dom.loadOp_misaligned (d := s.dom p) .d64 true hholds hroom hodd), List.forall_mem_nil _⟩
  · simp only [List.forall_mem_cons]
    exact ⟨exec_store_misaligned hready hcalm hholds hroom 8, exec_store_misaligned hready hcalm hholds hroom 4,
      exec_store_misaligned hready hcalm hholds hroom 2, fun hodd =>
      exec_misaligned (sh := .stp64) hready hcalm (Dom.storeOp_misaligned (d := s.dom p) 8 true hholds hroom hodd), List.forall_mem_nil _⟩

/-! ## O11 -/

/-- Settles O11: a push that does not fit goes through `Dom.overStack` and holds the berth; one that fits retires; a misaligned access
retires after its entry in the access log. -/
theorem stacksAndAlignment : Obligations.StacksAndAlignment := ⟨stackViolation_claim, misalignedShort_claim⟩

end Sys2Proof.Machine

/-!
PROOF. SIGNAL and reads of BERTH_SIGNAL, POKE, and the entry of an interrupt (R241, R242, R254, R256).
-/
namespace Sys2Proof.Machine

/-! ## SIGNAL (R256) -/

theorem Plic.event_edge {c : Plic} {n : Nat} (hn : n < 35) (hclaimed : c.claimed.getLsbD n = false) :
    (c.event n).edge.getLsbD n = true := by
  unfold Plic.event
  rw [hclaimed, if_neg Bool.false_ne_true]
  simp [hn]

/-- SIGNAL writes the berth's signal and raises its source; its message and its record write no other part of the state that is read here. -/
theorem Dom.signalOp_spec (d : Dom) (b : Ix4) (v : Byte) :
    (d.signalOp b v).waits = d.waits ∧ (d.signalOp b v).berth b = { d.berth b with sigVal := v, sigValid := true } ∧
      (d.signalOp b v).q.mem = d.q.mem ∧ (d.signalOp b v).q.clerks.plic = d.q.clerks.plic.event (20 + b.toNat) := by
  let d1 := d.onBerth b (fun x => { x with sigVal := v, sigValid := true })
  have hmsix := d1.msix_noted (24 + b.toNat)
  have hlog := ((d1.msix (24 + b.toNat)).source (20 + b.toNat)).log_noted 0x0A b.toNat (natLe 1 v.toNat)
  refine ⟨hlog.waits.trans hmsix.waits, ?_, hlog.mem.trans hmsix.mem, ?_⟩
  · have hberths : (d.signalOp b v).q.berths = d1.q.berths := hlog.berths.trans hmsix.berths
    show (d.signalOp b v).q.berths.get b = _
    rw [hberths]
    exact Polder.onBerth_get _ b _
  · have hclerks := congrArg Clerks.plic hlog.clerks
    refine hclerks.trans ?_
    show (d1.msix (24 + b.toNat)).q.clerks.plic.event (20 + b.toNat) = _
    rw [hmsix.clerks]
    rfl

theorem Dom.shortEffect_signal {d : Dom} {b : Ix4} {c : Cell} {rest : List Slot} (hholds : Holds (d.berth b) [c] rest)
    (hfits : rest.length ≤ 2080) :
    d.shortEffect b false .signal = (d.done b 1 1 false (·.withStack rest)).signalOp b (c.setWidth 8) := by
  have hvalues : d.shortEffect b false .signal = d.values b 1 0 (fun d' vs rest =>
      (d'.done b 1 1 false (·.withStack rest)).signalOp b ((vs.getD 0 0).setWidth 8)) := rfl
  rw [hvalues, d.values_split b 1 0 _ [c] rest hholds rfl hfits]
  rfl

theorem exec_signal {s : State} {p b : Ix4} {c : Cell} {rest : List Slot} (hready : Ready s p b 1) (hcalm : (s.bth p b).Calm 1)
    (hholds : Holds (s.bth p b) [c] rest) (hfits : rest.length ≤ 2080) :
    ∃ t, exec (.signal p b) s = .next t ∧ (t.bth p b).sigVal = BitVec.ofNat 8 c.toNat ∧ (t.bth p b).sigValid = true ∧
      (t.bth p b).stack = rest ∧ (t.pol p).mem = (s.pol p).mem ∧
      ((s.pol p).clerks.plic.claimed.getLsbD (20 + b.toNat) = false → (t.pol p).clerks.plic.edge.getLsbD (20 + b.toNat) = true) := by
  obtain ⟨r, hdone, -⟩ := Dom.done_calm (d := s.dom p) (b := b) (len := 1) (cost := 1) (f := (·.withStack rest)) hcalm
  obtain ⟨hwaits, hberth, hmem, hplic⟩ := ((s.dom p).done b 1 1 false (·.withStack rest)).signalOp_spec b (c.setWidth 8)
  have heffect := Dom.shortEffect_signal (d := s.dom p) hholds hfits
  have hpol : (s.short p b .signal).pol p = (((s.dom p).done b 1 1 false (·.withStack rest)).signalOp b (c.setWidth 8)).q := by
    rw [State.short_ready hready, State.act_pol _ _ _ (by rw [heffect, hwaits, hdone]; rfl), heffect]
  have hbth : (s.short p b .signal).bth p b = { (((s.bth p b).past 1).withStack rest).later 1 with
      sigVal := c.setWidth 8, sigValid := true } := by
    show ((s.short p b .signal).pol p).berths.get b = _
    rw [hpol]
    refine hberth.trans ?_
    rw [hdone, Dom.berth, Dom.on_q, Polder.withRegs_get, Polder.withBerth_get]
    rfl
  refine ⟨s.short p b .signal, rfl, ?_, by rw [hbth], by rw [hbth]; rfl, ?_, fun hclaimed => ?_⟩
  · rw [hbth, BitVec.ofNat_toNat]
  · rw [hpol, hmem, hdone]
    rfl
  · rw [hpol, hplic, hdone]
    exact Plic.event_edge (by cases b <;> decide) hclaimed

/-! ## Reads of BERTH_SIGNAL (R254, R256) -/

/-- A master that holds no half of a pair commits nothing before its access (R69). -/
theorem Dom.flushCause_free {d : Dom} {m : Master} (eng : Nat) (h : d.q.holders.find? (fun h => decide (h.master = m)) = none) :
    d.flushCause m eng = (d, none) := by
  unfold Dom.flushCause
  rw [h]

theorem Dom.cutOff_self (d : Dom) (m : Master) : d.cutOff d.q m = false := by
  unfold Dom.cutOff
  cases d.q.isImpounded m <;> rfl

theorem signalAt_berth (b : Ix4) : signalAt (Off.berth b.toNat + 0x14) = some b := by cases b <;> decide

/-- A 32-bit read of BERTH_SIGNAL that no fence refuses clears VALID. -/
theorem Dom.regRd_signal {d : Dom} {m : Master} {b : Ix4} (eng : Nat) (hfree : d.q.holders.find? (fun h => decide (h.master = m)) = none)
    (hfence : d.q.readFenced m (Off.berth b.toNat + 0x14) 4 = false) :
    (d.regRd m eng (Off.berth b.toNat + 0x14) 4).1 = d.onBerth b (fun x => { x with sigValid := false }) := by
  have hinner : isInner (Off.berth b.toNat + 0x14) = false := by cases b <;> decide
  have hformed : malformedAs (Off.berth b.toNat + 0x14) 4 = none := by cases b <;> decide
  have hpair : isPair (Off.berth b.toNat + 0x14) = false := by cases b <;> decide
  have hmsix : isMsix (Off.berth b.toNat + 0x14) = false := by cases b <;> decide
  have hspec : (regSpec (Off.berth b.toNat + 0x14)).isNone = false := by cases b <;> decide
  have hword : (d.readWord m (Off.berth b.toNat + 0x14)).1 = d.onBerth b (fun x => { x with sigValid := false }) := by
    unfold Dom.readWord
    simp only [hmsix, hspec, signalAt_berth]
    rfl
  unfold Dom.regRd
  simp only [Dom.flushCause_free eng hfree, Dom.cutOff_self, hinner, hformed]
  simp only [Dom.readAll, Dom.readHalf, hfence, hpair]
  exact hword

/-- A read of BERTH_SIGNAL by a master that may issue it: beside VALID, it changes at most the host's completion and its count. -/
theorem Dom.masterRead_signal {d : Dom} {m : Master} {b : Ix4} (hissues : d.q.mayIssue m false = true)
    (hfree : d.q.holders.find? (fun h => decide (h.master = m)) = none)
    (hfence : d.q.readFenced m (Off.berth b.toNat + 0x14) 4 = false) :
    (d.masterRead m (Off.berth b.toNat + 0x14) 4).waits = d.waits ∧
      (d.masterRead m (Off.berth b.toNat + 0x14) 4).berth b = { d.berth b with sigValid := false } := by
  have hread := Dom.regRd_signal (engineOf m) hfree hfence
  have hberth : (d.onBerth b (fun x => { x with sigValid := false })).berth b = { d.berth b with sigValid := false } :=
    Dom.berth_onBerth _ _ _
  unfold Dom.masterRead
  rw [if_pos hissues]
  simp only [hread]
  split
  · split
    · exact ⟨rfl, hberth⟩
    · refine ⟨Dom.bump_waits _ _ _, ?_⟩
      rw [Dom.berth, (Dom.bump_noted _ _ _).berths]
      exact hberth
  · exact ⟨rfl, hberth⟩

/-- A berth after an action that waits for nothing. -/
theorem State.bth_act {s : State} {p b : Ix4} {f : Dom → Dom} (h : (f (s.dom p)).waits = false) :
    (s.act p f).bth p b = (f (s.dom p)).berth b := by
  unfold State.bth
  rw [State.act_pol _ _ _ h]
  rfl

theorem exec_berthSignalRead_alone (p b : Ix4) (m : Master) (s : State) :
    exec (.berthSignalRead p b m none) s = .next (s.actOn p (·.masterRead m (Off.berth b.toNat + 0x14) 4)) := rfl

theorem exec_berthSignalRead_signalled (p b : Ix4) (m : Master) (v : Byte) (s : State) :
    exec (.berthSignalRead p b m (some v)) s = .next (s.actOn p (fun d =>
      (d.masterRead m (Off.berth b.toNat + 0x14) 4).onBerth b (fun x => { x with sigVal := v, sigValid := true }))) := rfl

theorem signalResults_claim : Claim.SignalResults := by
  intro s p b c v rest
  refine ⟨exec_signal, fun m hissues hclocks hfree hfence => ?_⟩
  obtain ⟨hwaits, hberth⟩ := Dom.masterRead_signal (d := s.dom p) (b := b) hissues hfree hfence
  refine ⟨⟨_, exec_berthSignalRead_alone p b m s, ?_⟩, ⟨_, exec_berthSignalRead_signalled p b m v s, ?_⟩⟩
  · rw [State.actOn_runs _ _ _ hclocks, State.bth_act (f := (·.masterRead m (Off.berth b.toNat + 0x14) 4)) hwaits, hberth]
    rfl
  · rw [State.actOn_runs _ _ _ hclocks, State.bth_act (f := fun d => (d.masterRead m (Off.berth b.toNat + 0x14) 4).onBerth b (fun x => { x with sigVal := v, sigValid := true })) hwaits, Dom.berth_onBerth, hberth]
    rfl

/-! ## POKE (R241) -/

/-- The fences that an access meets are those of the fence registers: a count in another pair changes nothing of it. -/
theorem Polder.fenced_bump_hostRx (q : Polder) (n k a len : Nat) (w : Bool) :
    (q.bump Off.hostRx n).fenced k a len w = q.fenced k a len w := by
  have hkept (o : Nat) (ho : 0x120100 ≤ o) : (q.bump Off.hostRx n).stored o = q.stored o :=
    q.stored_bump_other n (by simp only [Off.hostRx]; omega) (by simp only [Off.hostRx]; omega)
  have hbase (i : Nat) : (q.bump Off.hostRx n).stored64 (Off.fence i) = q.stored64 (Off.fence i) := by
    simp only [Polder.stored64]
    rw [hkept _ (by simp only [Off.fence]; omega), hkept _ (by simp only [Off.fence]; omega)]
  have hlast (i : Nat) : (q.bump Off.hostRx n).stored64 (Off.fence i + 8) = q.stored64 (Off.fence i + 8) := by
    simp only [Polder.stored64]
    rw [hkept _ (by simp only [Off.fence]; omega), hkept _ (by simp only [Off.fence]; omega)]
  have hctrl (i : Nat) : (q.bump Off.hostRx n).stored (Off.fence i + 0x10) = q.stored (Off.fence i + 0x10) :=
    hkept _ (by simp only [Off.fence]; omega)
  have hon : (q.bump Off.hostRx n).fenceOn = q.fenceOn := by
    funext i
    simp only [Polder.fenceOn, hctrl]
  simp only [Polder.fenced, Polder.fenceTouches, Polder.fencePermits, hon, hbase, hlast, hctrl]

/-- Nor does a count change a lock. -/
theorem Polder.lockBreach_bump (q : Polder) (o n : Nat) (m : Master) (a : Nat) : (q.bump o n).lockBreach m a = q.lockBreach m a := by
  rw [Polder.bump_eq]
  generalize (q.bump o n).regs = r
  rfl

/-- A register that has only write-only fields, and that no write but its own acts on. -/
structure WriteOnly (o : Nat) : Prop where
  spec : ∃ m, regSpec o = some { wo := m }
  notImp : o ≠ Off.impValid
  notUe : o ≠ 0x10008C
  notPlic : ¬ (0x150000 ≤ o ∧ o < 0x160000)

theorem Polder.fieldWrite_writeOnly (q : Polder) {o : Nat} (h : WriteOnly o) (v keep : Nat) (idle boundary charter : Bool) :
    ∃ r, q.fieldWrite o v keep idle boundary charter = q.withRegs r := by
  obtain ⟨m, hspec⟩ := h.spec
  unfold Polder.fieldWrite
  simp only [hspec, ne_eq, not_true_eq_false, false_and, and_false, if_false]
  exact ⟨_, rfl⟩

/-- No field of such a register keeps a value (R10). -/
theorem Polder.putFields_writeOnly (q : Polder) {o : Nat} (h : WriteOnly o) (v keep w : Nat) (idle boundary charter : Bool) :
    ∃ r, ((q.fieldWrite o v keep idle boundary charter).typedClear o w).lostIncrement o 0 = q.withRegs r := by
  obtain ⟨k, hspec⟩ := h.spec
  obtain ⟨r, hfields⟩ := q.fieldWrite_writeOnly h v keep idle boundary charter
  refine ⟨r, ?_⟩
  have hlost : (q.withRegs r).lostIncrement o 0 = q.withRegs r := by
    unfold Polder.lostIncrement
    rw [hspec]
    rfl
  rw [hfields, Polder.typedClear, if_neg h.notImp, if_neg (fun hue => h.notUe hue.1), hlost]

/-- A word written there has only what it sets off. -/
theorem Dom.putWord_writeOnly (d : Dom) (m : Option Master) {o : Nat} (h : WriteOnly o) (v : Nat) :
    ∃ r, d.putWord m o v 0 0 false false = (d.on (·.withRegs r)).sideEffects m o v (d.q.stored o) := by
  obtain ⟨k, hspec⟩ := h.spec
  have hstick : d.stick o 0 = d := if_pos (Nat.zero_sub _)
  unfold Dom.putWord
  simp only [hspec, if_neg h.notPlic, ite_self, Nat.and_zero, hstick]
  generalize popcount 32 0 = n
  obtain ⟨r, hfields⟩ := (d.bump Off.setwinCount n).q.putFields_writeOnly h v 0 (without 0 0)
    (false || (d.bump Off.setwinCount n).q.idleFor o) false false
  refine ⟨r, ?_⟩
  rw [← Dom.bump_withRegs d Off.setwinCount n r]
  unfold Dom.on
  dsimp only
  rw [hfields]

theorem berthPoke_writeOnly (b : Ix4) : WriteOnly (Off.berth b.toNat + 0x10) where
  spec := ⟨1, by cases b <;> decide⟩
  notImp := by cases b <;> decide
  notUe := by cases b <;> decide
  notPlic := by cases b <;> decide

/-- BERTH_POKE raises POKE, source 1, while the berth runs. -/
theorem Dom.sideEffects_poke (d : Dom) (m : Option Master) (b : Ix4) {v : Nat} (old : Nat) (hbit : bitOf v 0 = true) :
    d.sideEffects m (Off.berth b.toNat + 0x10) v old = d.onBerth b (fun x => if x.running.isSome then x.raise 1 else x) := by
  unfold Dom.sideEffects
  cases b <;> exact if_pos hbit

/-- A commit to a 32-bit register that every check of R59, R76, R77 and R88 passes. -/
theorem Dom.commit_poke {d : Dom} {m : Master} {b : Ix4} (eng v : Nat) (hboot : d.q.bootWrites = false)
    (hfence : m ≠ .watchhouse → d.q.fenced (masterCode m) (winBase + (Off.berth b.toNat + 0x10)) 4 true = false)
    (hlock : d.q.lockBreach m (Off.berth b.toNat + 0x10) = false) :
    (d.commit m eng (Off.berth b.toNat + 0x10) 4 v Coincide.none).1 =
      d.putWord (some m) (Off.berth b.toNat + 0x10) (v % 2 ^ 32) 0 0 false false := by
  have hmsix : isMsix (Off.berth b.toNat + 0x10) = false := by cases b <;> decide
  have hspec : regSpec (Off.berth b.toNat + 0x10) = some { wo := 1 } := by cases b <;> decide
  have hmark : Off.berth b.toNat + 0x10 ≠ Off.mark := by cases b <;> decide
  have hmark4 : Off.berth b.toNat + 0x10 ≠ Off.mark + 4 := by cases b <;> decide
  have hwords : commitWords (Off.berth b.toNat + 0x10) 4 = [Off.berth b.toNat + 0x10] := rfl
  have hrefused : (!decide (m = .watchhouse) && d.q.fenced (masterCode m) (winBase + (Off.berth b.toNat + 0x10)) 4 true) = false := by
    by_cases hm : m = .watchhouse
    · simp [hm]
    · simp [hfence hm]
  unfold Dom.commit
  simp only [hmsix, hspec, hboot, hrefused, hwords, List.any_cons, List.any_nil, hlock, if_neg hmark, if_neg hmark4]
  rfl

theorem Dom.regWrite_poke {d : Dom} {m : Master} {b : Ix4} (eng v : Nat) (hfree : d.q.holders.find? (fun h => decide (h.master = m)) = none) :
    (d.regWrite m eng (Off.berth b.toNat + 0x10) 4 v Coincide.none).1 =
      (d.commit m eng (Off.berth b.toNat + 0x10) 4 (v % 2 ^ 32) Coincide.none).1 := by
  have hinner : isInner (Off.berth b.toNat + 0x10) = false := by cases b <;> decide
  have hformed : malformedAs (Off.berth b.toNat + 0x10) 4 = none := by cases b <;> decide
  have hpair : isPair (Off.berth b.toNat + 0x10) = false := by cases b <;> decide
  unfold Dom.regWrite
  simp only [Dom.flushCause_free eng hfree, Dom.cutOff_self, hinner, hformed, hpair]
  rfl

/-- A write of 1 to BERTH_POKE, past the checks of the register window. -/
theorem Dom.regWrite_poke_spec {d : Dom} {m : Master} {b : Ix4} (eng : Nat) {v : Nat}
    (hfree : d.q.holders.find? (fun h => decide (h.master = m)) = none) (hboot : d.q.bootWrites = false)
    (hfence : m ≠ .watchhouse → d.q.fenced (masterCode m) (winBase + (Off.berth b.toNat + 0x10)) 4 true = false)
    (hlock : d.q.lockBreach m (Off.berth b.toNat + 0x10) = false) (hbit : bitOf (v % 2 ^ 32 % 2 ^ 32) 0 = true) :
    ∃ r, (d.regWrite m eng (Off.berth b.toNat + 0x10) 4 v Coincide.none).1 =
      (d.on (·.withRegs r)).onBerth b (fun x => if x.running.isSome then x.raise 1 else x) := by
  obtain ⟨r, hput⟩ := d.putWord_writeOnly (some m) (berthPoke_writeOnly b) (v % 2 ^ 32 % 2 ^ 32)
  refine ⟨r, ?_⟩
  rw [Dom.regWrite_poke eng v hfree, Dom.commit_poke eng _ hboot hfence hlock, hput, Dom.sideEffects_poke _ _ _ _ hbit]

/-- By whichever master it is written: the host's payload is counted, and the checks are those of the state before. -/
theorem Dom.masterWrite_poke {d : Dom} {m : Master} {b : Ix4} {v : Nat} (hissues : d.q.mayIssue m true = true)
    (hfree : d.q.holders.find? (fun h => decide (h.master = m)) = none) (hboot : d.q.bootWrites = false)
    (hfence : m ≠ .watchhouse → d.q.fenced (masterCode m) (winBase + (Off.berth b.toNat + 0x10)) 4 true = false)
    (hlock : d.q.lockBreach m (Off.berth b.toNat + 0x10) = false) (hbit : bitOf (v % 2 ^ 32 % 2 ^ 32) 0 = true) :
    ∃ r, d.masterWrite m (Off.berth b.toNat + 0x10) 4 v Coincide.none =
      (d.on (·.withRegs r)).onBerth b (fun x => if x.running.isSome then x.raise 1 else x) := by
  have hlow : Off.berth b.toNat + 0x10 < 0x400000 := by cases b <;> decide
  unfold Dom.masterWrite
  rw [if_pos hissues]
  dsimp only
  rw [if_neg (fun hhigh => absurd hhigh.2 (by omega)), if_pos hlow]
  split
  · obtain ⟨r, hwrite⟩ := Dom.regWrite_poke_spec (d := d.bump Off.hostRx (ceilDiv 4 4 * 4)) (b := b) (engineOf m) hfree hboot
      (fun hm => (Polder.fenced_bump_hostRx _ _ _ _ _ _).trans (hfence hm)) ((Polder.lockBreach_bump _ _ _ _ _).trans hlock) hbit
    exact ⟨r, hwrite.trans (by rw [Dom.bump_withRegs])⟩
  · exact Dom.regWrite_poke_spec _ hfree hboot hfence hlock hbit

theorem State.access_runs {s : State} {p : Ix4} {o : Nat} (f : Dom → Dom) (hclocks : (s.pol p).clocks.stopped = false) :
    s.access p o f = s.act p f := by
  unfold State.access
  rw [State.actOn_runs _ _ _ hclocks]
  exact ite_self _

theorem exec_berthPoke (p b : Ix4) (m : Master) (v : Word) (s : State) : exec (.berthPoke p b m v) s =
    .next (s.access p (Off.berth b.toNat + 0x10) (·.masterWrite m (Off.berth b.toNat + 0x10) 4 v.toNat Coincide.none)) := rfl

theorem pokeEffect_claim : Claim.PokeEffect := by
  intro s p b m v ⟨hissues, hclocks, hfree, hboot, hfence, hlock⟩ hbit hrunning
  have hword : bitOf (v.toNat % 2 ^ 32 % 2 ^ 32) 0 = true := by
    rw [Nat.mod_mod, Nat.mod_eq_of_lt v.isLt, bitOf_eq_testBit, BitVec.testBit_toNat, hbit]
  obtain ⟨r, hwrite⟩ := Dom.masterWrite_poke (d := s.dom p) hissues hfree hboot hfence hlock hword
  refine ⟨_, exec_berthPoke p b m v s, ?_⟩
  rw [State.access_runs _ hclocks,
    State.bth_act (f := (·.masterWrite m (Off.berth b.toNat + 0x10) 4 v.toNat Coincide.none)) (by rw [hwrite]; rfl), hwrite,
    Dom.berth_onBerth]
  exact if_pos hrunning

/-! ## The entry of an interrupt (R242) -/

/-- The lowest pending source that the mask enables is the one taken. -/
theorem Berth.takeable_lowest {x : Berth} {n : Ix4} (henabled : x.ie = true) (hpending : (x.pend &&& x.mask).getLsbD n.toNat = true)
    (hlowest : ∀ m, m < n.toNat → (x.pend &&& x.mask).getLsbD m = false) : x.takeable = some n.toNat := by
  simp only [BitVec.getLsbD_and] at hpending hlowest
  rw [Berth.takeable, if_pos henabled, List.find?_range_eq_some]
  exact ⟨hpending, List.mem_range.mpr (by cases n <;> decide), fun m hm => by rw [hlowest m hm]; rfl⟩

/-- The berth stands between two instructions, where `n` is 0, or has stood in a WAITT stall for `n` mill cycles. -/
def Berth.StoodFor (x : Berth) (n : Nat) : Prop := x.phase = .running ∧ n = 0 ∨ ∃ k v m l, x.phase = .waitt k v m l

theorem Polder.interrupts_eq {q : Polder} {b : Ix4} {src n : Nat} (hmills : q.millsRun = true)
    (hrun : (q.berths.get b).run.isSome = true) (hfree : (q.berths.get b).impounded = false)
    (hunhalted : (q.berths.get b).halted = false) (hstood : (q.berths.get b).StoodFor n)
    (htakeable : (q.berths.get b).takeable = some src) : q.interrupts b = some src := by
  rcases hstood with ⟨hrunning, -⟩ | ⟨k, v, m, l, hwaits⟩
  · simp [Polder.interrupts, hmills, hrun, hfree, hunhalted, hrunning, htakeable]
  · simp [Polder.interrupts, hmills, hrun, hfree, hunhalted, hwaits, htakeable]

/-! ### What mill cycles in which nothing lands leave of a berth -/

/-- `y` is the berth `x` after `n` mill cycles, but for its budget, and for the flights and the shape entries that have settled. -/
def Berth.Passed (x : Berth) (n : Nat) (y : Berth) : Prop := ∃ used flights shapes pending,
  y = { x with mc := x.mc + n, used := used, flights := flights, shapes := shapes, shapePend := pending } ∧ flights ⊆ x.flights

theorem Berth.Passed.refl (x : Berth) : x.Passed 0 x := ⟨x.used, x.flights, x.shapes, x.shapePend, rfl, fun _ h => h⟩

theorem Berth.Passed.trans {x y z : Berth} {n m : Nat} (h : x.Passed n y) (h' : y.Passed m z) : x.Passed (n + m) z := by
  obtain ⟨_, flights, _, _, rfl, hflights⟩ := h
  obtain ⟨used, flights', shapes, pending, rfl, hflights'⟩ := h'
  exact ⟨used, flights', shapes, pending, by rw [Nat.add_assoc], fun _ hf => hflights (hflights' hf)⟩

theorem Berth.Passed.calm {x y : Berth} {n m : Nat} (h : x.Passed n y) (hcalm : x.Calm (n + m)) : y.Calm m := by
  obtain ⟨used, flights, shapes, pending, rfl, hflights⟩ := h
  intro f hf
  have := hcalm f (hflights hf)
  rwa [← Nat.add_assoc] at this

theorem Berth.Passed.rstack {x y : Berth} {n : Nat} (h : x.Passed n y) : y.rstack = x.rstack := by
  obtain ⟨_, _, _, _, rfl, -⟩ := h
  rfl

theorem Berth.tick_passed (x : Berth) (n : Nat) (fed : Bool) : x.Passed n (x.tick n fed).settleShapes := x.tick_eq n fed

theorem Polder.tick_passed {q : Polder} {b : Ix4} {n : Nat} (fed : Bool) (hcalm : (q.berths.get b).Calm n) :
    ∃ y, (q.berths.get b).Passed n y ∧ q.tick b n fed = q.withBerth b y :=
  ⟨_, Berth.tick_passed _ n fed, Polder.tick_calm hcalm⟩

/-- The event counters are registers. -/
theorem Polder.event_withRegs (q : Polder) (e n : Nat) (b : Option Ix4) : ∃ r, q.event e n b = q.withRegs r := by
  unfold Polder.event
  generalize q.watch.evsel.filter _ = l
  induction l generalizing q with
  | nil => exact ⟨q.regs, rfl⟩
  | cons x xs ih =>
    obtain ⟨r, h⟩ := ih (q.bump (Off.evcnt x.1) n)
    exact ⟨r, h.trans (q.bump_withRegs _ _ r)⟩

/-- The mill cycles of the stall that an interrupt ends are delivered to the berth, and counted (R229). -/
theorem Polder.stall_passed {q : Polder} {b : Ix4} {n : Nat} (hstood : (q.berths.get b).StoodFor n) (hcalm : (q.berths.get b).Calm n) :
    ∃ y r, (q.berths.get b).Passed n y ∧ q.stall b n = (q.withBerth b y).withRegs r ∧
      ((q.berths.get b).phase = .running → r = q.regs) := by
  rcases hstood with ⟨hrunning, rfl⟩ | ⟨k, v, m, l, hwaits⟩
  · refine ⟨q.berths.get b, q.regs, .refl _, ?_, fun _ => rfl⟩
    unfold Polder.stall
    rw [hrunning]
    exact congrArg (fun berths => ({ q with berths := berths } : Polder)) (Quad.set_get_self q.berths b).symm
  · obtain ⟨y, hpassed, htick⟩ := Polder.tick_passed (q := q) false hcalm
    obtain ⟨r, hevent⟩ := ((q.withBerth b y).bump (Off.berth b.toNat + 0x30) n).event_withRegs 4 n (some b)
    refine ⟨y, r, hpassed, ?_, fun hrunning => absurd (hwaits.symm.trans hrunning) (by simp)⟩
    unfold Polder.stall
    rw [hwaits]
    dsimp only
    rw [htick, hevent, Polder.bump_withRegs]

/-- An interrupt that is taken: after the stall that it ends, and 3 mc more, the berth enters its source. -/
theorem Dom.interrupt_spec {d : Dom} {b : Ix4} {src n : Nat} (hsrc : d.q.interrupts b = some src) (hstood : (d.berth b).StoodFor n)
    (hcalm : (d.berth b).Calm (n + 3)) (hroom : (d.berth b).rstack.length < 544) :
    ∃ z r, (d.berth b).Passed (n + 3) z ∧ d.interrupt b n = d.on (fun q => (q.withBerth b (z.enter src)).withRegs r) ∧
      ((d.berth b).phase = .running → r = d.q.regs) := by
  have hcalmStall : (d.berth b).Calm n := fun f hf => (hcalm f hf).imp_right (fun h => by omega)
  obtain ⟨y, r, hpassed, hstall, hregs⟩ := Polder.stall_passed (q := d.q) hstood hcalmStall
  have hberth : (d.stall b n).q.berths.get b = y := by
    show (d.q.stall b n).berths.get b = y
    rw [hstall, Polder.withRegs_get, Polder.withBerth_get]
  obtain ⟨z, hpassed3, htick⟩ := Polder.tick_passed (q := (d.stall b n).q) (b := b) (n := 3) false
    (by rw [hberth]; exact hpassed.calm hcalm)
  rw [hberth] at hpassed3
  have hroom3 : ((d.stall b n).berth b).rstack.length < 544 := by
    rw [Dom.berth, hberth, hpassed.rstack]
    exact hroom
  refine ⟨z, r, hpassed.trans hpassed3, ?_, hregs⟩
  unfold Dom.interrupt
  rw [hsrc]
  dsimp only
  rw [Dom.enterInterrupt_room src hroom3]
  show ({ d with q := ((d.stall b n).q.tick b 3 false).onBerth b (·.enter src) } : Dom) = { d with q := _ }
  rw [htick, Polder.onBerth_eq, Polder.withBerth_get, Polder.withBerth_withBerth]
  show ({ d with q := (d.q.stall b n).withBerth b _ } : Dom) = _
  rw [hstall]
  show d.on (fun q => ((q.withBerth b y).withBerth b _).withRegs r) = _
  simp only [Polder.withBerth_withBerth]
  rfl

theorem exec_interruptEntry (p b : Ix4) (n : Nat) (s : State) :
    exec (.interruptEntry p ⟨b, n⟩) s = .next (s.actOn p (·.interrupt b n)) := rfl

theorem interruptEntryEffect_claim : Claim.InterruptEntryEffect := by
  intro s p b n stall hmills hrun hfree hunhalted hstood hcalm henabled hroom hpending hlowest
  have hsrc := Polder.interrupts_eq (q := s.pol p) (b := b) hmills hrun hfree hunhalted hstood
    (Berth.takeable_lowest henabled hpending hlowest)
  obtain ⟨z, r, ⟨used, flights, shapes, pending, hz, -⟩, hinterrupt, hregs⟩ :=
    Dom.interrupt_spec (d := s.dom p) (b := b) hsrc hstood hcalm hroom
  have hpol : (s.act p (·.interrupt b stall)).pol p = ((s.pol p).withBerth b (z.enter n.toNat)).withRegs r := by
    rw [State.act_pol _ _ _ (by rw [hinterrupt]; rfl), hinterrupt]
    rfl
  have hbth : (s.act p (·.interrupt b stall)).bth p b = z.enter n.toNat := by
    unfold State.bth
    rw [hpol, Polder.withRegs_get, Polder.withBerth_get]
  refine ⟨s.act p (·.interrupt b stall), ?_, ?_⟩
  · rw [exec_interruptEntry, State.actOn_runs _ _ _ (Polder.millsRun_clocks hmills)]
  · rw [hbth, hpol, hz]
    refine ⟨rfl, rfl, ?_, rfl, rfl, (Nat.add_assoc ..).symm, rfl, rfl, fun hrunning => hregs hrunning⟩
    simp [Berth.enter, Berth.returning, returnCell, Slot.now, cell, bit]

/-- Settles O9: SIGNAL, reads of BERTH_SIGNAL, the entry of an interrupt, and POKE. -/
theorem signalsAndInterrupts : Obligations.SignalsAndInterrupts :=
  ⟨signalResults_claim, interruptEntryEffect_claim, pokeEffect_claim⟩

end Sys2Proof.Machine
